-- ==== Sys2Proof/Word.lean ====
section
/-! DEFINITION. The words, the finite maps, the fixed sets of names and the operand records of the commands. -/

namespace Sys2Proof

/-- One byte. -/
abbrev Byte := BitVec 8
/-- A 64-bit register or memory word (R4). -/
abbrev Word := BitVec 64
/-- A finite map from numbers, kept with keys strictly rising. -/
abbrev NMap (β : Type) := List (Nat × β)
/-- Bytes by address. An address that is not listed reads as zero (R379). -/
abbrev Cells := NMap Byte

/-- States of a definition (R110). `FREE` is a definition that is not in the map. -/
inductive PState where
  | defined | resident | running | quiescing | quiesced | scrubbing | faulted
  deriving DecidableEq, Repr

/-- States of a command ring or QP queue (R152). A completion ring is `active` or not in the map. -/
inductive RingState where
  | active | aborting | aborted
  deriving DecidableEq, Repr

/-- States of the bell (R74). -/
inductive BellState where
  | freerun | acquiring | locked | holdover
  deriving DecidableEq, Repr

/-- Management states of the belfry (R417, R434, R439, R442, R502). -/
inductive BelfryState where
  | attached | orphaned | restarting | halted | recovery
  deriving DecidableEq, Repr

/-- Start-up stages (R491). -/
inductive Stage where
  | keepRom | training | imageLoad | verify | measure | firmwareInit | ready | recovery | stopped
  deriving DecidableEq, Repr

/-- The mailbox a Volmi message comes on (R416). -/
inductive Box where
  | pf
  | part (fn : Nat)
  | i3c
  deriving DecidableEq, Repr

/-- Classes of fault (R463). -/
inductive FClass where
  | corrected | contained | fatal
  deriving DecidableEq, Repr

/-- What the ECC decoder makes of a line (R368): no error; errors that it corrected, in so many sectors; an error that it cannot
correct. -/
inductive Ecc where
  | clean
  | corrected (sectors : Nat)
  | bad
  deriving DecidableEq, Repr

/-- What the tag check finds (R374): verifies with POISON 0, only with POISON 1, or with neither; or the tag's own sector
has an error that cannot be corrected. -/
inductive TagCheck where
  | ok | poisoned | bad | sector
  deriving DecidableEq, Repr

/-- What the stack returns for a line's ciphertext and tag (R370, R371): what the vault stored; other bytes, with the tag
given; or a tag sector with an error that cannot be corrected. -/
inductive Stored where
  | same
  | other (line : List Byte) (tag : BitVec 64)
  | sector
  deriving DecidableEq, Repr

/-- What an access finds of one line: its number, counted from the first line that the access touches; in each of its four
sectors the number of 16-bit symbols in error, check bits among them; and what the stack returns (R368, R371). A line of which
nothing is listed is as the vault stored it. -/
structure LineFound where
  line : Nat
  errs : List Nat
  stored : Stored
  deriving DecidableEq, Repr

/-- States of a queue pair (R315). -/
inductive QpState where
  | reset | ready | error
  deriving DecidableEq, Repr

/-- States of a TDI (R406). -/
inductive Tdi where
  | unlocked | locked | run | error
  deriving DecidableEq, Repr

/-- States of a tile (R169); `waiting` is a tile that has not been issued. -/
inductive TileState where
  | waiting | issued | remoteWait | ended | dropped
  deriving DecidableEq, Repr

/-- A tile's work (R168): which tile of which command it is. -/
inductive TileKind where
  | gemmSplit (part row col mt nt : Nat)
  | gemmCombine (row col mt nt : Nat)
  | attendOpen
  | attend (head first count : Nat)
  | attendClose
  | merge (first count : Nat)
  | reduce (first count : Nat)
  | convert (first count : Nat)
  | kv
  | phase (number first count : Nat)
  | routine (index : Nat)
  deriving DecidableEq, Repr

/-- A Volmi request (R420) without its opcode, which the command's name gives. -/
structure Req where
  major : Nat
  minor : Nat
  seq : Nat
  defId : Nat
  flags : Nat
  status : Nat
  reserved : Nat
  payloadLen : Nat
  check : BitVec 32
  payload : List Byte
  deriving DecidableEq, Repr

/-- A host write to BAR0 (R521). `window` says that the write came over the TDI's locked stream with T set (R407). -/
structure HostWrite where
  fn : Nat
  off : Nat
  data : List Byte
  window : Bool
  deriving DecidableEq, Repr

/-- A host read of BAR0 (R521). -/
structure HostRead where
  fn : Nat
  off : Nat
  size : Nat
  window : Bool
  deriving DecidableEq, Repr

/-- A control operation (R149): the function and the slot window it is written through (R530), and its arguments. -/
structure Ctl where
  fn : Nat
  slot : Option Nat
  arg0 : Word
  arg1 : Word
  arg2 : Word
  arg3 : Word
  window : Bool
  deriving DecidableEq, Repr

/-- The levels sampled at the deassertion of RESET_N, those of the inputs among them (R33, R37), and what SFDP shows (R32, R41,
R67). -/
structure Straps where
  testMode : Bool
  instanceId : BitVec 4
  hbmPop : BitVec 2
  lsoEn : BitVec 8
  host1En : Bool
  sfdpOk : Bool
  octal : Bool
  entropyOk : Bool
  errInN : Bool
  pmbAlertN : Bool
  ptpPps : Bool
  deriving DecidableEq, Repr

/-- What training and the self-test find during start-up (R42, R55, R501). -/
structure StartUp where
  stackGib : List (Option Nat)
  pinRate : Nat
  selfTestFailed : BitVec 16
  deriving DecidableEq, Repr

/-- One fault cause (R466, R488). `owner` is the definition owning a cause that names no slot (R386). -/
structure Cause where
  code : Nat
  slot : Option Nat
  owner : Option Nat
  loadGen : Nat
  detail : Word
  injected : Bool
  deriving DecidableEq, Repr

/-- A frame received on a network client port (R43, R303). -/
structure Frame where
  port : Nat
  rxErr : Bool
  rxTrunc : Bool
  ipExtra : Bool
  srcIp : BitVec 128
  ecn : BitVec 2
  udpPort : Nat
  udpLen : Nat
  hdr : List Byte
  body : List Byte
  tag : List Byte
  check : BitVec 32
  deriving DecidableEq, Repr

/-- A fabric request to memory (R11): its label, its service class with the deadline field of the DEADLINE class, its
address, and what it finds of its lines. A slot's address is an offset of its definition (R372), or, with `window`, a block
physical address in a shared window that the keep has authorised (R13, R109); the address of labels 0x40, 0x42 and 0x43 is a
block physical address. -/
structure MemReq where
  label : Nat
  cls : Nat
  deadline : Nat
  addr : Nat
  len : Nat
  window : Bool
  found : List LineFound
  deriving DecidableEq, Repr

/-- A request on the DOE of a function (R403). `body` are its bytes from the first parameter on, whose low four bits name a
certificate slot. -/
structure Doe where
  fn : Nat
  session : Option Nat
  body : List Byte
  deriving DecidableEq, Repr

/-- A TDISP request (R406): the PF's port, the SPDM session, the VF named and the start nonce given. -/
structure TdiReq where
  port : Nat
  session : Option Nat
  vf : Nat
  nonce : BitVec 256
  deriving DecidableEq, Repr

/-- An IDE_KM request (R405). `agree` is the result of the known-answer check of a key set that is to come into use (R395). -/
structure IdeReq where
  port : Nat
  session : Option Nat
  stream : Nat
  keySet : Nat
  sub : Nat
  tx : Bool
  key : BitVec 256
  iv : BitVec 96
  covers : List Nat
  agree : Bool
  deriving DecidableEq, Repr

/-- A routine instance on a lantern (R234): its slot, command ring and tile. -/
structure LRef where
  slot : Nat
  ring : Nat
  tile : Nat
  deriving DecidableEq, Repr

end Sys2Proof
end

