-- ==== Sys2Proof/Syntax.lean ====
section
/-! DEFINITION. The commands of spec/opcode_table.json, one constructor per row in the table's order. -/

namespace Sys2Proof

/-- The commands the block takes and the events it undergoes. -/
inductive Instr where
  /-- POWER_UP (R20). -/
  | powerUp
  /-- POWER_REMOVAL (R38). -/
  | powerRemoval
  /-- RESET_N_ASSERT (R35). -/
  | resetNAssert
  /-- RESET_N_DEASSERT (R493). -/
  | resetNDeassert (st : Straps)
  /-- THROTTLE_N_ASSERT (R35). -/
  | throttleNAssert
  /-- THROTTLE_N_DEASSERT (R35). -/
  | throttleNDeassert
  /-- THROTTLE_CHATTER_RELEASE (R36). -/
  | throttleChatterRelease
  /-- TAMPER_N_ASSERT (R398). -/
  | tamperNAssert
  /-- ERR_IN_N_ASSERT (R35). -/
  | errInNAssert
  /-- INPUT_CHATTER (R34). -/
  | inputChatter (input : Nat)
  /-- PPS_EDGE (R74). -/
  | ppsEdge (tod : BitVec 48)
  /-- TIME_PORT_UNLOCK (R65). -/
  | timePortUnlock (tai locked : Bool) (tod : BitVec 48)
  /-- PPS_TIMEOUT (R74). -/
  | ppsTimeout
  /-- HOLDOVER_TIMEOUT (R74). -/
  | holdoverTimeout
  /-- BELL_NOW_READ (R78). -/
  | bellNowRead (r : HostRead)
  /-- CARILLON_STAGE (R91). -/
  | carillonStage (box : Box) (r : Req)
  /-- CARILLON_ARM (R92). -/
  | carillonArm (box : Box) (r : Req) (accept : BitVec 8)
  /-- CARILLON_DISARM (R93). -/
  | carillonDisarm (box : Box) (r : Req)
  /-- CARILLON_SWITCHOVER (R94). -/
  | carillonSwitchover
  /-- EGRESS_HOLD_END (R94). -/
  | egressHoldEnd
  /-- GUARANTEE_WINDOW_END (R102): with the slots and host resources whose requests the host's controller kept waiting. -/
  | guaranteeWindowEnd (waited : List (Nat × Nat))
  /-- POWER_BUDGET_EXHAUSTED (R456). -/
  | powerBudgetExhausted (slot : Nat)
  /-- PART_DEFINE (R107). -/
  | partDefine (box : Box) (r : Req)
  /-- PART_LOAD (R112). -/
  | partLoad (box : Box) (r : Req) (agree : Bool)
  /-- PART_UNLOAD (R119). -/
  | partUnload (box : Box) (r : Req)
  /-- PART_RESIZE (R117). -/
  | partResize (box : Box) (r : Req)
  /-- PART_QUIESCE (R113). -/
  | partQuiesce (box : Box) (r : Req)
  /-- QUIESCE_COMPLETE (R113). -/
  | quiesceComplete (defId : Nat)
  /-- DRAIN_LIMIT_EXPIRY (R113). -/
  | drainLimitExpiry (defId : Nat)
  /-- PREEMPT_WAIT_EXPIRY (R177). -/
  | preemptWaitExpiry (slot ring tile : Nat)
  /-- PART_RESUME (R179). -/
  | partResume (box : Box) (r : Req)
  /-- PART_RESET (R115). -/
  | partReset (box : Box) (r : Req)
  /-- PART_SCRUB (R122). -/
  | partScrub (box : Box) (r : Req)
  /-- SCRUB_COMPLETE (R122). -/
  | scrubComplete (defId : Nat)
  /-- PART_DESTROY (R124). -/
  | partDestroy (box : Box) (r : Req)
  /-- CONTAINED_RESET (R472). -/
  | containedReset (c : Cause)
  /-- DIRTYLOG_ENABLE (R129). -/
  | dirtylogEnable (box : Box) (r : Req)
  /-- DIRTYLOG_HARVEST (R131). -/
  | dirtylogHarvest (box : Box) (r : Req)
  /-- DB_RING (R137). -/
  | dbRing (w : HostWrite)
  /-- RING_CREATE (R152). -/
  | ringCreate (c : Ctl)
  /-- RING_DESTROY (R152). -/
  | ringDestroy (c : Ctl)
  /-- RING_ABORT (R152). -/
  | ringAbort (c : Ctl)
  /-- RING_ABORT_DRAINED (R152). -/
  | ringAbortDrained (fn : Nat)
  /-- PT_SET (R154). -/
  | ptSet (c : Ctl)
  /-- INVALIDATE (R156). -/
  | invalidate (c : Ctl)
  /-- FENCE_INIT (R161). -/
  | fenceInit (c : Ctl)
  /-- FENCE_ABANDON (R161). -/
  | fenceAbandon (c : Ctl)
  /-- FENCE_READ (R150). -/
  | fenceRead (c : Ctl)
  /-- QP_MODIFY_READY (R315). -/
  | qpModifyReady (c : Ctl)
  /-- QP_MODIFY_RESET (R315). -/
  | qpModifyReset (c : Ctl)
  /-- QP_QUERY (R314). -/
  | qpQuery (c : Ctl)
  /-- NOP (R141). -/
  | nop (slot ring : Nat)
  /-- FENCE_WAIT (R160). -/
  | fenceWait (slot ring : Nat)
  /-- FENCE_SIGNAL (R160). -/
  | fenceSignal (slot ring : Nat)
  /-- GEMM (R218). -/
  | gemm (slot ring : Nat)
  /-- ATTEND (R238). -/
  | attend (slot ring : Nat)
  /-- MERGE (R267). -/
  | merge (slot ring : Nat)
  /-- REDUCE (R340). -/
  | reduce (slot ring : Nat)
  /-- CONVERT (R349). -/
  | convert (slot ring : Nat)
  /-- ARRIVAL_LIMIT_EXPIRY (R345). -/
  | arrivalLimitExpiry (slot ring : Nat)
  /-- KV_APPEND (R287). -/
  | kvAppend (slot ring : Nat)
  /-- KV_COMMIT (R289). -/
  | kvCommit (slot ring : Nat)
  /-- KV_ROLLBACK (R290). -/
  | kvRollback (slot ring : Nat)
  /-- KV_TRIM (R291). -/
  | kvTrim (slot ring : Nat)
  /-- BATCH_STEP (R298). -/
  | batchStep (slot ring : Nat)
  /-- LANTERN_RUN (R234). -/
  | lanternRun (slot ring : Nat)
  /-- PUT (R316). -/
  | put (slot qp : Nat)
  /-- GET (R316). -/
  | get (slot qp : Nat)
  /-- ATOMIC (R320). -/
  | atomic (slot qp : Nat)
  /-- SEND (R319). -/
  | send (slot qp : Nat)
  /-- SEND_RECEIVE (R319). -/
  | sendReceive (slot qp : Nat)
  /-- TILE_ISSUE (R172). -/
  | tileIssue (dome lane : Nat)
  /-- TILE_LOCAL_END (R169). -/
  | tileLocalEnd (slot ring tile : Nat) (order : List Nat)
  /-- COMPLETION_WRITE (R147). -/
  | completionWrite (slot cpl : Nat)
  /-- WATCH_FETCH_ISSUE (R253). -/
  | watchFetchIssue (slot ring head entry : Nat)
  /-- WATCH_DATA_ARRIVAL (R25). -/
  | watchDataArrival (fetch : Nat)
  /-- WATCH_READ_ABANDON (R284). -/
  | watchReadAbandon (fetch : Nat)
  /-- LOAD_GEN_ABANDON (R508). -/
  | loadGenAbandon (slot gen : Nat)
  /-- FRAGMENT_RESEND_TIMER (R259). -/
  | fragmentResendTimer (fragTag : Nat)
  /-- REMOTE_LIMIT_EXPIRY (R260). -/
  | remoteLimitExpiry (fragTag : Nat)
  /-- QREAD (R231). -/
  | qread (u : LRef) (rs1 rs2 : Word)
  /-- QWRITE (R231). -/
  | qwrite (u : LRef) (rs1 rs2 : Word)
  /-- QDRUM_LD (R231). -/
  | qdrumLd (u : LRef) (rs1 : Word)
  /-- QDRUM_ST (R231). -/
  | qdrumSt (u : LRef) (rs1 rs2 : Word)
  /-- QDRUM_ADD (R231). -/
  | qdrumAdd (u : LRef) (rs1 rs2 : Word)
  /-- QEXIT (R231). -/
  | qexit (u : LRef) (rs1 : Word)
  /-- QCRC_INIT (R360). -/
  | qcrcInit (u : LRef) (rs1 rs2 : Word)
  /-- QCRC_FEED8 (R360). -/
  | qcrcFeed8 (u : LRef) (rs1 rs2 : Word)
  /-- QCRC_FEED16 (R360). -/
  | qcrcFeed16 (u : LRef) (rs1 rs2 : Word)
  /-- QCRC_FEED32 (R360). -/
  | qcrcFeed32 (u : LRef) (rs1 rs2 : Word)
  /-- QCRC_RESULT (R360). -/
  | qcrcResult (u : LRef) (rs1 rs2 : Word)
  /-- LANTERN_CLOCK_LIMIT (R235). -/
  | lanternClockLimit (u : LRef)
  /-- BURST_RELEASE (R330). -/
  | burstRelease (slot qp : Nat) (ready : BitVec 256)
  /-- PUT_PACKET (R318). -/
  | putPacket (f : Frame)
  /-- GET_PACKET (R318). -/
  | getPacket (f : Frame)
  /-- ATOMIC_PACKET (R320). -/
  | atomicPacket (f : Frame)
  /-- SEND_PACKET (R319). -/
  | sendPacket (f : Frame)
  /-- FRAGMENT_REQUEST (R258). -/
  | fragmentRequest (f : Frame)
  /-- GET_RESP (R318). -/
  | getResp (f : Frame)
  /-- ATOMIC_RESP (R320). -/
  | atomicResp (f : Frame)
  /-- FRAGMENT_RESP (R259). -/
  | fragmentResp (f : Frame)
  /-- ACK (R325). -/
  | ack (f : Frame)
  /-- ABORT (R315). -/
  | abort (f : Frame)
  /-- NON_MAELIC_FRAME (R44). -/
  | nonMaelicFrame (f : Frame)
  /-- RX_ERROR_FRAME (R46). -/
  | rxErrorFrame (f : Frame)
  /-- QP_CONTEXT_FETCHED (R332). -/
  | qpContextFetched (slot qp : Nat)
  /-- ACK_DELAY_TIMER (R324). -/
  | ackDelayTimer (slot qp : Nat)
  /-- RTO_EXPIRY (R325). -/
  | rtoExpiry (slot qp : Nat)
  /-- RNR_RESEND (R319). -/
  | rnrResend (slot qp : Nat)
  /-- RNR_LIMIT_EXPIRY (R319). -/
  | rnrLimitExpiry (slot qp : Nat)
  /-- PATH_SUSPEND_END (R326). -/
  | pathSuspendEnd (slot qp path : Nat)
  /-- MEMORY_READ (R374). -/
  | memoryRead (m : MemReq)
  /-- MEMORY_WRITE (R377). -/
  | memoryWrite (m : MemReq) (data : List Byte)
  /-- DEBUG_ACCESS (R385). -/
  | debugAccess (m : MemReq) (data : Option (List Byte))
  /-- PATROL_START (R378). -/
  | patrolStart
  /-- CHUNK_INIT_DONE (R379). -/
  | chunkInitDone (defId ordinal : Nat)
  /-- REKEY_PAGE_DONE (R381). -/
  | rekeyPageDone (slot page : Nat) (found : List LineFound)
  /-- REKEY_WALK_COMPLETE (R382). -/
  | rekeyWalkComplete (slot : Nat)
  /-- HBM_TEMP_POLL (R451). -/
  | hbmTempPoll (temps : List Nat)
  /-- SELF_REFRESH_ENTRY (R452). -/
  | selfRefreshEntry (port : Nat)
  /-- KEY_ROTATE (R396). -/
  | keyRotate (box : Box) (r : Req) (agree : Bool)
  /-- WEIGHT_BIND (R414). -/
  | weightBind (box : Box) (r : Req) (agree : Bool)
  /-- BIND_COMPLETE (R415). -/
  | bindComplete (slot : Nat)
  /-- ATTEST_GET (R402). -/
  | attestGet (box : Box) (r : Req)
  /-- HELLO (R432). -/
  | hello (box : Box) (r : Req)
  /-- HEARTBEAT (R431). -/
  | heartbeat (box : Box) (r : Req)
  /-- TELEMETRY_GET_CAP_PAGE (R429). -/
  | telemetryGetCapPage (box : Box) (r : Req)
  /-- TELEMETRY_GET_MAC_TOTALS (R429). -/
  | telemetryGetMacTotals (box : Box) (r : Req)
  /-- TELEMETRY_GET_POWER (R462). -/
  | telemetryGetPower (box : Box) (r : Req)
  /-- TELEMETRY_GET_SLOT_COUNTS (R429). -/
  | telemetryGetSlotCounts (box : Box) (r : Req)
  /-- LIFETIME_GET (R516). -/
  | lifetimeGet (box : Box) (r : Req)
  /-- FW_RECOVER_BEGIN (R430). -/
  | fwRecoverBegin (box : Box) (r : Req)
  /-- FW_RECOVER_DATA (R430). -/
  | fwRecoverData (box : Box) (r : Req)
  /-- FW_RECOVER_COMMIT (R430). -/
  | fwRecoverCommit (box : Box) (r : Req)
  /-- FW_RECOVER_STATUS (R430). -/
  | fwRecoverStatus (box : Box) (r : Req)
  /-- FW_IMAGE_VERIFIED (R502). -/
  | fwImageVerified
  /-- FW_IMAGE_WRITTEN (R503). -/
  | fwImageWritten (readBack : Bool)
  /-- FAULT_INJECT (R490). -/
  | faultInject (box : Box) (r : Req)
  /-- FAULT_INJECT_FIRE (R490). -/
  | faultInjectFire
  /-- NOTICE_HEAD_WRITE (R437). -/
  | noticeHeadWrite (w : HostWrite)
  /-- ANSWER_VALID_CLEAR (R418). -/
  | answerValidClear (w : HostWrite)
  /-- VF_SESSION_LAPSE (R433). -/
  | vfSessionLapse (fn : Nat)
  /-- PF_HEARTBEAT_TIMEOUT (R434). -/
  | pfHeartbeatTimeout
  /-- WATCHDOG_EXPIRY (R439). -/
  | watchdogExpiry
  /-- FIRMWARE_SELF_RESTART (R439). -/
  | firmwareSelfRestart
  /-- BELFRY_RESTART_COMPLETE (R439). -/
  | belfryRestartComplete
  /-- VF_FLR (R532). -/
  | vfFlr (fn : Nat)
  /-- PF0_FLR (R62). -/
  | pf0Flr
  /-- PF1_FLR (R62). -/
  | pf1Flr
  /-- HOST_LINK_DOWN (R62). -/
  | hostLinkDown (port : Nat)
  /-- HOST_DMA_ERROR (R62). -/
  | hostDmaError (slot gen : Nat) (iova : Word)
  /-- GET_VERSION (R403). -/
  | getVersion (q : Doe)
  /-- GET_CAPABILITIES (R403). -/
  | getCapabilities (q : Doe)
  /-- NEGOTIATE_ALGORITHMS (R403). -/
  | negotiateAlgorithms (q : Doe)
  /-- GET_DIGESTS (R403). -/
  | getDigests (q : Doe)
  /-- GET_CERTIFICATE (R400). -/
  | getCertificate (q : Doe)
  /-- CHALLENGE (R403). -/
  | challenge (q : Doe)
  /-- GET_MEASUREMENTS (R404). -/
  | getMeasurements (q : Doe)
  /-- KEY_EXCHANGE (R403). -/
  | keyExchange (q : Doe)
  /-- FINISH (R403). -/
  | finish (q : Doe)
  /-- SPDM_HEARTBEAT (R403). -/
  | spdmHeartbeat (q : Doe)
  /-- KEY_UPDATE (R403). -/
  | keyUpdate (q : Doe)
  /-- END_SESSION (R403). -/
  | endSession (q : Doe)
  /-- QUERY (R405). -/
  | query (q : IdeReq)
  /-- KEY_PROG (R405). -/
  | keyProg (q : IdeReq)
  /-- K_SET_GO (R405). -/
  | kSetGo (q : IdeReq)
  /-- K_SET_STOP (R405). -/
  | kSetStop (q : IdeReq)
  /-- GET_TDISP_VERSION (R406). -/
  | getTdispVersion (q : TdiReq)
  /-- GET_TDISP_CAPABILITIES (R406). -/
  | getTdispCapabilities (q : TdiReq)
  /-- LOCK_INTERFACE_REQUEST (R406). -/
  | lockInterfaceRequest (q : TdiReq)
  /-- GET_DEVICE_INTERFACE_REPORT (R406). -/
  | getDeviceInterfaceReport (q : TdiReq)
  /-- GET_DEVICE_INTERFACE_STATE (R406). -/
  | getDeviceInterfaceState (q : TdiReq)
  /-- START_INTERFACE_REQUEST (R407). -/
  | startInterfaceRequest (q : TdiReq)
  /-- STOP_INTERFACE_REQUEST (R406). -/
  | stopInterfaceRequest (q : TdiReq)
  /-- TDISP_CONFIG_WRITE (R406). -/
  | tdispConfigWrite (fn : Nat)
  /-- ENTDAA (R68). -/
  | entdaa (dyn : BitVec 7) (equalId : Bool)
  /-- RSTDAA (R68). -/
  | rstdaa
  /-- GETPID (R68). -/
  | getpid
  /-- GETBCR (R68). -/
  | getbcr
  /-- GETDCR (R68). -/
  | getdcr
  /-- GETSTATUS (R484). -/
  | getstatus
  /-- ENEC (R68). -/
  | enec
  /-- DISEC (R68). -/
  | disec
  /-- UNLOCK_CHAL (R489). -/
  | unlockChal
  /-- UNLOCK_TOKEN (R489). -/
  | unlockToken (sig : List Byte)
  /-- CRC_START (R361). -/
  | crcStart (w : HostWrite)
  /-- CRC_FEED8 (R362). -/
  | crcFeed8 (w : HostWrite)
  /-- CRC_FEED16 (R362). -/
  | crcFeed16 (w : HostWrite)
  /-- CRC_FEED32 (R362). -/
  | crcFeed32 (w : HostWrite)
  /-- PWR_CTRL_WRITE (R460). -/
  | pwrCtrlWrite (w : HostWrite)
  /-- PIN_HOLD_RELEASE (R482). -/
  | pinHoldRelease (w : HostWrite)
  /-- RC_FIELD_READ (R522). -/
  | rcFieldRead (r : HostRead)
  /-- REGISTER_WRITE (R522). -/
  | registerWrite (w : HostWrite)
  /-- POWER_SAMPLE (R447). -/
  | powerSample (p pd : Nat) (energy : List (Nat × Nat))
  /-- PEAK_CREDIT_EXHAUSTED (R447). -/
  | peakCreditExhausted (p pd : Nat)
  /-- PEAK_CREDIT_FULL (R447). -/
  | peakCreditFull
  /-- ENVELOPE_RAISE (R447). -/
  | envelopeRaise
  /-- THERMAL_SENSOR_READ (R450). -/
  | thermalSensorRead (temps : List Nat)
  /-- THERMAL_LIMIT_STEP (R450). -/
  | thermalLimitStep
  /-- POWER_WINDOW_END (R457). -/
  | powerWindowEnd
  /-- WEAR_RATED (R458). -/
  | wearRated
  /-- PMBUS_POLL (R70). -/
  | pmbusPoll (readings : List (Option (BitVec 16) × Option (BitVec 16)))
  /-- PMB_ALERT (R453). -/
  | pmbAlert (words : List (Option (BitVec 16)))
  /-- MAC_STATS_POLL (R50). -/
  | macStatsPoll (counts : List (List Nat))
  /-- FAULT_RECORD (R467). -/
  | faultRecord (unit : Nat) (causes : List Cause)
  /-- SAFE_STATE_ENTRY (R479). -/
  | safeStateEntry (c : Cause)
  /-- PARITY_SWEEP (R478). -/
  | paritySweep (bad : Option Nat)
  /-- ENGINE_FAULT (R485). -/
  | engineFault (dome engine : Nat) (u : LRef)
  /-- FAULT_N_PULSE_END (R483). -/
  | faultNPulseEnd
  /-- CHECKPOINT_TIMER (R515). -/
  | checkpointTimer
  /-- SECTOR_ERASE_DONE (R511). -/
  | sectorEraseDone
  /-- TIME_PORT_LOCK (R74). -/
  | timePortLock (tod : BitVec 48)
  /-- HOST_LINK_UP (R58). -/
  | hostLinkUp (port : Nat) (flit : Bool)
  /-- START_UP_COMPLETE (R493). -/
  | startUpComplete (o : StartUp)
  /-- IDE_STREAM_INTEGRITY_FAILURE (R406). -/
  | ideStreamIntegrityFailure (port stream : Nat)
  /-- RELEASED_CHUNK_SCRUB_DONE (R117). -/
  | releasedChunkScrubDone (chunk : Nat)
  /-- ENTROPY_FAIL (R488). -/
  | entropyFail
  /-- ENTROPY_SOURCE_RECOVERED (R488). -/
  | entropySourceRecovered
  /-- BELFRY_MEM_ECC (R488). -/
  | belfryMemEcc (uncorrectable : Bool)
  /-- TABLE_ECC (R488). -/
  | tableEcc (live : Bool) (entry : Nat)
  deriving DecidableEq, Repr

end Sys2Proof
end

