-- ==== Sys2Proof/Config.lean ====
section
/-! DEFINITION. What the manual leaves open and what outside standards fix: opaque constants, never evaluated. -/

namespace Sys2Proof

/-- The n-th value the manual leaves undefined (log 4). -/
opaque Config.free : Nat → BitVec 64
/-- The head index of a failure that concerns no head, by the count of free values drawn (R264, log 42). -/
opaque Config.headless : Nat → BitVec 16
/-- An element of a committed slot that a remote entry holds: by the count of free values drawn, the slot, the channel, and
K or V (R294, log 44). -/
opaque Config.remoteValue : Nat → Nat → Nat → Bool → BitVec 32
/-- Deviation, from 0 to 4, of the exponential of R201 (log 10). -/
opaque Config.expDev : BitVec 32 → Fin 5
/-- Deviation, from 0 to 4, of the hyperbolic tangent of R246 (log 10). -/
opaque Config.tanhDev : BitVec 32 → Fin 5
/-- The rate correction the bell chooses after a phase error (R75, log 11), before it is limited. -/
opaque Config.slew : Int → Nat → Int

/-- The vendor's code in a lantern's local memory, by address (R229, log 70). -/
opaque Config.vendorCode : Nat → BitVec 8
/-- What a library routine leaves in a register that the calling convention lets it change: by its table offset, the integer
registers at the call, and the register (32 and above for an f register) (R232, log 70). -/
opaque Config.libLeft : Nat → List (BitVec 64) → Nat → BitVec 64
/-- First and last local address of the library code in the vendor region (R229, log 70). -/
opaque Config.libFirst : Nat
opaque Config.libLast : Nat

/-- The SRC_NODE that a QP's context expects of its peer, by its connection record, which has no field for it (R331, log
48). -/
opaque Config.peerNode : List Byte → BitVec 16
/-- The device-unique secret (R390). -/
opaque Config.dus : List Byte
/-- The keep ROM's SHA-384 digest (R400). -/
opaque Config.romDigest : List Byte
/-- The keep ROM revision (R499). -/
opaque Config.romRevision : Nat
/-- Silicon stepping (R68, R491). -/
opaque Config.stepping : BitVec 12
/-- Hyore's MIPI manufacturer ID (R68). -/
opaque Config.mipiMfr : BitVec 15
/-- Hyore's JEDEC manufacturer code (R491). -/
opaque Config.jedecMfr : BitVec 11
/-- Whether the part is in the peak bin (R445). -/
opaque Config.peakBin : Bool
/-- Dome rail voltage in mV (R461). -/
opaque Config.vddDomeMv : BitVec 16
/-- The fused engine selection, of the test fuses (R28, R390). -/
opaque Config.engineFuses : List Byte
/-- BCR and DCR of the I3C target (R68; fixed by the MIPI specification). -/
opaque Config.i3cBcr : BitVec 8
opaque Config.i3cDcr : BitVec 8

/-- The refresh rate of a stack at a temperature in °C, by the stack's data sheet (R57, R451). -/
opaque Config.refreshRate : Nat → Nat
/-- Max_Read_Request_Size and Max_Payload_Size of each host port's controller, in bytes (R60). -/
opaque Config.maxReadRequest : Nat → Nat
opaque Config.maxPayload : Nat → Nat

/-- The keep's CTR_DRBG: its n-th draw of 32 bytes (R390). -/
opaque Config.drbg : Nat → BitVec 256
/-- An ECDSA signature of a private key over a digest, with the signer's own random number (R401, R403; log 14). -/
opaque Config.sign : List Byte → List Byte → List Byte
/-- Hyore's image-signing public key in the keep ROM (R499) and the product CA key (R489). -/
opaque Config.imageKey : List Byte
opaque Config.productKey : List Byte
/-- TCG DICE TcbInfo of a certificate (R401). -/
structure TcbInfo where
  vendor : String
  model : String
  fwid : List Byte
  svn : Nat
  notSecure : Bool
  vendorInfo : List Byte
  deriving DecidableEq, Repr

/-- A certificate as R401 profiles it: X.509 v3, signed ecdsa-with-SHA384. `ca` is the path length of a CA. `ext` is the content
of the extension under Hyore's private enterprise arc (R402). -/
structure Cert where
  subject : String
  key : List Byte
  serial : List Byte
  notBefore : String
  notAfter : String
  ca : Option Nat
  keyUsage : String
  tcb : Option TcbInfo
  ext : Option (List Byte)
  deriving DecidableEq, Repr

/-- DER of a certificate, signed under a private key (R401). -/
opaque Config.der : Cert → List Byte → List Byte
/-- The AMT-64 product CA's certificate and the digest of the Hyore root CA's (R400, R403). -/
opaque Config.productCert : List Byte
opaque Config.rootHash : List Byte
/-- Public key held in the stored DeviceID certificate (R400). -/
opaque Config.certKey : List Byte → List Byte
/-- Serial number of the DeviceID certificate (R489). -/
opaque Config.deviceSerial : List Byte
/-- Body of an SPDM, IDE_KM or TDISP response, by its name and what it depends on (R403 to R406). -/
opaque Config.doeBody : String → List Byte → List Byte

/-- Boundary scan: the number of cells of its register, and the bits it holds for the levels of the discrete pins (R71, log
65). -/
opaque Config.scanLength : Nat
opaque Config.scanCells : List Bool → Nat

/-- Where the block reserve holds the context of a physical QP number (R109, R311). -/
opaque Config.contextAddr : Nat → Nat
/-- Bytes of a context in the block reserve (R109, R332). -/
opaque Config.contextBytes : Nat

/-- The bin top (R445, R461). -/
def Config.binTop : Nat := if Config.peakBin then 1650 else 1600

end Sys2Proof
end

