-- ==== Sys2Proof/Machine/Assoc.lean ====
section
/-! DEFINITION. Finite maps kept as lists with keys strictly rising, and list helpers. -/

namespace Sys2Proof.Machine

variable {β : Type}

/-- The value at a key. -/
def mfind : NMap β → Nat → Option β
  | [], _ => none
  | (k, v) :: m, a => if k = a then some v else mfind m a

/-- Sets the value at a key and keeps the keys rising. -/
def mput : NMap β → Nat → β → NMap β
  | [], a, b => [(a, b)]
  | (k, v) :: m, a, b =>
    if a < k then (a, b) :: (k, v) :: m
    else if a = k then (a, b) :: m
    else (k, v) :: mput m a b

/-- Removes a key. -/
def mdrop : NMap β → Nat → NMap β
  | [], _ => []
  | (k, v) :: m, a => if k = a then m else (k, v) :: mdrop m a

/-- Changes the value at a key that is present. -/
def madj : NMap β → Nat → (β → β) → NMap β
  | [], _, _ => []
  | (k, v) :: m, a, f => if k = a then (k, f v) :: m else (k, v) :: madj m a f

/-- Keys strictly rising from a lower bound. -/
def mrising : Option Nat → NMap β → Bool
  | _, [] => true
  | lo, (k, _) :: m => (match lo with | none => true | some l => l < k) && mrising (some k) m

/-- The element at a place, or the default given. -/
def nth (l : List β) (i : Nat) (d : β) : β := l.getD i d

/-- Changes the element at a place, if there is one. -/
def setNth (l : List β) (i : Nat) (f : β → β) : List β :=
  match l, i with
  | [], _ => []
  | x :: t, 0 => f x :: t
  | x :: t, i + 1 => x :: setNth t i f

/-- Inserts a number into a rising list, once. -/
def insNat (a : Nat) : List Nat → List Nat
  | [] => [a]
  | k :: l => if a < k then a :: k :: l else if a = k then k :: l else k :: insNat a l

/-- Inserts by a key into a list sorted by that key, after those of equal key. -/
def insBy (key : β → Nat) (x : β) : List β → List β
  | [] => [x]
  | y :: l => if key x < key y then x :: y :: l else y :: insBy key x l

/-- Stable sort by a key. -/
def sortBy (key : β → Nat) (l : List β) : List β := l.foldl (fun acc x => insBy key x acc) []

/-- The first `n` numbers that satisfy a test, counted from `i` for at most `fuel` numbers. -/
def firstFree (ok : Nat → Bool) : Nat → Nat → Nat → List Nat
  | 0, _, _ => []
  | _, _, 0 => []
  | fuel + 1, i, n + 1 => if ok i then i :: firstFree ok fuel (i + 1) n else firstFree ok fuel (i + 1) (n + 1)

/-- Adds to a count and stays at its maximum. -/
def satAdd {w : Nat} (a : BitVec w) (n : Nat) : BitVec w :=
  if a.toNat + n < 2 ^ w then BitVec.ofNat w (a.toNat + n) else BitVec.allOnes w

end Sys2Proof.Machine
end

