-- ==== Sys2Proof/Machine/Bytes.lean ====
section
/-! DEFINITION. Byte lists, little-endian fields (R7) and byte-addressed memory in its one canonical form. -/

namespace Sys2Proof.Machine

/-- The number that bytes spell, lowest byte first (R7). -/
def leNat : List Byte → Nat
  | [] => 0
  | b :: l => b.toNat + 256 * leNat l

/-- A number as `n` bytes, lowest byte first (R7). -/
def leBytes : Nat → Nat → List Byte
  | 0, _ => []
  | n + 1, v => BitVec.ofNat 8 v :: leBytes n (v / 256)

/-- The number that bytes spell, highest byte first (R303, R313). -/
def beNat (l : List Byte) : Nat := leNat l.reverse

/-- A number as `n` bytes, highest byte first. -/
def beBytes (n v : Nat) : List Byte := (leBytes n v).reverse

/-- Bytes `off` to `off + n - 1` as a little-endian number. -/
def fld (l : List Byte) (off n : Nat) : Nat := leNat ((l.drop off).take n)

/-- The same, as a big-endian number. -/
def fldBe (l : List Byte) (off n : Nat) : Nat := beNat ((l.drop off).take n)

/-- Bits `hi` to `lo` of a number. -/
def bits (v hi lo : Nat) : Nat := v / 2 ^ lo % 2 ^ (hi + 1 - lo)

/-- One bit of a number. -/
def bit (v i : Nat) : Bool := v.testBit i

/-- A Bool as a bit at a place. -/
def bitAt (b : Bool) (i : Nat) : Nat := if b then 2 ^ i else 0

/-- Exactly `n` bytes: cut, or filled with zeros. -/
def padTo (n : Nat) (l : List Byte) : List Byte := (l ++ List.replicate (n - l.length) 0).take n

/-- Whether the bytes from `off` to `off + n - 1` are all zero. -/
def zeros (l : List Byte) (off n : Nat) : Bool := ((l.drop off).take n).all (· == 0)

/-- Reads one byte: an address that is not listed reads 0. -/
def readByte (m : Cells) (a : Nat) : Byte := (mfind m a).getD 0

/-- Writes one byte and keeps the canonical form: no entry equals what an unlisted address reads as. -/
def writeByte (m : Cells) (a : Nat) (b : Byte) : Cells := if b = 0 then mdrop m a else mput m a b

/-- Reads `n` bytes from `a`. -/
def readBytes (m : Cells) (a : Nat) : Nat → List Byte
  | 0 => []
  | n + 1 => readByte m a :: readBytes m (a + 1) n

/-- Writes bytes from `a`. -/
def writeBytes (m : Cells) (a : Nat) : List Byte → Cells
  | [] => m
  | b :: l => writeBytes (writeByte m a b) (a + 1) l

/-- The canonical form: keys strictly rising, no entry zero. -/
def Memory.wf (m : Cells) : Bool := mrising none m && m.all (fun c => c.2 != 0)

/-- The entries from `lo` to `lo + n - 1` removed, so that they read 0. -/
def clearBytes (m : Cells) (lo n : Nat) : Cells := m.filter (fun c => c.1 < lo || lo + n ≤ c.1)

/-- Splits bytes into pieces of `n`, the last one possibly shorter. -/
def pieces (n : Nat) : Nat → List Byte → List (List Byte)
  | 0, _ => []
  | fuel + 1, l => if l.isEmpty then [] else l.take n :: pieces n fuel (l.drop n)

end Sys2Proof.Machine
end

