-- ==== Sys2Proof/Machine/Formats.lean ====
section
/-! DEFINITION. Number formats: exact values, conversion, FP32 arithmetic, the exponential, MX blocks and KV-4o pages
(R189 to R210). -/

namespace Sys2Proof.Machine

/-! ### Values -/

/-- What a code stands for: a NaN, an Infinity, or m · 2^e with a sign. -/
inductive FV where
  | nan (neg : Bool)
  | inf (neg : Bool)
  | fin (neg : Bool) (m : Nat) (e : Int)
  deriving DecidableEq, Repr

/-- How a format treats its top exponent: IEEE, E4M3's one NaN, or all finite (R189). -/
inductive FTop where
  | ieee | oneNan | none
  deriving DecidableEq, Repr

/-- A floating-point format (R189): exponent bits, mantissa bits, bias. -/
structure FFmt where
  eb : Nat
  mb : Nat
  bias : Nat
  top : FTop
  deriving DecidableEq, Repr

def f32 : FFmt := { eb := 8, mb := 23, bias := 127, top := .ieee }
def fBf16 : FFmt := { eb := 8, mb := 7, bias := 127, top := .ieee }
def fFp16 : FFmt := { eb := 5, mb := 10, bias := 15, top := .ieee }
def fE4m3 : FFmt := { eb := 4, mb := 3, bias := 7, top := .oneNan }
def fE5m2 : FFmt := { eb := 5, mb := 2, bias := 15, top := .ieee }
def fE2m3 : FFmt := { eb := 2, mb := 3, bias := 1, top := .none }
def fE3m2 : FFmt := { eb := 3, mb := 2, bias := 3, top := .none }
def fE2m1 : FFmt := { eb := 2, mb := 1, bias := 1, top := .none }

/-- The value of a code. -/
def FFmt.value (f : FFmt) (code : Nat) : FV :=
  let neg := code.testBit (f.eb + f.mb)
  let ex := code / 2 ^ f.mb % 2 ^ f.eb
  let m := code % 2 ^ f.mb
  let topE := ex == 2 ^ f.eb - 1
  if f.top == .ieee && topE then (if m == 0 then .inf neg else .nan neg)
  else if f.top == .oneNan && topE && m == 2 ^ f.mb - 1 then .nan neg
  else if ex == 0 then .fin neg m (1 - (f.bias : Int) - f.mb)
  else .fin neg (2 ^ f.mb + m) ((ex : Int) - f.bias - f.mb)

/-- The magnitude code of the largest finite value. -/
def FFmt.maxMag (f : FFmt) : Nat :=
  match f.top with
  | .ieee => (2 ^ f.eb - 1) * 2 ^ f.mb - 1
  | .oneNan => 2 ^ (f.eb + f.mb) - 2
  | .none => 2 ^ (f.eb + f.mb) - 1

/-- m ÷ 2^k to the nearest integer, ties to even. -/
def rne (m k : Nat) : Nat :=
  let q := m / 2 ^ k
  let r := m % 2 ^ k
  if k == 0 then m
  else if 2 ^ (k - 1) < r || (r == 2 ^ (k - 1) && q % 2 == 1) then q + 1 else q

/-- A finite magnitude in units of 2^q, rounded to nearest, ties to even. -/
def rneTo (m : Nat) (e q : Int) : Nat := if q ≤ e then m * 2 ^ (e - q).toNat else rne m (q - e).toNat

/-- Magnitude code of a finite value before saturation (R192, R203). -/
def FFmt.magOf (f : FFmt) (m : Nat) (e : Int) : Nat :=
  if m == 0 then 0
  else
    let q0 : Int := 1 - (f.bias : Int) - f.mb
    let q := max ((Nat.log2 m : Int) + e - f.mb) q0
    rneTo m e q + (q - q0).toNat * 2 ^ f.mb

/-- Conversion to a format (R203): BF16, FP16 and FP32 overflow to Infinity, E5M2 and E4M3 to their largest
finite value, and an MX element saturates. -/
def FFmt.code (f : FFmt) (v : FV) : Nat :=
  let sign (neg : Bool) : Nat := if neg then 2 ^ (f.eb + f.mb) else 0
  match v with
  | .nan neg => match f.top with
    | .ieee => (2 ^ f.eb - 1) * 2 ^ f.mb + 2 ^ (f.mb - 1)
    | .oneNan => 2 ^ (f.eb + f.mb) - 1 + sign neg
    | .none => 0
  | .inf neg => match f.top with
    | .ieee => sign neg + (2 ^ f.eb - 1) * 2 ^ f.mb
    | _ => sign neg + f.maxMag
  | .fin neg m e =>
    let mag := f.magOf m e
    if f.maxMag < mag then
      if f.top == .ieee && !(f == fE5m2) then sign neg + (2 ^ f.eb - 1) * 2 ^ f.mb
      else sign neg + f.maxMag
    else sign neg + mag

/-- Conversion to INT8 (R203). -/
def int8Code (v : FV) : Nat :=
  match v with
  | .nan _ => 0
  | .inf neg => if neg then 128 else 127
  | .fin neg m e =>
    let n := rneTo m e 0
    if neg then (if 128 ≤ n then 128 else (256 - n) % 256) else min n 127

/-- The value of an INT8 code. -/
def int8Value (c : Nat) : FV := if 128 ≤ c then .fin true (256 - c) 0 else .fin false c 0

/-! ### Exact arithmetic on values -/

def FV.isNan : FV → Bool
  | .nan _ => true
  | _ => false

def FV.isZero : FV → Bool
  | .fin _ m _ => m == 0
  | _ => false

def FV.isFinite : FV → Bool
  | .fin _ _ _ => true
  | _ => false

def FV.neg : FV → FV
  | .nan _ => .nan false
  | .inf b => .inf (!b)
  | .fin b m e => .fin (!b) m e

def FV.abs : FV → FV
  | .nan _ => .nan false
  | .inf _ => .inf false
  | .fin _ m e => .fin false m e

/-- An integer m · 2^e as a value. -/
def ofInt (i : Int) (e : Int) : FV := .fin (i < 0) i.natAbs e

/-- The exact product (R198, R200). -/
def FV.mul (a b : FV) : FV :=
  match a, b with
  | .nan _, _ => .nan false
  | _, .nan _ => .nan false
  | .inf x, .inf y => .inf (x != y)
  | .inf x, .fin y m _ => if m == 0 then .nan false else .inf (x != y)
  | .fin x m _, .inf y => if m == 0 then .nan false else .inf (x != y)
  | .fin x m e, .fin y n f => .fin (x != y) (m * n) (e + f)

/-- The exact sum (R198, R200). -/
def FV.add (a b : FV) : FV :=
  match a, b with
  | .nan _, _ => .nan false
  | _, .nan _ => .nan false
  | .inf x, .inf y => if x == y then .inf x else .nan false
  | .inf x, .fin _ _ _ => .inf x
  | .fin _ _ _, .inf y => .inf y
  | .fin x m e, .fin y n f =>
    if m == 0 && n == 0 then .fin (x && y) 0 e
    else
      let g := min e f
      let i := (if x then -1 else 1) * ((m * 2 ^ (e - g).toNat : Nat) : Int)
      let j := (if y then -1 else 1) * ((n * 2 ^ (f - g).toNat : Nat) : Int)
      ofInt (i + j) g

/-- The exact sum of a list, in order. -/
def FV.sum : List FV → FV
  | [] => .fin false 0 0
  | a :: l => l.foldl FV.add a

/-- Whether a value is below another; false for a NaN. −0 counts as less than +0 (R340). -/
def FV.lt (a b : FV) : Bool :=
  match a, b with
  | .nan _, _ => false
  | _, .nan _ => false
  | .inf x, .inf y => x && !y
  | .inf x, .fin _ _ _ => x
  | .fin _ _ _, .inf y => !y
  | .fin x m e, .fin y n f =>
    let g := min e f
    let p := m * 2 ^ (e - g).toNat
    let q := n * 2 ^ (f - g).toNat
    match x, y with
    | false, false => p < q
    | true, true => q < p
    | true, false => true
    | false, true => false

/-! ### FP32 (R198 to R201) -/

abbrev F32 := BitVec 32

def f32v (c : F32) : FV := f32.value c.toNat
/-- Rounds a value to FP32, nearest with ties to even. -/
def toF32 (v : FV) : F32 := BitVec.ofNat 32 (f32.code v)

/-- A value widened to FP32, its NaNs with their signs (R203). -/
def widen (v : FV) : FV :=
  match v with
  | .nan neg => .nan neg
  | v => f32v (toF32 v)

def fAdd (a b : F32) : F32 := toF32 ((f32v a).add (f32v b))
def fMul (a b : F32) : F32 := toF32 ((f32v a).mul (f32v b))
def fNeg (a : F32) : F32 := toF32 (f32v a).neg

/-- A quotient of magnitudes with 64 extra bits and a sticky bit, so that one rounding follows. -/
def quotient (neg : Bool) (m n : Nat) (e : Int) : FV :=
  let k := 64 + Nat.log2 n
  let q := m * 2 ^ k / n
  .fin neg (2 * q + (if m * 2 ^ k % n == 0 then 0 else 1)) (e - k - 1)

def fDiv (a b : F32) : F32 :=
  match f32v a, f32v b with
  | .nan _, _ => toF32 (.nan false)
  | _, .nan _ => toF32 (.nan false)
  | .inf _, .inf _ => toF32 (.nan false)
  | .inf x, .fin y _ _ => toF32 (.inf (x != y))
  | .fin x _ _, .inf y => toF32 (.fin (x != y) 0 0)
  | .fin x m e, .fin y n f =>
    if n == 0 then (if m == 0 then toF32 (.nan false) else toF32 (.inf (x != y)))
    else toF32 (quotient (x != y) m n (e - f))

/-- The larger of two FP32 values, a NaN if either is one. -/
def fMax (a b : F32) : F32 :=
  if (f32v a).isNan || (f32v b).isNan then toF32 (.nan false) else if (f32v a).lt (f32v b) then b else a
def fMin (a b : F32) : F32 :=
  if (f32v a).isNan || (f32v b).isNan then toF32 (.nan false) else if (f32v b).lt (f32v a) then b else a

def fZero : F32 := 0
def fOne : F32 := 0x3F800000
def fNegInf : F32 := 0xFF800000

/-- Products accumulated in FP32 in order: each run of up to 64 exact products is summed exactly and rounded once (R198,
R199). -/
def macRuns : Nat → List (FV × FV) → F32 → F32
  | 0, _, acc => acc
  | fuel + 1, l, acc =>
    if l.isEmpty then acc
    else macRuns fuel (l.drop 64) (fAdd acc (toF32 (FV.sum ((l.take 64).map (fun p => p.1.mul p.2)))))

def mac (l : List (FV × FV)) : F32 := macRuns (l.length / 64 + 1) l fZero

/-! ### The exponential and the hyperbolic tangent (R201, R246, log 10) -/

/-- One unit of the fixed-point scale used for e^x. -/
def fix : Nat := 2 ^ 400

/-- Terms of the series of e^(-y) for y in units of 1 ÷ fix, by Horner's rule. -/
def expSeries (y : Nat) : Nat → Nat → Nat
  | 0, acc => acc
  | n + 1, acc => expSeries y n (fix - y * acc / (fix * (n + 1)))

def squares : Nat → Nat → Nat
  | 0, v => v
  | n + 1, v => squares n (v * v / fix)

/-- e^(-x) in units of 1 ÷ fix, for x = m · 2^e below 256. -/
def expFixed (m : Nat) (e : Int) : Nat :=
  let y := if 0 ≤ e + 388 then m * 2 ^ (e + 388).toNat else m / 2 ^ (-(e + 388)).toNat
  squares 12 (expSeries y 60 fix)

/-- A result that lies within 2 ulp of the correctly rounded one. -/
def deviate (code dev : Nat) : Nat := code + dev - 2

/-- e^x for x ≤ 0 (R201). -/
def fExp (x : F32) : F32 :=
  match f32v x with
  | .nan _ => toF32 (.nan false)
  | .inf _ => fZero
  | .fin _ m e =>
    if m == 0 then fOne
    else if (f32v x).lt (.fin true 256 0) then fZero
    else
      let v := expFixed m e
      if v < 2 ^ 251 then fZero
      else BitVec.ofNat 32 (deviate (f32.magOf v (-400)) (Config.expDev x).val)

/-- tanh (R246). -/
def fTanh (x : F32) : F32 :=
  match f32v x with
  | .nan _ => toF32 (.nan false)
  | .inf neg => if neg then fNeg fOne else fOne
  | .fin neg m e =>
    if m == 0 then x
    else
      let t := if !(f32v x).abs.lt (.fin false 128 0) then fix
        else
          let w := expFixed m (e + 1)
          (fix - w) * fix / (fix + w)
      BitVec.ofNat 32 (deviate (f32.magOf t (-400)) (Config.tanhDev x).val + (if neg then 2 ^ 31 else 0))

/-! ### Formats by code (R215) -/

/-- Bits of one element. -/
def fmtBits : Nat → Nat
  | 0x00 => 32
  | 0x01 => 16
  | 0x02 => 16
  | 0x05 => 6
  | 0x06 => 6
  | 0x07 => 4
  | _ => 8

def isMx (f : Nat) : Bool := f == 0x05 || f == 0x06 || f == 0x07

/-- The format of an element. INT8 is not one. -/
def elemFmt : Nat → FFmt
  | 0x00 => f32
  | 0x01 => fBf16
  | 0x02 => fFp16
  | 0x03 => fE4m3
  | 0x04 => fE5m2
  | 0x05 => fE2m3
  | 0x06 => fE3m2
  | _ => fE2m1

/-- The value of an element code, before any scale. -/
def elemValue (f code : Nat) : FV := if f == 0x08 then int8Value code else (elemFmt f).value code

/-- The code of a value in a format that is not MX (R203). -/
def elemCode (f : Nat) (v : FV) : Nat := if f == 0x08 then int8Code v else (elemFmt f).code v

/-- The value of an E8M0 scale (R190). -/
def scaleValue (sc : Nat) : FV := if sc == 255 then .nan false else .fin false 1 ((sc : Int) - 127)

/-- Code number `i` in packed elements of `w` bits (R191). -/
def packedCode (bs : List Byte) (w i : Nat) : Nat := fld bs (i * w / 8) 5 / 2 ^ (i * w % 8) % 2 ^ w

/-- Codes of `w` bits packed from the first (R191). -/
def packCodes (w : Nat) (cs : List Nat) : List Byte :=
  leBytes ((cs.length * w + 7) / 8) (cs.reverse.foldl (fun acc c => acc * 2 ^ w + c) 0)

/-- Bytes of `n` packed elements. -/
def packedBytes (f n : Nat) : Nat := (n * fmtBits f + 7) / 8

/-- emax of an MX element format (R204). -/
def mxEmax (f : Nat) : Int := if f == 0x06 then 4 else 2

/-- The larger of finite magnitudes. -/
def amax (l : List FV) : FV :=
  l.foldl (fun a v => match v with | .fin _ m e => if a.lt (.fin false m e) then .fin false m e else a | _ => a)
    (.fin false 0 0)

/-- An MX block from values: its scale and its element codes (R203, R204). -/
def mxBlock (f : Nat) (l : List FV) : Nat × List Nat :=
  if l.any (fun v => !v.isFinite) then (255, l.map (fun _ => 0))
  else
    match amax l with
    | .fin _ m e =>
      if m == 0 then (0, l.map (fun v => elemCode f v))
      else
        let k := ((Nat.log2 m : Int) + e - mxEmax f + 127)
        let sc := (min (max k 0) 254).toNat
        (sc, l.map (fun v => match v with
          | .fin neg m e => elemCode f (.fin neg m (e - ((sc : Int) - 127)))
          | _ => 0))
    | _ => (0, l.map (fun _ => 0))

/-! ### KV-4o (R193 to R197) -/

/-- Tokens of a KV-4o page (R193). -/
def kvTokens (d : Nat) : Nat := 49152 / d

/-- S(s): 2^((s − 128) ÷ 4) rounded to FP32 (R194), by the FP32 significands of the fourth roots of 2. -/
def kvScale (sc : Nat) : FV :=
  if sc == 0 then .fin false 0 0
  else
    let sig := match sc % 4 with
      | 0 => 8388608
      | 1 => 9975792
      | 2 => 11863283
      | _ => 14107901
    .fin false sig ((sc / 4 : Nat) - 32 - 23)

/-- An outlier entry (R195). -/
structure Outlier where
  value : Nat
  token : Nat
  channel : Nat
  v : Bool
  deriving DecidableEq, Repr

def outlierOf (w : Nat) : Outlier :=
  { value := bits w 31 16, token := bits w 15 12, channel := bits w 11 4, v := bit w 3 }

def Outlier.word (o : Outlier) : Nat := o.value * 65536 + o.token * 4096 + o.channel * 16 + (if o.v then 8 else 0)

/-- Directory byte of a token group. -/
def kvDir (p : List Byte) (g : Nat) : Nat := fld p (0xD800 + g) 1

/-- Entries before a token group in the list. -/
def kvBefore (p : List Byte) (g : Nat) : Nat := ((List.range g).map (kvDir p)).sum

def kvEntryWords (p : List Byte) (g : Nat) : List Nat :=
  (List.range (kvDir p g)).map (fun k => fld p (0xD840 + (kvBefore p g + k) * 4) 4)

/-- The outlier entries of a token group, in list order. -/
def kvEntries (p : List Byte) (g : Nat) : List Outlier := (kvEntryWords p g).map outlierOf

/-- A page is valid (R196). -/
def kvPageOk (p : List Byte) (d : Nat) : Bool :=
  let groups := kvTokens d / 16
  kvBefore p 64 ≤ 2544 && (List.range 64).all (fun g => g < groups || kvDir p g == 0) &&
  (List.range groups).all (fun g => (kvEntryWords p g).all (fun w =>
    bits w 11 4 < d && bits w 2 0 == 0 && bits (bits w 31 16) 14 7 != 255))

/-- The value of an element of a page (R196). `v` selects the side. -/
def kvElem (p : List Byte) (d tok ch : Nat) (v : Bool) : FV :=
  let g := tok / 16
  match ((kvEntries p g).reverse).find? (fun o => o.token == tok % 16 && o.channel == ch && o.v == v) with
  | some o => fBf16.value o.value
  | none =>
    let code := packedCode (p.drop (if v then 0x6000 else 0)) 4 (tok * d + ch)
    let sc := fld p ((if v then 0xCC00 else 0xC000) + g * d + ch) 1
    if code == 8 then .fin false 0 0 else f32v (toF32 ((fE2m1.value code).mul (kvScale sc)))

/-- R197: what an Infinity and a NaN are replaced by before a group is quantised (R203). -/
def kvReplace (v : FV) : FV :=
  match v with
  | .nan _ => .fin false 0 0
  | .inf neg => f32v (toF32 ((FV.fin neg 6 0).mul (kvScale 255)))
  | x => x

/-- The scale code of a group whose largest magnitude left is `a` (R197). -/
def kvScaleFor (a : FV) : Nat :=
  if a.isZero then 0
  else ((List.range 255).map (· + 1)).find? (fun sc => !(((FV.fin false 6 0).mul (kvScale sc)).lt a)) |>.getD 255

/-- Positions that become outliers: by magnitude descending, ties by lower token (R197). -/
def kvPick (x : List FV) (cand : List Nat) : Nat → List Nat
  | 0 => []
  | room + 1 =>
    match cand with
    | [] => []
    | c :: l =>
      let best := l.foldl (fun b t => if ((nth x b (.fin false 0 0)).abs).lt ((nth x t (.fin false 0 0)).abs) then t else b) c
      best :: kvPick x ((c :: l).filter (· != best)) room

/-- A quantised group: its scale code, its 16 codes and its outlier tokens with their BF16 values. -/
structure KvGroup where
  sc : Nat
  codes : List Nat
  outs : List (Nat × Nat)
  deriving DecidableEq, Repr

/-- Quantises one group of 16 values with room for outliers (R197). -/
def kvQuant (vals : List FV) (room : Nat) : KvGroup :=
  let x := vals.map kvReplace
  let total := x.foldl (fun acc v => fAdd acc (toF32 v.abs)) fZero
  let mu := fDiv total (toF32 (.fin false 16 0))
  let mu4 := f32v (fMul mu (toF32 (.fin false 4 0)))
  let at_ (t : Nat) : FV := nth x t (.fin false 0 0)
  let cand := (List.range 16).filter (fun t => mu4.lt (at_ t).abs)
  let out := kvPick x cand room
  let a := amax (((List.range 16).filter (fun t => !out.contains t)).map at_)
  let sc := kvScaleFor a
  { sc := sc
    codes := (List.range 16).map (fun t =>
      if out.contains t then 8
      else if sc == 0 then 0
      else
        let c := fE2m1.code (f32v (fDiv (toF32 (at_ t)) (toF32 (kvScale sc))))
        if c == 8 then 0 else c)
    outs := ((List.range 16).filter (fun t => out.contains t)).map (fun t => (t, fBf16.code (at_ t))) }

/-- Sets one 4-bit code in packed codes. -/
def setNibble (p : List Byte) (off i code : Nat) : List Byte :=
  setNth p (off + i / 2) (fun b =>
    if i % 2 == 0 then BitVec.ofNat 8 (b.toNat / 16 * 16 + code) else BitVec.ofNat 8 (b.toNat % 16 + code * 16))

/-- Replaces bytes of a list. -/
def patch (p : List Byte) (off : Nat) (bs : List Byte) : List Byte := p.take off ++ bs ++ p.drop (off + bs.length)

/-- The page's outlier list from the entries of each token group, with its directory and zeros after the last entry. -/
def kvSetEntries (p : List Byte) (es : List (List Outlier)) : List Byte :=
  patch (patch p 0xD800 (es.map (fun l => BitVec.ofNat 8 l.length))) 0xD840
    (padTo 10176 (es.flatMap (fun l => l.flatMap (fun o => leBytes 4 o.word))))

/-- Re-quantises group (side, channel, g) of a page from its 16 values (R197). -/
def kvRequant (p : List Byte) (d g ch : Nat) (v : Bool) (vals : List FV) : List Byte :=
  let es := (List.range 64).map (kvEntries p)
  let mine := (nth es g []).filter (fun o => !(o.channel == ch && o.v == v))
  let others := ((List.range 64).filter (· != g)).map (fun k => (nth es k []).length) |>.sum
  let q := kvQuant vals (min (255 - mine.length) (2544 - others - mine.length))
  let add := q.outs.map (fun o => { value := o.2, token := o.1, channel := ch, v := v : Outlier })
  let p1 := kvSetEntries p (setNth es g (fun _ => mine ++ add))
  let p2 := patch p1 ((if v then 0xCC00 else 0xC000) + g * d + ch) [BitVec.ofNat 8 q.sc]
  (List.range 16).foldl (fun p t =>
    setNibble p (if v then 0x6000 else 0) ((g * 16 + t) * d + ch) (nth q.codes t 0)) p2

end Sys2Proof.Machine
end

