-- ==== Sys2Proof/Machine/State.lean ====
section
/-! DEFINITION. The state of the block as plain data, the reasons a step stops, and the state after reset. -/

namespace Sys2Proof.Machine

/-- Reasons a step ends in a fault. -/
inductive Fault where
  /-- Raised by a background access (label 0x43) to a block address beyond the populated stacks (R56, R384): the manual says
  no such memory exists. Safe: the model stops where the hardware has nothing to access. -/
  | noSuchMemory (addr : Nat)
  deriving DecidableEq, Repr

/-- Reasons a step is refused. -/
inductive Refusal where
  /-- Raised by exec for a command that has no meaning yet. Safe: nothing is claimed of such a command. -/
  | notModelled (mnemonic : String)
  deriving DecidableEq, Repr

/-- The resource grant (R106). -/
structure Grant where
  tenantLabel : List Byte
  confidential : Bool
  bindPort : Nat
  bindVf : Nat
  domeMask : Nat
  lanterns : List Nat
  drumWays : List Nat
  persistKib : Nat
  memGib : Nat
  qps : Nat
  cmdRings : Nat
  cplRings : Nat
  fences : Nat
  qpCache : Nat
  linkKeys : Nat
  preemptWaitUs : Nat
  powerBudget : Nat
  memEntries : Nat
  hostEntries : List Nat
  netEntries : List Nat
  domeEntries : List Nat
  bytes : List Byte
  deriving DecidableEq, Repr

/-- A partial triple (R206). -/
structure Triple where
  m : BitVec 32
  l : BitVec 32
  empty : Bool
  keys : Nat
  o : List (BitVec 32)
  deriving DecidableEq, Repr

/-- A chain entry (R243), with the format of its page and the tokens of the page that precede its first slot (R302). -/
structure ChainEnt where
  addr : Nat
  qp : Nat
  first : Nat
  count : Nat
  remote : Bool
  fmt : Nat
  skip : Nat
  deriving DecidableEq, Repr

/-- A chain object as read (R275), with its entry list. -/
structure Chain where
  va : Nat
  fmt : Nat
  isShadow : Bool
  dim : Nat
  n : Nat
  tn : Nat
  epoch : Nat
  cap : Nat
  list : Nat
  spare : Nat
  shadow : Nat
  pool : Nat
  ents : List ChainEnt
  deriving DecidableEq, Repr

/-- A CRC context (R352): algorithm, fold setting and remainder. -/
structure CrcCtx where
  alg : Nat
  fold : Bool
  rem : Word
  deriving DecidableEq, Repr

/-- One staged effect of a routine (R231). -/
structure Staged where
  kind : Nat
  addr : Nat
  data : List Byte
  deriving DecidableEq, Repr

/-- A PMP region of a lantern, as user mode sees it (R228, R229): first and last address, read, write and execute. -/
structure Pmp where
  lo : Nat
  hi : Nat
  r : Bool
  w : Bool
  x : Bool
  deriving DecidableEq, Repr

/-- The modes of a lantern's core (R228): tenant routines run in user mode, vendor firmware in machine mode. -/
inductive CoreMode where
  | user | machine
  deriving DecidableEq, Repr

/-- A routine instance on its lantern (R228, R229, R234): its mode, the RV64GC registers `x` and `f`, `pc` and `fcsr`, the
reservation of LR (address and bytes), the 16 PMP regions, and the local memory. -/
structure Lantern where
  mode : CoreMode
  resv : Option (Nat × Nat)
  x : List Word
  f : List Word
  pc : Word
  fcsr : Word
  pmp : List Pmp
  mem : Cells
  staged : List Staged
  stagedBytes : Nat
  clocks : Nat
  crcU : CrcCtx
  rd : Word
  result : Option Word
  deriving DecidableEq, Repr

/-- A tile (R168, R169). `lane` is an engine (0 to 7) or a lantern (8 to 15). `asked` are the chain entries whose fragment
was issued, with what the watch had brought for the tile when it was issued (local entries, or pages), and `replies` counts
the replies accepted (R261). `bad` are those of them whose drum buffer is marked poisoned (R375). -/
structure Tile where
  idx : Nat
  kind : TileKind
  state : TileState
  dome : Nat
  lane : Nat
  drum : Nat
  clocks : Nat
  asked : List Nat
  bad : List Nat
  replies : Nat
  acc : List Triple
  loc : List Triple
  noFold : Bool
  lantern : Option Lantern
  deriving DecidableEq, Repr

/-- Why a command fails (R262). -/
structure Fail where
  status : Nat
  result : Word
  detail : Nat
  deriving DecidableEq, Repr

/-- A BATCH_STEP lane while the step runs (R296, R298). -/
structure Lane where
  chain : Nat
  rowMeta : Nat
  newKv : Nat
  accept : Word
  seq : Nat
  op : Nat
  undo : Nat
  append : Nat
  epoch : Nat
  aflags : Nat
  status : Nat
  reason : Nat
  attends : Bool
  deriving DecidableEq, Repr

/-- A command admitted and not completed (R171). `uses` are the address ranges it refers to (R156); `listed` marks an entry
of a fall-back list (R185). `touched` are writes into the pages it attends since its snapshot, by address and length, and
`kept` the bytes there that an append has replaced (R245), and `early` the replies received before it executes: head, chain
entry, speculation epoch and triples (R253, R254). `armedAt` is when its arrival timer last started (R345). -/
structure Cmd where
  pos : BitVec 32
  entry : List Byte
  desc : List Byte
  chains : List Chain
  shadows : List Chain
  tiles : List Tile
  began : Bool
  failed : Option Fail
  pages : Nat
  frags : Nat
  resends : Nat
  taken : Nat
  folds : Nat
  ready : List Nat
  progress : Nat
  carry : List Nat
  lanes : List Lane
  switched : Bool
  result : Word
  detail : Nat
  lateStatus : Nat
  uses : List (Nat × Nat)
  listed : Bool
  touched : List (Nat × Nat)
  kept : List (Nat × List Byte)
  armedAt : Nat
  early : List (Nat × Nat × Nat × List Triple)
  deriving DecidableEq, Repr

/-- A job's fall-back (R182 to R185). -/
structure Fall where
  list : Nat
  count : Nat
  jobDeadline : Nat
  marginUs : Nat
  switched : Bool
  switchPos : Nat
  next : Nat
  primary : List (BitVec 32 × List Byte)
  endStatus : Nat
  endDetail : Nat
  deriving DecidableEq, Repr

/-- A command ring (R132, R152, R163, R178). `hot` holds whether it was backlogged (R173). The job fields are those of the job
that the head entry belongs to. Where the admitted commands belong to the job before it, `prior` says whether that job has
started and no entry of it has failed (R161, R163). -/
structure CmdRing where
  state : RingState
  group : Nat
  log2 : Nat
  base : Nat
  cpl : Nat
  homeDome : Nat
  weight : Nat
  head : BitVec 32
  tail : BitVec 32
  vt : Word
  hot : Bool
  fragEpoch : BitVec 16
  jobOpen : Bool
  jobStarted : Bool
  jobFault : Bool
  jobHost : Bool
  cancelRest : Bool
  prior : Option Bool
  waitSat : Bool
  cur : Option Cmd
  nxt : Option Cmd
  fall : Option Fall
  deriving DecidableEq, Repr

/-- A save record of a command ring (R176). -/
structure SaveRec where
  ring : Nat
  head : BitVec 32
  done : BitVec 32
  waitField : Nat
  satisfied : Bool
  cursor : Nat
  endedMap : Word
  waitValue : Word
  fragEpoch : BitVec 16
  switchPos : Nat
  jobStarted : Bool
  switched : Bool
  faultSeen : Bool
  vt : Word
  deriving DecidableEq, Repr

/-- A decided completion that waits for a free slot (R147). `entry` is none where the entry is read only at the write. -/
structure Pend where
  source : Nat
  pos : BitVec 32
  status : Nat
  opcode : Nat
  result : Word
  detail : Nat
  bellAt : Word
  entry : Option (List Byte)
  base : Nat
  log2 : Nat
  held : Bool
  deriving DecidableEq, Repr

/-- A completion ring (R132, R147). -/
structure CplRing where
  group : Nat
  log2 : Nat
  base : Nat
  vector : Nat
  head : BitVec 32
  wcount : BitVec 32
  reserved : Nat
  waiting : List Pend
  deriving DecidableEq, Repr

/-- A QP queue (R132). -/
structure Queue where
  state : RingState
  group : Nat
  log2 : Nat
  base : Nat
  cpl : Nat
  head : BitVec 32
  tail : BitVec 32
  deriving DecidableEq, Repr

/-- A message posted on a QP or formed by it (R305, R316). `pos` is none for a message without a queue entry. -/
structure Msg where
  op : Nat
  pos : Option (BitVec 32)
  entry : List Byte
  firstPsn : Nat
  pkts : Nat
  len : Nat
  data : List Byte
  remoteVa : Nat
  reqPsn : Nat
  sendSeq : Nat
  released : Nat
  answered : Bool
  result : Word
  failed : Option Fail
  deriving DecidableEq, Repr

/-- A packet sent and not acknowledged (R325). -/
structure Sent where
  psn : Nat
  path : Nat
  tries : Nat
  at_ : Nat
  bytes : Nat
  idx : Nat
  firstPsn : Nat
  deriving DecidableEq, Repr

/-- Congestion and path state of a QP (R325 to R328). W is in units of 2^-16 byte, alpha of 2^-16, the queueing delays of
2^-16 ns. `base` and `minrtt` hold, for each path, the samples of the last 10 s that may still be the smallest (R327), and
`window` the bytes released with their times (R330). -/
structure Cong where
  w : Nat
  alpha : Nat
  hold : Nat
  qd : List Int
  base : List (List (Nat × Int))
  minrtt : List (List (Nat × Int))
  suspended : List Nat
  lastPath : Nat
  srtt : Option Nat
  rttvar : Nat
  rto : Nat
  timer : Option Nat
  window : List (Nat × Nat)
  deriving DecidableEq, Repr

/-- What the receiver owes its next ACK (R309, R324): `psn`, `echo` and `path` are those of the newest packet accepted. -/
structure AckDue where
  pkts : Nat
  ce : Nat
  psn : Nat
  owd : Option Int
  echo : Word
  path : Nat
  oldest : Option Nat
  lastDup : Option Nat
  deriving DecidableEq, Repr

/-- An inbound request that waits for its turn in PSN order (R318), or an inbound message being placed (R319). -/
structure Inbound where
  op : Nat
  psn : Nat
  pkts : Nat
  len : Nat
  va : Nat
  sendSeq : Nat
  data : List Byte
  got : List Nat
  done : Bool
  deriving DecidableEq, Repr

/-- A receive entry admitted on a QP (R319). `fin` is how it completes, once that is known. -/
structure Recv where
  pos : BitVec 32
  entry : List Byte
  fin : Option Fail
  deriving DecidableEq, Repr

/-- The seven counts of R314. -/
structure QpCounts where
  malformed : Nat
  crcFail : Nat
  authFail : Nat
  mismatch : Nat
  duplicate : Nat
  outOfWindow : Nat
  retransmitted : Nat
  deriving DecidableEq, Repr

/-- A queue pair (R311 to R331). PSNs are the 48-bit extended ones (R322). `rnrs` are the SENDs refused, by
first PSN, each with the time of its first RNR, and `rnrFrom` the PSN from which packets wait to be sent again (R319). -/
structure Qp where
  phys : Nat
  conn : List Byte
  state : QpState
  reason : Nat
  sq : Option Queue
  rq : Option Queue
  sndNxt : Nat
  sndUna : Nat
  rcvNxt : Nat
  got : List Nat
  counts : QpCounts
  ctlSent : Nat
  ctlSeen : Nat
  msgs : List Msg
  sent : List Sent
  cong : Cong
  ack : AckDue
  inbound : List Inbound
  atomics : List (Nat × Word)
  sendSeq : Nat
  recvs : List Recv
  recvNext : Nat
  rnrs : NMap Nat
  rnrFrom : Option Nat
  lastAuth : Option Nat
  deriving DecidableEq, Repr

/-- A fragment of a peer that the partition serves (R258): the request, its chain object and entries, the records computed when
serving began, and its tiles that have not ended, each with its drum and its clocks; `tile` is the one that runs. -/
structure Serving where
  qp : Nat
  firstPsn : Nat
  body : List Byte
  chain : Nat
  ents : List ChainEnt
  recs : List Byte
  parts : List (TileKind × Nat × Nat)
  tile : Option Tile
  deriving DecidableEq, Repr

/-- A memory key (R365): its version (0 for the block key), the XTS data key, the XTS tweak key and the tag key. -/
structure MemKey where
  version : Nat
  k1 : List Byte
  k2 : List Byte
  k3 : List Byte
  deriving DecidableEq, Repr

/-- A rotation of a definition's key (R380 to R383, R396). -/
structure Rotation where
  toVersion : Nat
  walking : Bool
  boundary : Nat
  pages : Nat
  doneInFlight : List Nat
  box : Box
  seq : Nat
  deriving DecidableEq, Repr

/-- A WEIGHTS bind under way (R415). -/
structure Bind where
  pkgVa : Nat
  dstVa : Nat
  payloadLen : Nat
  records : Nat
  linkSlot : Nat
  cek : List Byte
  hash : List Byte
  box : Box
  seq : Nat
  began : Nat
  written : Nat
  deriving DecidableEq, Repr

/-- Dirty-page logging (R129 to R131). -/
structure DirtyLog where
  a : Word
  b : Word
  onB : Bool
  bits : List Nat
  deriving DecidableEq, Repr

/-- A quiesce in progress (R113). `answer` is the request that is answered at its end, and `tails` the tails of the QP
queues when it began, by handle: entries below them were already posted. -/
structure Quiesce where
  flush : Bool
  drainLimit : Nat
  tails : NMap (BitVec 32)
  answer : Option (Box × Req)
  thenReset : Bool
  lapse : Bool
  flr : Bool
  deriving DecidableEq, Repr

/-- A fence (R158). -/
structure Fence where
  value : Word
  abandoned : Bool
  deriving DecidableEq, Repr

/-- A partition definition with everything it owns (R105, R106, R110). `uninit` are its chunks not yet initialised, and `early`
the pages of them that were initialised ahead for a request that waited (R379). `saved` are the command rings with a save
record in the save area (R176). `serving` are the fragments it serves, and `servedVt` the virtual time of the ring that they
make up (R258). -/
structure Def where
  grant : Grant
  state : PState
  slot : Option Nat
  scrubbed : Bool
  scrubFault : Bool
  scrubKey : Nat
  scrubBox : Box
  scrubSeq : Nat
  spent : Bool
  keyVersion : Nat
  destroyed : Nat
  serial : Nat
  tenant : List Byte
  background : Option MemKey
  chunks : List Nat
  uninit : List Nat
  early : List Nat
  jobsStarted : Word
  jobsCompleted : Word
  jobsFaulted : Word
  dirty : Option DirtyLog
  mem : Cells
  poison : List Nat
  persist : Cells
  ptBase : Option Nat
  fences : NMap Fence
  rings : NMap CmdRing
  cpls : NMap CplRing
  qps : NMap Qp
  serving : List Serving
  servedVt : Word
  rotation : Option Rotation
  bind : Option Bind
  quiesce : Option Quiesce
  saved : List Nat
  linkKeys : NMap (Nat × List Byte)
  updateSeq : BitVec 32
  updatedAt : Word
  deriving DecidableEq, Repr

/-- BTR.MISS or its mirror (R104): bit 0 MEM, 1 DOME, 2 and 3 HOST, 4 to 11 NET. -/
structure Miss where
  bits : BitVec 12
  count : Nat
  deriving DecidableEq, Repr

/-- What a slot holds while a definition occupies it, and its generation (R25). `served` counts what the buttress served
in this window by resource: 0 memory, 1 and 2 the reads of the host ports, 3 to 10 network ports, 11 to 26 domes (domes in
ns), 27 and 28 the writes of the host ports (R98); `prevMem` is the memory served in the window before (R184). `slack` lists
the resources that had nothing waiting at the start of some entry of this window that the slot owns (R102). `windows` are
the shared windows of the block reserve that the keep has authorised: the physical QP numbers of the contexts (R109, R391).
`lanes` are the lanterns assigned to the slot, each as 8 × dome + its number on the dome (R228). -/
structure Slot where
  loadGen : BitVec 32
  genAt : Nat
  squash : Word
  miss : Miss
  rtt : Nat
  powerNow : Nat
  served : NMap Nat
  prevMem : Nat
  frameAt : List Nat
  energy : Nat
  energy100 : Nat
  held : Bool
  keyCurrent : Option MemKey
  keyNext : Option MemKey
  qpCached : List Nat
  slack : List Nat
  windows : List Nat
  lanes : List Nat
  deriving DecidableEq, Repr

/-- One history entry of a fault block (R466). -/
structure FEntry where
  bellAt : Word
  code : Nat
  cls : FClass
  injected : Bool
  stale : Bool
  redacted : Bool
  slot : Option Nat
  defId : Option Nat
  loadGen : Nat
  seq : BitVec 16
  detail : Word
  deriving DecidableEq, Repr

/-- A fault block or fault view (R465, R527). `recAt` is the fabric clock in which the unit last recorded an event (R467). -/
structure FaultBlock where
  src : BitVec 16
  irqEn : BitVec 16
  vecEn : Bool
  vec : BitVec 11
  head : BitVec 32
  ack : BitVec 32
  ovf : BitVec 16
  hist : NMap FEntry
  staging : List FEntry
  recAt : Option Nat
  deriving DecidableEq, Repr

/-- A mailbox session (R431 to R433). -/
structure Session where
  driverId : Nat
  lapseQuiesce : Bool
  beatAt : Nat
  deriving DecidableEq, Repr

/-- A mailbox (R417 to R437). -/
structure Mbox where
  reqBuf : Cells
  ansBuf : List Byte
  reqPending : Bool
  answerValid : Bool
  vecEn : Bool
  vec : BitVec 11
  noticeHead : BitVec 32
  noticeTail : BitVec 32
  ring : NMap (List Byte)
  heldNotices : List (List Byte)
  noticeLost : BitVec 16
  noticeCount : BitVec 32
  discards : BitVec 32
  minor : Nat
  session : Option Session
  hellos : BitVec 32
  prevDriver : Nat
  stored : Option (Nat × List Byte)
  deriving DecidableEq, Repr

/-- A RING_ABORT that waits for its drain (R152). -/
structure AbortOp where
  handles : List Nat
  count : Nat
  reset : Bool
  deriving DecidableEq, Repr

/-- A host function's registers: control page, mailbox, fault view and TDI (R135, R149, R416, R527, R406). -/
structure Fn where
  arg0 : Word
  arg1 : Word
  arg2 : Word
  arg3 : Word
  ctlStatus : Nat
  drained : Bool
  busy : Bool
  ctlResult : Word
  ctlVecEn : Bool
  ctlVec : BitVec 11
  regress : BitVec 32
  discards : NMap (BitVec 32)
  abort : Option AbortOp
  waitOp : Option (Nat × Ctl)
  unload : Option (Box × Req)
  mbox : Mbox
  fv : FaultBlock
  miss : Miss
  tdi : Tdi
  tdiSession : Option (Nat × Nat)
  tdiNonce : BitVec 256
  tdiStream : Nat
  deriving DecidableEq, Repr

/-- Filtered inputs, straps as sampled and the FAULT_N output (R30, R32, R33, R41, R483). The levels of ERR_IN_N, PMB_ALERT_N and
PTP_PPS are those of their last edge, or as the deassertion of RESET_N found them (log 80). -/
structure Pins where
  powered : Bool
  resetN : Bool
  tamperN : Bool
  throttleN : Bool
  errInN : Bool
  pmbAlertN : Bool
  ptpLocked : Bool
  ptpTai : Bool
  ptpPps : Bool
  testMode : Bool
  instanceId : BitVec 4
  hbmPop : BitVec 2
  lsoEn : BitVec 8
  host1En : Bool
  chatterThrottle : Bool
  faultNLow : Bool
  faultPulse : Bool
  containedHold : Bool
  link0Up : Bool
  link1Up : Bool
  deriving DecidableEq, Repr

/-- The bell (R72, R74, R78 to R80). `fine` is the fraction in units of 2^-40 ns and `rate` the increment per clock. -/
structure Bell where
  ns : Word
  fine : BitVec 40
  rate : Nat
  state : BellState
  everLocked : Bool
  alignLost : Bool
  lockCount : BitVec 16
  phaseErr : Int
  good : Nat
  bad : Nat
  ppsSeen : Bool
  todOk : Bool
  latchHi : BitVec 32
  latchFrac : BitVec 16
  deriving DecidableEq, Repr

/-- One carillon entry (R86). -/
structure CarEntry where
  mem : Nat
  noLendMem : Bool
  noLendHost : Bool
  host : List Nat
  net : List Nat
  dome : List Nat
  reservedSet : Bool
  deriving DecidableEq, Repr

/-- A carillon table: its generation and the chunks of 64 entries received; an entry of no chunk is the default's (R88). -/
structure Table where
  gen : Nat
  chunks : NMap (List CarEntry)
  empties : List Nat
  deriving DecidableEq, Repr

/-- The sideband of a large send (R43, R47): the header to replicate, the bytes per segment, and where the segment ordinal
stands. -/
structure Lso where
  hdrLen : Nat
  segLen : Nat
  ordOffset : Nat
  deriving DecidableEq, Repr

/-- A frame that waits for the end of an egress hold-back or for its READY (R51, R94). -/
structure HeldFrame where
  port : Nat
  slot : Nat
  cls : Nat
  lso : Option Lso
  lower : List Byte
  hdr : List Byte
  body : List Byte
  deriving DecidableEq, Repr

/-- The carillon (R88 to R97, R476) and what was last written to the egress schedulers (R52, R53). `holdUntil` is the end of
the egress hold-back, `window` the number of the window of R102 in progress, and `switchedIn` the number of the window in which
the last switchover's time lay. -/
structure Carillon where
  live : Table
  staged : Option Table
  complete : Bool
  armed : Bool
  armTime : Word
  refused : Bool
  schedGen : Option Nat
  schedTime : Option Word
  overhead : Option Nat
  holdUntil : Nat
  window : Nat
  hold : List (Nat × Nat)
  heldFrames : List HeldFrame
  tableEcc : Nat
  sevLock : Bool
  switchedIn : Option Nat
  deriving DecidableEq, Repr

/-- The FLT unit's own registers (R482). -/
structure Flt where
  safe : Bool
  tampered : Bool
  injected : Bool
  firstCode : Nat
  later : BitVec 16
  safeAt : Word
  chatter : BitVec 13
  containedMode : BitVec 2
  safeMode : BitVec 2
  deriving DecidableEq, Repr

/-- An IDE stream (R405): the key sets programmed, the one in GO, and the requester IDs it covers. -/
structure IdeStream where
  keys : List (Nat × Nat × Bool)
  go : Option Nat
  covers : List Nat
  deriving DecidableEq, Repr

/-- SPDM state of a PF (R403): version and algorithm negotiation, and its sessions, with those not yet
finished. `updates` counts the KEY_UPDATEs of a session, whose keys are those of that count. -/
structure Spdm where
  stage : Nat
  sessions : List Nat
  opening : List Nat
  nextId : Nat
  updates : NMap Nat
  deriving DecidableEq, Repr

/-- The keep (R390 to R415, R489). `root`, the private keys and the two certificates are what its SRAM holds of the derivation
tree and of the chain, with each definition's TENANT node, `Def.tenant` (R390, R393, R400). -/
structure Keep where
  root : Option (List Byte)
  bindKey : Option (List Byte)
  deviceKey : Option (List Byte)
  aliasKey : Option (List Byte)
  bindCert : List Byte
  aliasCert : List Byte
  bootNonce : BitVec 256
  draws : Nat
  defSerial : Nat
  fuseLatch : Bool
  tamperOwed : Bool
  fuseCount : Nat
  entropyOk : Bool
  confLock : Bool
  loadSeen : Bool
  unlocked : Bool
  unlockNonce : Option (BitVec 256)
  chainOk : Bool
  severity : BitVec 8
  imageDigest : List Byte
  imageSvn : Nat
  streams : NMap IdeStream
  spdm : NMap Spdm
  waits : List (Nat × Box × Req × Bool)
  deriving DecidableEq, Repr

/-- A FW_RECOVER transfer (R430). -/
structure Xfer where
  len : Nat
  data : List Byte
  phase : Nat
  box : Box
  deriving DecidableEq, Repr

/-- A pending fault injection (R490). -/
structure Inject where
  code : Nat
  slot : Option Nat
  count : Nat
  delayUs : Nat
  detail : Word
  deriving DecidableEq, Repr

/-- A request taken and not answered yet (R426, R439). -/
structure Waiting where
  box : Box
  opcode : Nat
  seq : Nat
  defId : Nat
  since : Nat
  ended : Option Nat
  deriving DecidableEq, Repr

/-- The belfry (R417, R426, R434, R442). -/
structure Belfry where
  state : BelfryState
  before : BelfryState
  orphans : BitVec 32
  restarts : BitVec 32
  restartAt : List Nat
  meanNs : Nat
  backlog : List Waiting
  pfExpired : Bool
  lapsed : List Nat
  xfer : Option Xfer
  inject : Option Inject
  i3c : Mbox
  i3cAddr : Option (BitVec 7)
  ibiEn : Bool
  deriving DecidableEq, Repr

/-- Power and thermal state (R445 to R462). Credit in units of 0.1 ns, power in mW, clock in MHz. `throttle` says that
THROTTLE_N is treated as asserted: its level stands in the pins, and the safe state leaves this as it was (R35, R36, R39). -/
structure Power where
  envelope : Bool
  credit : Nat
  ftarget : Nat
  thermal : Nat
  thermalHot : Bool
  hotReadings : Nat
  clock : Nat
  throttle : Bool
  freqCap : Nat
  peakDisable : Bool
  wearExceeded : Bool
  lastRaise : Nat
  roomSince : Option Nat
  samples : List (Nat × Nat)
  winSum : Nat
  winN : Nat
  winW : Nat
  inputs : List (Nat × Nat)
  inputW : Nat
  budgetHit : Word
  temps : List Nat
  hbmTemps : List Nat
  hbmHot : List Nat
  vin : List (BitVec 16)
  iin : List (BitVec 16)
  statusWord : List (BitVec 16)
  stale : Bool
  rangeOut : List Nat
  refreshing : List Nat
  refresh : List Nat
  deriving DecidableEq, Repr

/-- IDENT registers and start-up (R491, R492). -/
structure Boot where
  stage : Stage
  reason : Nat
  pinRate : Nat
  stackGib : Nat
  fuseShown : Nat
  imageSvn : Nat
  selfTest : BitVec 16
  bcbDefaulted : Bool
  fwVersion : BitVec 32
  convs : Nat
  octal : Bool
  sfdpOk : Bool
  held : Bool
  onDieEcc : List Nat
  deriving DecidableEq, Repr

/-- Lifetime accounts (R514). -/
structure Account where
  peakNs : Nat
  hotNs : Nat
  powerOnS : Nat
  boots : Nat
  safeCount : Nat
  tamperCount : Nat
  fenceCount : Nat
  deriving DecidableEq, Repr

/-- A lifetime-log record (R497): its flash byte address, and its CRC-64 check value, whose seed is that address (R358). -/
structure LogRec where
  addr : Nat
  check : Word
  seq : Nat
  bell : Word
  kind : Nat
  locked : Bool
  payload : List Byte
  deriving DecidableEq, Repr

/-- The flash (R496) and the lifetime log in it (R511). It keeps its contents when power is removed. -/
structure Flash where
  bcb : List Byte
  image : List Byte
  deviceCert : List Byte
  log : List LogRec
  sector : Nat
  inSector : Nat
  erases : NMap Nat
  nextErased : Bool
  worn : Bool
  deriving DecidableEq, Repr

/-- The keep's lifetime accounts in SRAM (R513) and the newest CHECKPOINT (R515). -/
structure Life where
  acc : Account
  cpAt : Word
  cpClk : Nat
  cpSeq : Nat
  seq : Nat
  powerClk : Nat
  writing : Bool
  due : Bool
  deriving DecidableEq, Repr

/-- Belfry CRC lane 1 (R361). `bad` says that the computation in progress met a parity error (R363). Before the first START its
RESULT is 0. -/
structure CrcLane where
  alg : BitVec 2
  fold : Bool
  seed : Word
  ctx : CrcCtx
  count : Nat
  err : Bool
  bad : Bool
  deriving DecidableEq, Repr

/-- The XPT: its counters per network port (R333, R50), the READY levels of each port's 64 subscribers × 4 classes (R43,
R51; log 62), the frames that wait for a QP context, with their arrival stamps (R45), and the check-value contexts of its 16
lanes: port n transmits on lane 2n and receives on lane 2n + 1 (R352). -/
structure Xpt where
  noQp : List (BitVec 16)
  rxErr : List (BitVec 16)
  nonMaelic : List (BitVec 16)
  mac : List (List Word)
  ready : List (BitVec 256)
  waitingFrames : List (Frame × Word)
  crc : List CrcCtx
  deriving DecidableEq, Repr

/-- Counters of one memory port (R388). -/
structure VltPort where
  eccCorrected : BitVec 32
  poisonNew : BitVec 16
  tagFail : BitVec 8
  patrol : Bool
  deriving DecidableEq, Repr

/-- Vault registers (R387, R388), the block key's entry (R366), and the bytes of the block
reserve that label 0x40 has written (R14, R384). -/
structure Vault where
  ports : List VltPort
  lock : Bool
  keyCheck : BitVec 2
  tagFail : BitVec 2
  eccUnc : BitVec 2
  blockKey : Option MemKey
  reserve : Cells
  scrubChunks : List Nat
  deriving DecidableEq, Repr

/-- Dome state (R485, R486), and the check-value context M of each of the 128 lanterns (R352, R359). -/
structure Domes where
  fenced : BitVec 16
  faults : List (Nat × Nat × Word)
  crcM : List CrcCtx
  deriving DecidableEq, Repr

/-- A watch fetch, in flight or in its drum buffer (R25, R253): of a chain entry, or of a page that a tile of a command
without chains reads, where `head` is the tile and `entry` the number of the page (R9; log 73). `len` are the bytes of the
page that it reads. -/
structure Fetch where
  slot : Nat
  ring : Nat
  pos : BitVec 32
  head : Nat
  entry : Nat
  chainVa : Option Nat
  page : Nat
  len : Nat
  dome : Nat
  cls : Nat
  epoch : Nat
  fragEpoch : BitVec 16
  loadGen : BitVec 32
  issuedAt : Nat
  arrived : Bool
  poisoned : Bool
  deriving DecidableEq, Repr

/-- An outstanding attention fragment (R178, R256). -/
structure Frag where
  slot : Nat
  ring : Nat
  pos : BitVec 32
  head : Nat
  entry : Nat
  qp : Nat
  cls : Nat
  epoch : Nat
  fragEpoch : BitVec 16
  loadGen : BitVec 32
  issuedAt : Nat
  sentAt : Nat
  retryAt : Option Nat
  body : List Byte
  deriving DecidableEq, Repr

/-- What a fabric request to memory asks for. -/
inductive MemOp where
  | read
  | write (data : List Byte)
  | debugRead
  | debugWrite (data : List Byte)
  deriving DecidableEq, Repr

/-- A fabric request that has passed its parapet and waits for the buttress (R13, R84), with the generation of its slot. -/
structure MemWait where
  op : MemOp
  req : MemReq
  gen : BitVec 32
  deriving DecidableEq, Repr

/-- The memory requests that wait, oldest first, and what the present carillon slot has carried (R84, R85): its number, the
bytes in it, the bytes of the owner's CONTROL class, the labels that have had their turn and the last of them, and the bytes
of each network port. -/
structure Fabric where
  waiting : List MemWait
  slotNo : Nat
  used : Nat
  ctlUsed : Nat
  turns : List Nat
  lastLabel : Nat
  netUsed : NMap Nat
  netCtl : NMap Nat
  hostCtl : NMap Nat
  hostTurns : List Nat
  deriving DecidableEq, Repr

/-- What the block offers on its ports, the model's record of its outputs. -/
inductive Out where
  | readData (fn : Nat) (data : List Byte)
  | msix (fn vector : Nat)
  | ibi (mandatory : Nat)
  | gateList (port gen : Nat) (masks : List Word)
  | overhead (port bytes : Nat)
  | switchTime (port : Nat) (t : Word)
  | withdraw (port : Nat)
  | frame (port slot cls : Nat) (lso : Option Lso) (lower hdr body : List Byte)
  | doe (fn : Nat) (name : String) (body : List Byte)
  | ideKey (port stream keySet sub : Nat) (tx : Bool) (key : BitVec 256) (iv : BitVec 96)
  | refresh (port rate : Nat)
  | i3c (data : List Byte)
  | tap (data : List Byte)
  | debug (status : Nat) (data : List Byte)
  | memory (label status : Nat) (data : List Byte)
  | statusRead (unit : Nat)
  deriving DecidableEq, Repr

/-- The whole block. `crcBad` lists the check-value contexts with a parity error that their next computation meets (R363; log
49). -/
structure State where
  pins : Pins
  bell : Bell
  car : Carillon
  flt : Flt
  keep : Keep
  belfry : Belfry
  power : Power
  boot : Boot
  flash : Flash
  life : Life
  crc : CrcLane
  crc0 : CrcCtx
  crcBad : List Nat
  xpt : Xpt
  vault : Vault
  domes : Domes
  faults : NMap FaultBlock
  slots : NMap Slot
  defs : NMap Def
  fns : NMap Fn
  host : NMap Cells
  fetches : NMap Fetch
  frags : NMap Frag
  epochAt : NMap Nat
  fabric : Fabric
  clk : Nat
  freeCtr : Nat
  outs : List Out
  pending : List Instr
  deriving DecidableEq, Repr

def Miss.reset : Miss := { bits := 0, count := 0 }
def CrcCtx.reset : CrcCtx := { alg := 0, fold := false, rem := 0 }
def FaultBlock.reset : FaultBlock :=
  { src := 0, irqEn := 0, vecEn := false, vec := 0, head := 0, ack := 0, ovf := 0, hist := [], staging := []
    recAt := none }
def Mbox.reset : Mbox :=
  { reqBuf := [], ansBuf := [], reqPending := false, answerValid := false, vecEn := false, vec := 0, noticeHead := 0
    noticeTail := 0, ring := [], heldNotices := [], noticeLost := 0, noticeCount := 0, discards := 0, minor := 1
    session := none, hellos := 0, prevDriver := 0, stored := none }
def Fn.reset : Fn :=
  { arg0 := 0, arg1 := 0, arg2 := 0, arg3 := 0, ctlStatus := 0, drained := false, busy := false, ctlResult := 0
    ctlVecEn := false, ctlVec := 0, regress := 0, discards := [], abort := none, waitOp := none, unload := none, mbox := Mbox.reset
    fv := FaultBlock.reset, miss := Miss.reset, tdi := .unlocked, tdiSession := none, tdiNonce := 0, tdiStream := 0 }
def Slot.reset : Slot :=
  { loadGen := 0, genAt := 0, squash := 0, miss := Miss.reset, rtt := 20000
    powerNow := 0, served := [], prevMem := 0, frameAt := [], energy := 0, energy100 := 0, held := false
    keyCurrent := none, keyNext := none, qpCached := [], slack := [], windows := [], lanes := [] }
/-- Filtered levels at power-up (R33); straps and links before they are sampled or trained (log 3). -/
def Pins.reset : Pins :=
  { powered := true, resetN := false, tamperN := true, throttleN := true, errInN := true, pmbAlertN := true
    ptpLocked := false, ptpTai := false, ptpPps := false, testMode := false, instanceId := 0, hbmPop := 0, lsoEn := 0, host1En := false
    chatterThrottle := false, faultNLow := false, faultPulse := false, containedHold := false, link0Up := false
    link1Up := false }
/-- The bell after block reset (R74): 0, `FREERUN`, the nominal rate of 0.5 ns a fabric clock. -/
def Bell.reset : Bell :=
  { ns := 0, fine := 0, rate := 2 ^ 39, state := .freerun, everLocked := false, alignLost := false, lockCount := 0
    phaseErr := 0, good := 0, bad := 0, ppsSeen := false, todOk := true, latchHi := 0, latchFrac := 0 }
/-- The default table (R88). -/
def Table.dflt : Table := { gen := 0, chunks := [], empties := [] }
def Carillon.reset : Carillon :=
  { live := Table.dflt, staged := none, complete := false, armed := false, armTime := 0, refused := false
    schedGen := none, schedTime := none, overhead := none, holdUntil := 0, window := 0, hold := [], heldFrames := []
    tableEcc := 0, sevLock := false, switchedIn := none }
def Flt.reset : Flt :=
  { safe := false, tampered := false, injected := false, firstCode := 0, later := 0, safeAt := 0, chatter := 0
    containedMode := 0, safeMode := 1 }
def Keep.reset : Keep :=
  { root := none, bindKey := none, deviceKey := none, aliasKey := none, bindCert := [], aliasCert := [], bootNonce := 0
    draws := 0, defSerial := 0, fuseLatch := false, tamperOwed := false, fuseCount := 0
    entropyOk := true, confLock := false, loadSeen := false, unlocked := false, unlockNonce := none, chainOk := false
    severity := 0, imageDigest := [], imageSvn := 0, streams := [], spdm := [], waits := [] }
/-- The keep's SRAM holds ROOT. -/
def Keep.keys (k : Keep) : Bool := k.root.isSome
/-- The keep's SRAM holds the alias private key. -/
def Keep.alias_ (k : Keep) : Bool := k.aliasKey.isSome
def Belfry.reset : Belfry :=
  { state := .orphaned, before := .orphaned, orphans := 0, restarts := 0, restartAt := [], meanNs := 100000, backlog := []
    pfExpired := false, lapsed := [], xfer := none, inject := none, i3c := Mbox.reset, i3cAddr := none, ibiEn := false }
/-- Power control after reset (R447, R459, R460): full credit, `NORMAL`, the minimum clock. -/
def Power.reset : Power :=
  { envelope := false, credit := 400000000, ftarget := Config.binTop, thermal := Config.binTop, thermalHot := false
    hotReadings := 0, clock := 400, throttle := false, freqCap := Config.binTop, peakDisable := false, wearExceeded := false, lastRaise := 0
    roomSince := none, samples := [], winSum := 0, winN := 0, winW := 0, inputs := [], inputW := 0, budgetHit := 0
    temps := [], hbmTemps := [], hbmHot := [], vin := [], iin := [], statusWord := [], stale := false, rangeOut := []
    refreshing := [], refresh := [] }
def Boot.reset : Boot :=
  { stage := .keepRom, reason := 0, pinRate := 0, stackGib := 0, fuseShown := 0, imageSvn := 0, selfTest := 0
    bcbDefaulted := false, fwVersion := 0, convs := 0, octal := false, sfdpOk := false, held := false, onDieEcc := [] }
def Account.zero : Account :=
  { peakNs := 0, hotNs := 0, powerOnS := 0, boots := 0, safeCount := 0, tamperCount := 0, fenceCount := 0 }
/-- An erased flash (log 3). -/
def Flash.erased : Flash :=
  { bcb := [], image := [], deviceCert := [], log := [], sector := 0, inSector := 0, erases := [], nextErased := true
    worn := false }
def Life.reset : Life :=
  { acc := Account.zero, cpAt := 0, cpClk := 0, cpSeq := 0, seq := 0, powerClk := 0, writing := false, due := false }
def CrcLane.reset : CrcLane :=
  { alg := 0, fold := false, seed := 0, ctx := { CrcCtx.reset with rem := 0xFFFFFFFF }, count := 0, err := false, bad := false }
def Xpt.reset : Xpt :=
  { noQp := List.replicate 8 0, rxErr := List.replicate 8 0, nonMaelic := List.replicate 8 0
    mac := List.replicate 8 (List.replicate 64 0), ready := List.replicate 8 (BitVec.allOnes 256), waitingFrames := []
    crc := List.replicate 16 CrcCtx.reset }
def VltPort.reset : VltPort := { eccCorrected := 0, poisonNew := 0, tagFail := 0, patrol := false }
def Vault.reset : Vault :=
  { ports := List.replicate 8 VltPort.reset, lock := false, keyCheck := 0, tagFail := 1, eccUnc := 1, blockKey := none
    reserve := []
    scrubChunks := [] }
def Domes.reset : Domes := { fenced := 0, faults := [], crcM := List.replicate 128 CrcCtx.reset }
def Fabric.reset : Fabric :=
  { waiting := [], slotNo := 0, used := 0, ctlUsed := 0, turns := [], lastLabel := 0, netUsed := [], netCtl := [], hostCtl := []
    hostTurns := [] }

/-- The block with power applied and RESET_N low: every register at its reset value (R20, R523). -/
def State.reset : State :=
  { pins := Pins.reset, bell := Bell.reset, car := Carillon.reset, flt := Flt.reset, keep := Keep.reset
    belfry := Belfry.reset, power := Power.reset, boot := Boot.reset, flash := Flash.erased, life := Life.reset
    crc := CrcLane.reset, crc0 := CrcCtx.reset, crcBad := [], xpt := Xpt.reset, vault := Vault.reset, domes := Domes.reset
    faults := [], slots := []
    defs := [], fns := [], host := [], fetches := [], frags := [], epochAt := []
    fabric := Fabric.reset, clk := 0, freeCtr := 0, outs := []
    pending := [] }

end Sys2Proof.Machine
end

