-- ==== Sys2Proof/Machine/Crc.lean ====
section
/-! DEFINITION. The check-value unit's algorithms, folded seed, feeds and result (R353 to R356), and CRC-32C over
messages. -/

namespace Sys2Proof.Machine

/-- Width of an algorithm's remainder (R353). -/
def crcWidth : Nat → Nat
  | 0 => 32
  | 1 => 32
  | 2 => 16
  | _ => 64

/-- Polynomial (R353). -/
def crcPoly : Nat → Nat
  | 0 => 0x1EDC6F41
  | 1 => 0x04C11DB7
  | 2 => 0x1021
  | _ => 0x42F0E1EBA9EA3693

/-- Initial value (R353). -/
def crcInit : Nat → Nat
  | 0 => 0xFFFFFFFF
  | 1 => 0xFFFFFFFF
  | 2 => 0xFFFF
  | _ => 0

/-- Whether input bytes and output are reflected (R353). -/
def crcReflect : Nat → Bool
  | 0 => true
  | 1 => true
  | _ => false

/-- Output XOR (R353). -/
def crcXor : Nat → Nat
  | 0 => 0xFFFFFFFF
  | 1 => 0xFFFFFFFF
  | _ => 0

/-- One message bit enters the remainder. -/
def crcBit (w poly r : Nat) (b : Bool) : Nat :=
  let sh := (2 * r) % 2 ^ w
  if r.testBit (w - 1) != b then sh ^^^ poly else sh

/-- One byte, least significant bit first where the algorithm reflects its input. -/
def crcByte (alg r : Nat) (b : Byte) : Nat :=
  let order := if crcReflect alg then [0, 1, 2, 3, 4, 5, 6, 7] else [7, 6, 5, 4, 3, 2, 1, 0]
  order.foldl (fun r i => crcBit (crcWidth alg) (crcPoly alg) r (b.toNat.testBit i)) r

/-- A number with its low `n` bits in reverse order. -/
def bitRev : Nat → Nat → Nat
  | 0, _ => 0
  | n + 1, v => (v % 2) * 2 ^ n + bitRev n (v / 2)

/-- Feeds bytes to a context (R354). -/
def CrcCtx.feed (c : CrcCtx) (l : List Byte) : CrcCtx :=
  { c with rem := BitVec.ofNat 64 (l.foldl (crcByte c.alg) c.rem.toNat) }

/-- Init: the initial value, then the fold of the seed (R354, R355). -/
def CrcCtx.init (alg : Nat) (fold : Bool) (seed : Word) : CrcCtx :=
  let c : CrcCtx := { alg := alg, fold := fold, rem := BitVec.ofNat 64 (crcInit alg) }
  if fold then c.feed (leBytes 8 seed.toNat) else c

/-- The result of R356. -/
def CrcCtx.value (c : CrcCtx) : Word :=
  let r := if crcReflect c.alg then bitRev (crcWidth c.alg) c.rem.toNat else c.rem.toNat
  BitVec.ofNat 64 (r ^^^ crcXor c.alg)

/-- CRC-32C with a folded seed over bytes (R308, R358). -/
def crc32c (seed : Nat) (l : List Byte) : BitVec 32 :=
  (((CrcCtx.init 0 true (BitVec.ofNat 64 seed)).feed l).value).truncate 32

/-- CRC-64 with a folded seed over bytes (R358). -/
def crc64 (seed : Nat) (l : List Byte) : Word := ((CrcCtx.init 3 true (BitVec.ofNat 64 seed)).feed l).value

end Sys2Proof.Machine
end

