-- ==== Sys2Proof/Machine/Cipher.lean ====
section
/-! DEFINITION. The algorithms that the manual takes from their standards: AES-256 (FIPS 197), AES-256-GCM (SP 800-38D), AES
key wrap (RFC 3394), SHA-384 (FIPS 180-4), HMAC (FIPS 198-1) and P-384 (FIPS 186-5) (R367, R370, R390 to R393, R412; log 14).
-/

namespace Sys2Proof.Machine

def xorBytes (a b : List Byte) : List Byte := (a.zip b).map (fun p => p.1 ^^^ p.2)

/-! ### AES-256 -/

/-- Multiplication by x in AES's field. -/
def xtime (b : Byte) : Byte := (b <<< 1) ^^^ (if b.msb then 0x1b else 0)

/-- The product of two bytes in AES's field, over the bits of the second. -/
def gfMul (a b : Byte) : Nat → Byte
  | 0 => 0
  | n + 1 => (if b.getLsbD 0 then a else 0) ^^^ gfMul (xtime a) (b >>> 1) n

/-- Squared `n` times, with every intermediate result multiplied in: from the square of a byte, its inverse after seven. -/
def gfInvStep (sq : Byte) : Nat → Byte
  | 0 => 1
  | n + 1 => gfMul sq (gfInvStep (gfMul sq sq 8) n) 8

/-- The inverse in AES's field; zero's is zero. -/
def gfInv (a : Byte) : Byte := gfInvStep (gfMul a a 8) 7

def sbox (a : Byte) : Byte :=
  let b := gfInv a
  b ^^^ b.rotateLeft 1 ^^^ b.rotateLeft 2 ^^^ b.rotateLeft 3 ^^^ b.rotateLeft 4 ^^^ 0x63

def invSbox (a : Byte) : Byte := gfInv (a.rotateLeft 1 ^^^ a.rotateLeft 3 ^^^ a.rotateLeft 6 ^^^ 0x05)

/-- Rcon: x to the power `n`. -/
def rcon : Nat → Byte
  | 0 => 1
  | n + 1 => xtime (rcon n)

/-- Word `i` of the key schedule, from those before it. -/
def keyWord (w : List (List Byte)) (i : Nat) : List Byte :=
  let t := nth w (i - 1) []
  let u := if i % 8 = 0 then xorBytes ((t.drop 1 ++ t.take 1).map sbox) [rcon (i / 8 - 1), 0, 0, 0]
    else if i % 8 = 4 then t.map sbox else t
  xorBytes (nth w (i - 8) []) u

/-- The fifteen round keys of a 32-byte key. -/
def roundKeys (k : List Byte) : List (List Byte) :=
  pieces 16 15 (((List.range 52).foldl (fun w i => w ++ [keyWord w (i + 8)]) (pieces 4 8 (padTo 32 k))).flatten)

/-- Row r of the state moves r columns, `step` columns to the left in all of four. -/
def moveRows (step : Nat) (b : List Byte) : List Byte :=
  (List.range 16).map (fun i => nth b (i % 4 + 4 * ((i / 4 + step * (i % 4)) % 4)) 0)

/-- Each column times the circulant matrix of a first row. -/
def mixColumns (m : List Byte) (b : List Byte) : List Byte :=
  (List.range 16).map (fun i => (List.range 4).foldl (fun acc j =>
    acc ^^^ gfMul (nth b (i / 4 * 4 + j) 0) (nth m ((j + 4 - i % 4) % 4) 0) 8) 0)

/-- The encryption of a 16-byte block. -/
def aesEnc (k b : List Byte) : List Byte :=
  match roundKeys k with
  | [] => []
  | r0 :: l =>
    let x := l.dropLast.foldl (fun x r => xorBytes (mixColumns [2, 3, 1, 1] (moveRows 1 (x.map sbox))) r) (xorBytes (padTo 16 b) r0)
    xorBytes (moveRows 1 (x.map sbox)) (l.getLastD [])

/-- The decryption of a 16-byte block. -/
def aesDec (k b : List Byte) : List Byte :=
  match (roundKeys k).reverse with
  | [] => []
  | r0 :: l =>
    let x := l.dropLast.foldl (fun x r => mixColumns [14, 11, 13, 9] (xorBytes ((moveRows 3 x).map invSbox) r))
      (xorBytes (padTo 16 b) r0)
    xorBytes ((moveRows 3 x).map invSbox) (l.getLastD [])

/-! ### AES-256-GCM -/

/-- Byte `i` of the keystream of a key and a 12-byte nonce. -/
def gcmStream (k n : List Byte) (i : Nat) : Byte := nth (aesEnc k (padTo 12 n ++ beBytes 4 (i / 16 + 2))) (i % 16) 0

/-- The product of GHASH's field, over the bits of the first factor from its highest. -/
def ghashMul (x : Nat) : Nat → Nat → Nat
  | _, 0 => 0
  | v, n + 1 => (if x.testBit n then v else 0) ^^^ ghashMul x (v / 2 ^^^ (if v.testBit 0 then 0xE1 * 2 ^ 120 else 0)) n

/-- Zeros up to a multiple of 16 bytes. -/
def padBlocks (l : List Byte) : List Byte := padTo ((l.length + 15) / 16 * 16) l

def ghash (h : Nat) (l : List Byte) : Nat :=
  (pieces 16 (l.length / 16 + 1) l).foldl (fun y b => ghashMul (y ^^^ beNat b) h 128) 0

/-- The tag of a key, a 12-byte nonce, additional data and a ciphertext. -/
def gcmTag (k n aad ct : List Byte) : BitVec 128 :=
  BitVec.ofNat 128 (beNat (aesEnc k (padTo 12 n ++ [0, 0, 0, 1])) ^^^
    ghash (beNat (aesEnc k (List.replicate 16 0)))
      (padBlocks aad ++ padBlocks ct ++ beBytes 8 (aad.length * 8) ++ beBytes 8 (ct.length * 8)))

/-- Bytes combined with the keystream, from its byte `i`. -/
def gcmCrypt (k n : List Byte) (i : Nat) : List Byte → List Byte
  | [] => []
  | b :: l => (b ^^^ gcmStream k n i) :: gcmCrypt k n (i + 1) l

/-- Sealing: the ciphertext and its 16-byte tag. -/
def gcmSeal (k n aad pt : List Byte) : List Byte × List Byte :=
  (gcmCrypt k n 0 pt, beBytes 16 (gcmTag k n aad (gcmCrypt k n 0 pt)).toNat)

/-- Opening: the plaintext, where the tag is the ciphertext's. -/
def gcmOpen (k n aad ct tag : List Byte) : Option (List Byte) :=
  if tag = beBytes 16 (gcmTag k n aad ct).toNat then some (gcmCrypt k n 0 ct) else none

/-! ### AES key wrap (RFC 3394) -/

/-- One step of the wrapping: the register and the blocks, for step `t` on block `i`. -/
def wrapStep (k : List Byte) (n : Nat) (x : List Byte × List (List Byte)) (j : Nat) : List Byte × List (List Byte) :=
  let b := aesEnc k (x.1 ++ nth x.2 (j % n) [])
  (beBytes 8 (beNat (b.take 8) ^^^ (j + 1)), setNth x.2 (j % n) (fun _ => b.drop 8))

def unwrapStep (k : List Byte) (n : Nat) (x : List Byte × List (List Byte)) (j : Nat) : List Byte × List (List Byte) :=
  let b := aesDec k (beBytes 8 (beNat x.1 ^^^ (j + 1)) ++ nth x.2 (j % n) [])
  (b.take 8, setNth x.2 (j % n) (fun _ => b.drop 8))

def wrapIv : List Byte := List.replicate 8 0xA6

/-- A key of a multiple of 8 bytes, wrapped under a key: 8 bytes longer. -/
def keyWrap (k key : List Byte) : List Byte :=
  let n := key.length / 8
  let x := (List.range (6 * n)).foldl (wrapStep k n) (wrapIv, pieces 8 n key)
  x.1 ++ x.2.flatten

/-- The key that was wrapped, where the integrity check passes. -/
def keyUnwrap (k w : List Byte) : Option (List Byte) :=
  let n := w.length / 8 - 1
  let x := (List.range (6 * n)).reverse.foldl (unwrapStep k n) (w.take 8, pieces 8 n (w.drop 8))
  if x.1 = wrapIv then some x.2.flatten else none

/-! ### SHA-384 and HMAC-SHA-384 -/

def shaK0 : List Nat :=
  [0x428a2f98d728ae22, 0x7137449123ef65cd, 0xb5c0fbcfec4d3b2f, 0xe9b5dba58189dbbc,
   0x3956c25bf348b538, 0x59f111f1b605d019, 0x923f82a4af194f9b, 0xab1c5ed5da6d8118,
   0xd807aa98a3030242, 0x12835b0145706fbe, 0x243185be4ee4b28c, 0x550c7dc3d5ffb4e2,
   0x72be5d74f27b896f, 0x80deb1fe3b1696b1, 0x9bdc06a725c71235, 0xc19bf174cf692694,
   0xe49b69c19ef14ad2, 0xefbe4786384f25e3, 0x0fc19dc68b8cd5b5, 0x240ca1cc77ac9c65]

def shaK1 : List Nat :=
  [0x2de92c6f592b0275, 0x4a7484aa6ea6e483, 0x5cb0a9dcbd41fbd4, 0x76f988da831153b5,
   0x983e5152ee66dfab, 0xa831c66d2db43210, 0xb00327c898fb213f, 0xbf597fc7beef0ee4,
   0xc6e00bf33da88fc2, 0xd5a79147930aa725, 0x06ca6351e003826f, 0x142929670a0e6e70,
   0x27b70a8546d22ffc, 0x2e1b21385c26c926, 0x4d2c6dfc5ac42aed, 0x53380d139d95b3df,
   0x650a73548baf63de, 0x766a0abb3c77b2a8, 0x81c2c92e47edaee6, 0x92722c851482353b]

def shaK2 : List Nat :=
  [0xa2bfe8a14cf10364, 0xa81a664bbc423001, 0xc24b8b70d0f89791, 0xc76c51a30654be30,
   0xd192e819d6ef5218, 0xd69906245565a910, 0xf40e35855771202a, 0x106aa07032bbd1b8,
   0x19a4c116b8d2d0c8, 0x1e376c085141ab53, 0x2748774cdf8eeb99, 0x34b0bcb5e19b48a8,
   0x391c0cb3c5c95a63, 0x4ed8aa4ae3418acb, 0x5b9cca4f7763e373, 0x682e6ff3d6b2b8a3,
   0x748f82ee5defb2fc, 0x78a5636f43172f60, 0x84c87814a1f0ab72, 0x8cc702081a6439ec]

def shaK3 : List Nat :=
  [0x90befffa23631e28, 0xa4506cebde82bde9, 0xbef9a3f7b2c67915, 0xc67178f2e372532b,
   0xca273eceea26619c, 0xd186b8c721c0c207, 0xeada7dd6cde0eb1e, 0xf57d4f7fee6ed178,
   0x06f067aa72176fba, 0x0a637dc5a2c898a6, 0x113f9804bef90dae, 0x1b710b35131c471b,
   0x28db77f523047d84, 0x32caab7b40c72493, 0x3c9ebe0a15c9bebc, 0x431d67c49c100d4c,
   0x4cc5d4becb3e42b6, 0x597f299cfc657e2a, 0x5fcb6fab3ad6faec, 0x6c44198c4a475817]

def shaInit : List Nat :=
  [0xcbbb9d5dc1059ed8, 0x629a292a367cd507, 0x9159015a3070dd17, 0x152fecd8f70e5939,
   0x67332667ffc00b31, 0x8eb44a8768581511, 0xdb0c2e0d64f98fa7, 0x47b5481dbefa4fa4]

abbrev W64 := BitVec 64

def shaK : List W64 := (shaK0 ++ shaK1 ++ shaK2 ++ shaK3).map (BitVec.ofNat 64)

/-- The eighty words of a block's schedule, the newest first. -/
def shaSchedule (block : List Byte) : List W64 :=
  ((List.range 64).foldl (fun (w : List W64) _ =>
    let a := nth w 14 0
    let b := nth w 1 0
    (nth w 15 0 + (a.rotateRight 1 ^^^ a.rotateRight 8 ^^^ (a >>> 7)) + nth w 6 0 +
      (b.rotateRight 19 ^^^ b.rotateRight 61 ^^^ (b >>> 6))) :: w)
    ((pieces 8 16 block).map (fun p => BitVec.ofNat 64 (beNat p))).reverse).reverse

/-- One round on the eight working words. -/
def shaRound (v : List W64) (p : W64 × W64) : List W64 :=
  match v with
  | [a, b, c, d, e, f, g, h] =>
    let t1 := h + (e.rotateRight 14 ^^^ e.rotateRight 18 ^^^ e.rotateRight 41) + ((e &&& f) ^^^ (~~~e &&& g)) + p.1 + p.2
    let t2 := (a.rotateRight 28 ^^^ a.rotateRight 34 ^^^ a.rotateRight 39) + ((a &&& b) ^^^ (a &&& c) ^^^ (b &&& c))
    [t1 + t2, a, b, c, d + t1, e, f, g]
  | v => v

def shaBlock (h : List W64) (block : List Byte) : List W64 :=
  (h.zip ((shaK.zip (shaSchedule block)).foldl shaRound h)).map (fun p => p.1 + p.2)

/-- The message with its padding to whole blocks of 128 bytes. -/
def shaPadded (m : List Byte) : List Byte :=
  m ++ [0x80] ++ List.replicate ((128 + 111 - m.length % 128) % 128) 0 ++ beBytes 16 (m.length * 8)

/-- SHA-384: 48 bytes. -/
def sha384 (m : List Byte) : List Byte :=
  let p := shaPadded m
  (((pieces 128 (p.length / 128 + 1) p).foldl shaBlock (shaInit.map (BitVec.ofNat 64))).take 6).flatMap
    (fun w => beBytes 8 w.toNat)

/-- HMAC-SHA-384. -/
def hmac (k m : List Byte) : List Byte :=
  let k0 := padTo 128 (if 128 < k.length then sha384 k else k)
  sha384 (k0.map (· ^^^ 0x5C) ++ sha384 (k0.map (· ^^^ 0x36) ++ m))

/-! ### P-384 -/

/-- The field's prime, the curve's coefficient b, the order of its group and its base point. -/
def p384 : Nat := 2 ^ 384 - 2 ^ 128 - 2 ^ 96 + 2 ^ 32 - 1
def p384b : Nat :=
  0xb3312fa7e23ee7e4988e056be3f82d19181d9c6efe8141120314088f5013875ac656398d8a2ed19d2a85c8edd3ec2aef
def p384n : Nat :=
  0xffffffffffffffffffffffffffffffffffffffffffffffffc7634d81f4372ddf581a0db248b0a77aecec196accc52973
def p384g : Nat × Nat :=
  (0xaa87ca22be8b05378eb1c71ef320ad746e1d3b628ba79b9859f741e082542a385502f25dbf55296c3a545e3872760ab7,
   0x3617de4a96262c6f5d9e98bf9292dc29f8f41dbd289a147ce9da3113b5f0b8c00a60b1ce1d7e819d7a431d7c90ea0e5f)

/-- A power modulo `m`, over `n` bits of the exponent. -/
def powMod (m b e : Nat) : Nat → Nat
  | 0 => 1
  | n + 1 => (if e.testBit 0 then b else 1) * powMod m (b * b % m) (e / 2) n % m

/-- The inverse modulo a prime of 384 bits. -/
def invMod (m a : Nat) : Nat := powMod m (a % m) (m - 2) 384

/-- A difference modulo the field's prime. -/
def subMod (a b : Nat) : Nat := (a % p384 + p384 - b % p384) % p384

/-- The third point on a line of slope `l` through two points, mirrored. -/
def ptChord (l : Nat) (p q : Nat × Nat) : Nat × Nat :=
  let x := subMod (subMod (l * l) p.1) q.1
  (x, subMod (l * subMod p.1 x) p.2)

/-- The sum of two points; none is the point at infinity. -/
def ptAdd : Option (Nat × Nat) → Option (Nat × Nat) → Option (Nat × Nat)
  | none, q => q
  | p, none => p
  | some p, some q =>
    if p.1 = q.1 then
      if (p.2 + q.2) % p384 = 0 then none
      else some (ptChord (subMod (3 * p.1 * p.1) 3 * invMod p384 (2 * p.2) % p384) p q)
    else some (ptChord (subMod q.2 p.2 * invMod p384 (subMod q.1 p.1) % p384) p q)

/-- A multiple of a point, over `n` bits of the factor. -/
def ptMul (p : Option (Nat × Nat)) (k : Nat) : Nat → Option (Nat × Nat)
  | 0 => none
  | n + 1 => ptAdd (if k.testBit 0 then p else none) (ptMul (ptAdd p p) (k / 2) n)

/-- The uncompressed encoding of a point, 97 bytes. -/
def ptBytes : Option (Nat × Nat) → List Byte
  | none => [0]
  | some p => 4 :: beBytes 48 p.1 ++ beBytes 48 p.2

/-- The point of an uncompressed encoding. -/
def ptOf (l : List Byte) : Nat × Nat := (fldBe l 1 48, fldBe l 49 48)

def onCurve (l : List Byte) : Bool :=
  let p := ptOf l
  l.length == 97 && fld l 0 1 == 4 && p.1 < p384 && p.2 < p384 &&
  p.2 * p.2 % p384 == subMod (p.1 * p.1 * p.1 + p384b) (3 * p.1)

/-- The public key of a private key. -/
def pubKey (d : List Byte) : List Byte := ptBytes (ptMul (some p384g) (beNat d) 384)

/-- The x-coordinate of the ECDH of a private key and a public key, 48 bytes. -/
def ecdh (d q : List Byte) : List Byte := ((ptBytes (ptMul (some (ptOf q)) (beNat d) 384)).drop 1).take 48

/-- The private key of 56 bytes c: (c mod (n - 1)) + 1 (R392). -/
def toScalar (c : List Byte) : List Byte := beBytes 48 (beNat c % (p384n - 1) + 1)

/-- ECDSA: a signature r, s of 96 bytes over a digest holds under a public key. -/
def sigOk (key digest sig : List Byte) : Bool :=
  let r := fldBe sig 0 48
  let t := fldBe sig 48 48
  let w := invMod p384n t
  let x := ptAdd (ptMul (some p384g) (beNat digest * w % p384n) 384) (ptMul (some (ptOf key)) (r * w % p384n) 384)
  onCurve key && 0 < r && r < p384n && 0 < t && t < p384n && sig.length == 96 &&
  (match x with | some p => p.1 % p384n == r | none => false)

end Sys2Proof.Machine
end

