-- ==== Sys2Proof/Machine/Ops.lean ====
section
/-! DEFINITION. The named operations over the state's parts, and the tests of what state the block is in. -/

namespace Sys2Proof.Machine

/-- The outcome of a step: always a next state, except where memory does not exist. -/
abbrev Result := Host.Outcome State Fault Refusal

/-! ### Functions, slots, definitions, fault blocks -/

/-- The host port of a function (R59). -/
def portOf (fn : Nat) : Nat := fn / 65
/-- The VF number of a function, 0 for the PF. -/
def vfOf (fn : Nat) : Nat := fn % 65
/-- A VF's function number. -/
def fnId (port vf : Nat) : Nat := port * 65 + vf

def getFn (s : State) (fn : Nat) : Fn := (mfind s.fns fn).getD Fn.reset
def setFn (s : State) (fn : Nat) (f : Fn → Fn) : State := { s with fns := mput s.fns fn (f (getFn s fn)) }
def getSlot (s : State) (i : Nat) : Slot := (mfind s.slots i).getD Slot.reset
def setSlot (s : State) (i : Nat) (f : Slot → Slot) : State := { s with slots := mput s.slots i (f (getSlot s i)) }
def getDef (s : State) (d : Nat) : Option Def := mfind s.defs d
def setDef (s : State) (d : Nat) (f : Def → Def) : State := { s with defs := madj s.defs d f }
def getBlock (s : State) (unit : Nat) : FaultBlock := (mfind s.faults unit).getD FaultBlock.reset
def setBlock (s : State) (unit : Nat) (f : FaultBlock → FaultBlock) : State :=
  { s with faults := mput s.faults unit (f (getBlock s unit)) }

/-- The definition a slot holds (R105). -/
def inSlot (s : State) (slot : Nat) : Option (Nat × Def) := s.defs.find? (fun p => p.2.slot == some slot)

/-- The function a definition is bound to by its grant (R125). -/
def boundFn (d : Def) : Nat := fnId d.grant.bindPort d.grant.bindVf

/-- The definition bound to a VF (R125). -/
def boundTo (s : State) (fn : Nat) : Option (Nat × Def) :=
  s.defs.find? (fun p => p.2.slot.isSome && boundFn p.2 == fn)

/-- One update of a definition's page group (R128). -/
def touchPage (id : Nat) (s : State) : State :=
  setDef s id (fun d => { d with updateSeq := d.updateSeq + 2, updatedAt := s.bell.ns })

/-- One update of every definition's page group: a figure changes that each of them shows (R128). -/
def touchPages (s : State) : State :=
  { s with defs := s.defs.map (fun p => (p.1, { p.2 with updateSeq := p.2.updateSeq + 2, updatedAt := s.bell.ns })) }

/-- Records an output of the block (log 6). -/
def emit (s : State) (o : Out) : State := { s with outs := o :: s.outs }

/-- A value the manual leaves undefined (log 4): the next free value. -/
def drawFree (s : State) : Word × State := (Config.free s.freeCtr, { s with freeCtr := s.freeCtr + 1 })

/-- One draw of 32 bytes from the keep's DRBG (R390). -/
def drawKeep (s : State) : BitVec 256 × State :=
  (Config.drbg s.keep.draws, { s with keep := { s.keep with draws := s.keep.draws + 1 } })

/-! ### Host memory (log 5) -/

def hostMem (s : State) (fn : Nat) : Cells := (mfind s.host fn).getD []
def hostRead (s : State) (fn a n : Nat) : List Byte := readBytes (hostMem s fn) a n
def hostWrite (s : State) (fn a : Nat) (bs : List Byte) : State :=
  { s with host := mput s.host fn (writeBytes (hostMem s fn) a bs) }

/-! ### What state the block is in -/

/-- Power applied and RESET_N high. -/
def alive (s : State) : Bool := s.pins.powered && s.pins.resetN

/-- Start-up has ended and the block is not in the safe state (R494, R480). -/
def operating (s : State) : Bool := alive s && !s.flt.safe && s.boot.stage == .ready

/-- Bell time in nanoseconds (R72). -/
def now (s : State) : Nat := s.bell.ns.toNat

/-- A command that has no effect while the block is not operating (R480, R494). -/
def whenOp (f : State → State) (s : State) : State := if operating s then f s else s

/-- A command that has no effect without power or while RESET_N is low. -/
def whenAlive (f : State → State) (s : State) : State := if alive s then f s else s

end Sys2Proof.Machine
end

