-- ==== Sys2Proof/Machine/Flags.lean ====
section
/-! DEFINITION. Status bits and records: fault blocks, fault views, interrupts, FAULT_N and the classes of causes (R463 to
R488). -/

namespace Sys2Proof.Machine

/-- Raises an MSI-X vector of a function when its enable bit is set (R60). -/
def raise (fn : Nat) (en : Bool) (vec : BitVec 11) (s : State) : State :=
  if en then emit s (.msix fn vec.toNat) else s

/-- An I3C in-band interrupt, when the controller has enabled them, with or without a dynamic address (R68, R484; log 93). -/
def ibi (mandatory : Nat) (s : State) : State := if s.belfry.ibiEn then emit s (.ibi mandatory) else s

/-- A fault indication on FAULT_N (R483): low, with the count of 2 µs started again. -/
def indicate (s : State) : State := { s with pins := { s.pins with faultNLow := true, faultPulse := true } }

/-- The class of a cause (R463, R475, R487, R488); none for a code that is no source of R488. -/
def classOf (s : State) (c : Cause) : Option FClass :=
  let attributed := c.slot.isSome || c.owner.isSome
  let held : FClass := if attributed then .contained else .fatal
  let prog (f : BitVec 2) (dflt : FClass) : FClass := if f == 2 then .fatal else dflt
  match c.code with
  | 0x0100 => some .corrected
  | 0x0101 => some .fatal
  | 0x0102 => some .fatal
  | 0x0103 => some .fatal
  | 0x0200 => some .corrected
  | 0x0201 => some .corrected
  | 0x0202 => some .corrected
  | 0x0300 => some .corrected
  | 0x0301 => some .fatal
  | 0x0400 => some (prog (BitVec.ofNat 2 s.car.tableEcc) .corrected)
  | 0x0500 => some .corrected
  | 0x0501 => some held
  | 0x0600 => some .corrected
  | 0x0601 => some .fatal
  | 0x0602 => some .corrected
  | 0x0603 => some .corrected
  | 0x0604 => some .corrected
  | 0x0605 => some .corrected
  | 0x0606 => some .corrected
  | 0x0700 => some .corrected
  | 0x0701 => some (prog s.vault.eccUnc held)
  | 0x0702 => some (prog s.vault.tagFail held)
  | 0x0703 => some held
  | 0x0704 => some .fatal
  | 0x0705 => some (prog s.vault.keyCheck .corrected)
  | 0x0706 => some .corrected
  | 0x0707 => some .corrected
  | 0x0800 => some held
  | 0x0801 => some held
  | 0x0802 => some held
  | 0x0803 => some (if c.slot.isSome then .contained else .corrected)
  | 0x0804 => some held
  | 0x0805 => some held
  | 0x0900 => some .corrected
  | 0x0901 => some held
  | 0x0902 => some held
  | 0x0903 => some held
  | 0x0A00 => some .corrected
  | 0x0B00 => some held
  | 0x0B01 => some held
  | 0x0B02 => some held
  | 0x0B03 => some held
  | 0x0C00 => some (if c.slot.isSome then .contained else .corrected)
  | 0x0C01 => some held
  | 0x0D00 => some (if s.keep.severity.getLsbD 0 then .fatal else .corrected)
  | 0x0D01 => some (if s.keep.severity.getLsbD 1 then .fatal else held)
  | 0x0D02 => some .corrected
  | 0x0D03 => some .fatal
  | 0x0D04 => some .corrected
  | 0x0E00 => some .corrected
  | _ => none

/-- A cause carries a load generation that is no longer its slot's (R473). -/
def isStale (s : State) (c : Cause) : Bool :=
  match c.slot with
  | none => false
  | some sl => c.loadGen != (getSlot s sl).loadGen.toNat

/-- The definition owning a cause: the one in its slot, or the one the cause names. -/
def ownerOf (s : State) (c : Cause) : Option (Nat × Def) :=
  match c.slot with
  | some sl => inSlot s sl
  | none => c.owner.bind (fun d => (getDef s d).map (fun x => (d, x)))

/-- The history entry of a cause, as its fault view keeps it (R466, R470). -/
def entryOf (s : State) (cls : FClass) (c : Cause) : FEntry :=
  { bellAt := s.bell.ns, code := c.code, cls := cls, injected := c.injected, stale := isStale s c, redacted := false
    slot := c.slot, defId := (ownerOf s c).map (·.1), loadGen := c.loadGen, seq := 0, detail := c.detail }

/-- The detecting unit's own entry: no detail where the owner is confidential (R471). -/
def redact (s : State) (c : Cause) (e : FEntry) : FEntry :=
  match ownerOf s c with
  | some (_, d) => if d.grant.confidential then { e with redacted := true, detail := 0 } else e
  | none => e

/-- Records one event in a history: its SRC bit, its count, the overwrite of an unacknowledged entry (R465, R467). The second
result says that the unit's vector is raised (R468). -/
def FaultBlock.record (b : FaultBlock) (e : FEntry) (src : Option Nat) : FaultBlock × Bool :=
  let n := b.head
  let full := decide (8 ≤ (n - b.ack).toNat)
  let set := match src with
    | some i => !b.src.getLsbD i
    | none => false
  let rise := match src with
    | some i => !b.src.getLsbD i && b.irqEn.getLsbD i && b.vecEn
    | none => false
  ({ b with
      head := n + 1
      ovf := if full then satAdd b.ovf 1 else b.ovf
      hist := mput b.hist (n.toNat % 8) { e with seq := n.truncate 16 }
      src := match src with
        | some i => if set then b.src ||| BitVec.ofNat 16 (2 ^ i) else b.src
        | none => b.src },
    rise)

/-- The causes that wait stand in the four staging entries; what finds them occupied is lost and counted (R467). -/
def FaultBlock.wait (b : FaultBlock) (l : List FEntry) : FaultBlock :=
  { b with staging := l.take 4, ovf := satAdd b.ovf (l.length - 4) }

/-- The `FATAL` cause with which the safe state begins, at FLT: its vector is raised once, with the safe state (R468). -/
def safeFirst (unit : Nat) (e : FEntry) (s : State) : Bool :=
  unit == 1 && e.cls == .fatal && (!s.flt.safe || (s.flt.firstCode == e.code && s.flt.safeAt == e.bellAt))

/-- A unit's recording in one fabric clock, in which it records at most one event (R467): the oldest waiting cause is recorded
and the others wait; in a clock that has recorded one, all wait. -/
def recordClock (unit : Nat) (new : List FEntry) (s : State) : State :=
  let b := getBlock s unit
  match b.staging ++ new with
  | [] => s
  | e :: rest =>
    if b.recAt == some s.clk then setBlock s unit (fun b => b.wait (e :: rest))
    else
      let r := ({ b.wait rest with recAt := some s.clk } : FaultBlock).record e (if e.stale then none else some (e.code % 256))
      raise 0 (r.2 && !safeFirst unit e s) b.vec (setBlock s unit (fun _ => r.1))

/-- A bit of a fault view is set; its vector is raised when the bit goes from 0 to 1 with its enable (R468, R469). -/
def viewSet (fn bitNo : Nat) (s : State) : State :=
  let v := (getFn s fn).fv
  let rise := !v.src.getLsbD bitNo && v.irqEn.getLsbD bitNo && v.vecEn
  raise fn rise v.vec
    (setFn s fn (fun f => { f with fv := { f.fv with src := f.fv.src ||| BitVec.ofNat 16 (2 ^ bitNo) } }))

/-- An entry enters a fault view's history (R470). -/
def viewRecord (fn : Nat) (e : FEntry) (s : State) : State :=
  setFn s fn (fun f => { f with fv := (f.fv.record e none).1 })

/-- The bits of a fault history entry's class (R466). -/
def classCode : FClass → Nat
  | .corrected => 0
  | .contained => 1
  | .fatal => 2

/-- The 32 bytes of a history entry (R466). -/
def FEntry.bytes (e : FEntry) : List Byte :=
  leBytes 8 e.bellAt.toNat ++ leBytes 2 e.code ++ leBytes 1 (classCode e.cls) ++
  leBytes 1 (bitAt e.injected 0 + bitAt e.stale 1 + bitAt e.redacted 2) ++ leBytes 1 (e.slot.getD 255) ++ [0] ++
  leBytes 2 (e.defId.getD 0xFFFF) ++ leBytes 4 e.loadGen ++ leBytes 2 e.seq.toNat ++ [0, 0] ++ leBytes 8 e.detail.toNat

end Sys2Proof.Machine
end

