-- ==== Sys2Proof/Machine/Volmi.lean ====
section
/-! DEFINITION. Volmi messages: the header and its check, the tests every request takes, answers, the stored answer, the
backlog and notices (R416 to R437). -/

namespace Sys2Proof.Machine

/-! ### Status codes (R148, R425) -/

def stOk : Nat := 0x0000
def stPoisoned : Nat := 0x0014
def stAccessDenied : Nat := 0x0015
def stMalformed : Nat := 0x0016
def stPartitionReset : Nat := 0x0017
def stCancelled : Nat := 0x0018
def stNotQuiesced : Nat := 0x001A
def stInUse : Nat := 0x001B
def stBusy : Nat := 0x0100
def stOrphaned : Nat := 0x0101
def stBelfryRestarted : Nat := 0x0102
def stVersionUnsupported : Nat := 0x0103
def stCheckFailed : Nat := 0x0104
def stWrongState : Nat := 0x0110
def stNotScrubbed : Nat := 0x0111
def stSlotBusy : Nat := 0x0112
def stMemoryExhausted : Nat := 0x0113
def stResourceShortfall : Nat := 0x0114
def stGrantShortfall : Nat := 0x0115
def stTimeUnlocked : Nat := 0x0116
def stArmTooLate : Nat := 0x0117
def stCarillonArmed : Nat := 0x0118
def stKeyVersionExhausted : Nat := 0x0120
def stKeyCheckFailed : Nat := 0x0121
def stNotAddressed : Nat := 0x0122
def stUnwrapFailed : Nat := 0x0123
def stLogWorn : Nat := 0x0130
def stImageRejected : Nat := 0x0131

/-! ### Messages -/

/-- The 28 header bytes before CHECK (R420). -/
def volmiHead (major minor op seq defId flags len status reserved : Nat) : List Byte :=
  leBytes 1 major ++ leBytes 1 minor ++ leBytes 2 op ++ leBytes 4 seq ++ leBytes 2 defId ++ leBytes 2 flags ++
  leBytes 4 len ++ leBytes 2 status ++ leBytes 10 reserved

/-- The check of a message (R421): CRC-32C with the sequence number folded in, the check field fed as zero. -/
def volmiCheck (head : List Byte) (seq : Nat) (payload : List Byte) : BitVec 32 :=
  crc32c seq (head ++ [0, 0, 0, 0] ++ payload)

/-- Belfry lane 0 after the check of a message (R352, R358). -/
def laneAfter (head : List Byte) (seq : Nat) (payload : List Byte) : CrcCtx :=
  (CrcCtx.init 0 true (BitVec.ofNat 64 seq)).feed (head ++ [0, 0, 0, 0] ++ payload)

/-- A whole message of Amimet's. -/
def volmiMsg (minor op seq defId flags status : Nat) (payload : List Byte) : List Byte :=
  let head := volmiHead 3 minor op seq defId flags payload.length status 0
  head ++ leBytes 4 (volmiCheck head seq payload).toNat ++ payload

/-- Whether a request's CHECK agrees with its bytes. -/
def reqCheckOk (op : Nat) (r : Req) : Bool :=
  volmiCheck (volmiHead r.major r.minor op r.seq r.defId r.flags r.payloadLen r.status r.reserved) r.seq r.payload ==
    r.check

/-- Firmware checks a request on lane 0; a HEARTBEAT is the mailbox hardware's (R358, R431). -/
def checkedBy (op : Nat) (r : Req) (s : State) : State :=
  if op == 0x0002 then s
  else { s with
    crc0 := laneAfter (volmiHead r.major r.minor op r.seq r.defId r.flags r.payloadLen r.status r.reserved) r.seq r.payload }

/-- Firmware computes the check of its own message on lane 0. -/
def signedBy (minor op seq defId flags status : Nat) (payload : List Byte) (s : State) : State :=
  if op == 0x0002 then s
  else { s with crc0 := laneAfter (volmiHead 3 minor op seq defId flags payload.length status 0) seq payload }

/-! ### Mailboxes -/

def getBox (s : State) : Box → Mbox
  | .pf => (getFn s 0).mbox
  | .part fn => (getFn s fn).mbox
  | .i3c => s.belfry.i3c

def setBox (s : State) (b : Box) (f : Mbox → Mbox) : State :=
  match b with
  | .pf => setFn s 0 (fun x => { x with mbox := f x.mbox })
  | .part fn => setFn s fn (fun x => { x with mbox := f x.mbox })
  | .i3c => { s with belfry := { s.belfry with i3c := f s.belfry.i3c } }

/-- The function whose vector a mailbox raises. -/
def boxFn : Box → Nat
  | .part fn => fn
  | _ => 0

/-- The largest message of a mailbox (R416). -/
def boxLimit : Box → Nat
  | .pf => 8192
  | _ => 1024

/-- Start-up found the safe state or the tamper latch held, or stopped for either (R494, R495). -/
def heldStop (s : State) : Bool := s.boot.stage == .stopped && (s.boot.reason == 0x03 || s.boot.reason == 0x08)

/-- The belfry state that MBX.STATUS shows (R417, R480, R495). -/
def belfryShown (s : State) : BelfryState := if s.flt.safe || heldStop s then .halted else s.belfry.state

/-- What the answer buffer holds with a message written into it. The I3C port returns the message alone (R419). -/
def answerBytes (b : Box) (msg old : List Byte) : List Byte :=
  match b with
  | .i3c => msg
  | _ => msg ++ old.drop msg.length

/-- An answer becomes ready (R418, R419). -/
def deliver (b : Box) (msg : List Byte) (s : State) : State :=
  let s1 := setBox s b (fun m => { m with ansBuf := answerBytes b msg m.ansBuf, reqPending := false, answerValid := true })
  match b with
  | .i3c => ibi 0xA1 s1
  | _ => raise (boxFn b) (getBox s b).vecEn (getBox s b).vec s1

/-- Opcodes whose answers are never stored (R422). -/
def neverStored (op status : Nat) : Bool :=
  op == 0x0001 || op == 0x0002 || status == stBusy || status == stCheckFailed || status == stVersionUnsupported ||
  status == stOrphaned

/-- Answers a request: the answer is stored under R422 and delivered. -/
def answer (b : Box) (op : Nat) (seq defId status : Nat) (payload : List Byte) (s : State) : State :=
  let msg := volmiMsg (getBox s b).minor op seq defId 1 status payload
  let s0 := signedBy (getBox s b).minor op seq defId 1 status payload s
  let s1 := if neverStored op status then s0 else setBox s0 b (fun m => { m with stored := some (seq, msg) })
  deliver b msg s1

/-- Moves the mean service time an eighth of the way to a new one (R426). -/
def moveMean (ns : Nat) (s : State) : State :=
  { s with belfry := { s.belfry with meanNs := (7 * s.belfry.meanNs + ns) / 8 } }

/-- A message answered at once: the manual gives no service time, so it is a free value (R426, log 51). -/
def moveServed (s : State) : State := moveMean (drawFree s).1.toNat (drawFree s).2

/-- The end of a request whose answer waited (R426, R435, R438): its backlog entry is freed and the answer stored. A PF
answer is delivered only while the PF has the session it had; otherwise REQ_PENDING only clears (R435). -/
def answerLater (b : Box) (op seq defId status : Nat) (payload : List Byte) (s : State) : State :=
  match s.belfry.backlog.find? (fun w => w.box == b && w.seq == seq && w.opcode == op) with
  | none => s
  | some w =>
    let s1 := moveMean (now s - w.since)
      { signedBy (getBox s b).minor op seq defId 1 status payload s with
        belfry := { s.belfry with backlog := s.belfry.backlog.filter (fun x => x != w) } }
    let msg := volmiMsg (getBox s b).minor op seq defId 1 status payload
    let s2 := if neverStored op status then s1 else setBox s1 b (fun m => { m with stored := some (seq, msg) })
    if b == .pf && s.belfry.state == .orphaned then setBox s2 b (fun m => { m with reqPending := false })
    else deliver b msg s2

/-! ### Notices (R436, R437) -/

/-- Moves held notices into the ring while the mailbox has a session and the ring has room. -/
def drainNotices : Nat → Box → State → State
  | 0, _, s => s
  | fuel + 1, b, s =>
    let m := getBox s b
    match m.heldNotices with
    | [] => s
    | n :: rest =>
      if m.session.isSome && (m.noticeTail - m.noticeHead).toNat < 16 then
        let s1 := setBox s b (fun m => { m with
          heldNotices := rest, ring := mput m.ring (m.noticeTail.toNat % 16) n, noticeTail := m.noticeTail + 1 })
        drainNotices fuel b (raise (boxFn b) m.vecEn m.vec s1)
      else s

/-- Creates a notice for a mailbox. The I3C mailbox has none. -/
def notice (b : Box) (kind origin originSeq value status defId : Nat) (s : State) : State :=
  match b with
  | .i3c => s
  | _ =>
    let m := getBox s b
    let payload := leBytes 1 kind ++ [0] ++ leBytes 2 origin ++ leBytes 4 originSeq ++ leBytes 8 value ++
      leBytes 8 s.bell.ns.toNat ++ leBytes 8 0
    let msg := volmiMsg m.minor 0x0800 m.noticeCount.toNat defId 3 status payload
    let s1 := setBox (signedBy m.minor 0x0800 m.noticeCount.toNat defId 3 status payload s) b
      (fun m => { m with noticeCount := m.noticeCount + 1 })
    let s2 := if m.heldNotices.length < 256 then setBox s1 b (fun m => { m with heldNotices := m.heldNotices ++ [msg] })
      else setBox s1 b (fun m => { m with noticeLost := satAdd m.noticeLost 1 })
    drainNotices 257 b s2

/-! ### The tests of R424 -/

/-- What a message is: who may send it, its payload, and whether it is refused in `ORPHANED` (R427, R434). -/
structure MsgKind where
  lenOk : Nat → Bool
  reservedOk : List Byte → Bool
  aboutDef : Bool
  fromPf : Bool
  fromOwn : Bool
  fromI3c : Bool
  orphanRefused : Bool

/-- What serving a message gives: an answer now, an answer that waits, or an answer already delivered. -/
inductive Served where
  | now (status : Nat) (payload : List Byte) (s : State)
  | later (s : State)
  | done (s : State)

/-- Occupied backlog entries that refuse a message (R426). -/
def backlogLimit : Box → Nat
  | .part _ => 20
  | _ => 24

/-- RETRY_AFTER_US of a `BUSY` answer (R426). -/
def retryAfter (b : Box) (s : State) : Nat :=
  if s.belfry.state == .restarting then
    let t0 := s.belfry.restartAt.headD 0
    (25000000 - (now s - t0)) / 1000
  else
    let k := s.belfry.backlog.length - (backlogLimit b - 1)
    min 1000000 (max 10 (s.belfry.meanNs * k / 1000))

/-- A HEARTBEAT is answered by the mailbox hardware (R431). -/
def heartbeatAnswer (b : Box) (r : Req) (s : State) : State :=
  let s1 := setBox s b (fun m => { m with session := m.session.map (fun x => { x with beatAt := now s }) })
  answer b 0x0002 r.seq r.defId stOk (leBytes 8 s.bell.ns.toNat) s1

/-- Row 5 of R424, the message's own reserved bytes and length among it. -/
def rowFive (k : Option MsgKind) (r : Req) : Bool :=
  match k with
  | none => true
  | some k =>
    !k.lenOk r.payloadLen || r.payloadLen != r.payload.length || r.flags != 0 || r.status != 0 || r.reserved != 0 ||
    (if k.aboutDef then 4095 < r.defId else r.defId != 0xFFFF) || !k.reservedOk r.payload

/-- Row 6 of R424 (R118, R427). -/
def rowSix (k : MsgKind) (b : Box) (r : Req) (s : State) : Bool :=
  match b with
  | .pf => !k.fromPf
  | .i3c => !k.fromI3c
  | .part fn => !k.fromOwn || (k.aboutDef && (match boundTo s fn with | none => true | some p => p.1 != r.defId))

/-- Rows 4 to 7 and the message itself, once the message may be served. -/
def serveTested (op : Nat) (k : Option MsgKind) (body : Box → Req → State → Served) (b : Box) (r : Req) (s : State) :
    State :=
  if s.belfry.state == .restarting || backlogLimit b ≤ s.belfry.backlog.length then
    answer b op r.seq r.defId stBusy (leBytes 4 (retryAfter b s)) s
  else if rowFive k r then answer b op r.seq r.defId stMalformed [] (moveServed s)
  else match k with
    | none => answer b op r.seq r.defId stMalformed [] (moveServed s)
    | some k =>
      if rowSix k b r s then answer b op r.seq r.defId stAccessDenied [] (moveServed s)
      else if s.belfry.state == .orphaned && op != 0x0001 && b != .i3c && (b == .pf || k.orphanRefused) then
        answer b op r.seq r.defId stOrphaned [] (moveServed s)
      else
        match body b r s with
        | .now st pay t => answer b op r.seq r.defId st pay (moveServed t)
        | .later t => setBox t b (fun m => { m with reqPending := true })
        | .done t => moveServed t

/-- A request taken from a mailbox, through every test of R424. -/
def volmiTaken (op : Nat) (k : Option MsgKind) (body : Box → Req → State → Served) (b : Box) (r : Req) (s : State) : State :=
    let m := getBox s b
    if boxLimit b < 32 + r.payloadLen || !reqCheckOk op r then answer b op r.seq r.defId stCheckFailed [] s
    else if (match b with | .part fn => (boundTo s fn).isNone | _ => false) then
      answer b op r.seq r.defId stWrongState [] s
    else if belfryShown s == .halted && op != 0x0002 then answer b op r.seq r.defId stOrphaned [] s
    else if r.major != 3 || m.minor < r.minor then answer b op r.seq r.defId stVersionUnsupported [] s
    else if op != 0x0001 && op != 0x0002 && (match m.stored with | some (q, _) => q == r.seq | none => false) then
      deliver b (match m.stored with | some (_, msg) => msg | none => []) s
    else if s.boot.stage == .recovery && op != 0x0502 && op != 0x0002 then answer b op r.seq r.defId stOrphaned [] s
    else if b != .i3c && m.session.isNone && op != 0x0001 && !(s.boot.stage == .recovery && op == 0x0502) then
      (if s.boot.stage == .ready || s.boot.stage == .recovery || op == 0x0002 then
        answer b op r.seq r.defId stOrphaned [] s
       else answer b op r.seq r.defId stBusy (leBytes 4 10000) s)
    else if op == 0x0002 && b != .i3c then heartbeatAnswer b r s
    else if s.boot.stage != .ready && s.boot.stage != .recovery then
      answer b op r.seq r.defId stBusy (leBytes 4 10000) s
    else serveTested op k body b r s

/-- A request written to a mailbox: discarded while one is under way, else taken (R416 to R431, R480, R494). -/
def volmi (op : Nat) (k : Option MsgKind) (body : Box → Req → State → Served) (b : Box) (r : Req) (s : State) : State :=
  if !alive s then s
  else if (getBox s b).reqPending || (b != .i3c && (getBox s b).answerValid) then
    (match b with
     | .i3c => s
     | _ => setBox s b (fun m => { m with discards := satAdd m.discards 1 }))
  else volmiTaken op k body b r (checkedBy op r s)

/-- A request whose answer waits takes a backlog entry (R426). -/
def enterBacklog (b : Box) (op : Nat) (r : Req) (s : State) : State :=
  { s with belfry := { s.belfry with
      backlog := s.belfry.backlog ++ [{ box := b, opcode := op, seq := r.seq, defId := r.defId, since := now s, ended := none }] } }

/-! ### Requests that wait for the entropy source (R488) -/

/-- A request whose derivation must wait while the source fails is answered once the source recovers. Refusals that need no
derivation are answered at once. -/
def whenEntropy (op : Nat) (agree : Bool) (needs : Nat → Bool) (serve : Box → Req → State → Served) (b : Box) (r : Req)
    (s : State) : Served :=
  if s.keep.entropyOk then serve b r s
  else match serve b r s with
    | .now st pay t =>
      if needs st then
        .later (enterBacklog b op r { s with keep := { s.keep with waits := s.keep.waits ++ [(op, b, r, agree)] } })
      else .now st pay t
    | x => x

/-- Statuses that a derivation comes before. -/
def derived (st : Nat) : Bool := st == stOk || st == stKeyCheckFailed || st == stUnwrapFailed || st == stOrphaned

end Sys2Proof.Machine
end

