-- ==== Sys2Proof/Machine/Operands.lean ====
section
/-! DEFINITION. Operand forms: the resource grant, the carillon's figures, page tables, partition memory, ring entries and
fences' fields (R86, R98, R106, R140 to R143, R154, R372). -/

namespace Sys2Proof.Machine

/-! ### The grant (R106) -/

/-- `n` fields of `w` bytes from an offset. -/
def fldList (p : List Byte) (off w n : Nat) : List Nat := (List.range n).map (fun i => fld p (off + i * w) w)

def parseGrant (p : List Byte) : Grant :=
  { tenantLabel := p.take 16, confidential := bit (fld p 16 1) 0, bindPort := fld p 17 1, bindVf := fld p 18 2
    domeMask := fld p 20 2, lanterns := fldList p 24 1 16, drumWays := fldList p 40 1 16, persistKib := fld p 56 4
    memGib := fld p 60 4, qps := fld p 64 4, cmdRings := fld p 68 4, cplRings := fld p 72 4, fences := fld p 76 4
    qpCache := fld p 80 2, linkKeys := fld p 82 2, preemptWaitUs := fld p 84 4, powerBudget := fld p 88 2
    memEntries := fld p 92 2, hostEntries := fldList p 94 2 2, netEntries := fldList p 98 2 8
    domeEntries := fldList p 114 2 16, bytes := p }

/-- Reserved bytes and bits of a grant are zero (R6, R106). -/
def grantReservedOk (p : List Byte) : Bool := fld p 16 1 < 2 && zeros p 22 2 && zeros p 90 2 && zeros p 146 14

/-- The second row of R107, with the range of R454. -/
def grantOk (g : Grant) : Bool :=
  g.bindPort ≤ 1 && 1 ≤ g.bindVf && g.bindVf ≤ 64 &&
  g.lanterns.all (· ≤ 8) && g.drumWays.all (· ≤ 64) &&
  g.persistKib % 64 == 0 && g.persistKib ≤ 2048 && 1 ≤ g.memGib &&
  64 ≤ g.qpCache && g.qpCache ≤ 1024 && g.qpCache % 64 == 0 && 1 ≤ g.linkKeys && g.linkKeys ≤ 256 &&
  (g.preemptWaitUs == 0 || (10 ≤ g.preemptWaitUs && g.preemptWaitUs ≤ 5000)) && g.powerBudget ≤ 112 &&
  g.memEntries ≤ 1024 && g.hostEntries.all (· ≤ 1024) && g.netEntries.all (· ≤ 1024) && g.domeEntries.all (· ≤ 1024) &&
  (List.range 16).all (fun d =>
    if bit g.domeMask d then nth g.lanterns d 0 != 0 && nth g.drumWays d 0 != 0
    else nth g.lanterns d 0 == 0 && nth g.drumWays d 0 == 0 && nth g.domeEntries d 0 == 0) &&
  g.persistKib ≤ g.drumWays.sum * 256

/-- Pre-empt-wait limit in force, in µs (R106). -/
def preemptWait (g : Grant) : Nat := if g.preemptWaitUs == 0 then 200 else g.preemptWaitUs

/-- Offsets that one chunk carries (R372). -/
def chunkBytes (g : Grant) : Nat := if g.confidential then 1040187392 else 1073741824

/-- MEM_USABLE (R108). -/
def memUsable (g : Grant) : Nat := g.memGib * chunkBytes g - 4194304

/-- The entries a definition requests by resource: 0 memory, 1 and 2 host ports, 3 to 10 network ports, 11 to 26 domes. -/
def requested (g : Grant) (res : Nat) : Nat :=
  if res == 0 then g.memEntries
  else if res < 3 then nth g.hostEntries (res - 1) 0
  else if res < 11 then nth g.netEntries (res - 3) 0
  else nth g.domeEntries (res - 11) 0

/-! ### Populations (R41, R56) -/

def ports (s : State) : Nat :=
  match s.pins.hbmPop.toNat with
  | 0 => 4
  | 1 => 6
  | 2 => 8
  | _ => 0

/-- Chunks of partition memory: all stacks less the block reserve (R14, R56). -/
def poolChunks (s : State) : Nat := ports s * s.boot.stackGib - 2

/-! ### The carillon table (R86, R87, R488) -/

def ownerOpen : Nat := 0x80
def ownerEmpty : Nat := 0xFF

/-- The owner byte of a resource in an entry. Resources 27 and 28 are the other direction of the host ports 1 and 2 name. -/
def CarEntry.owner (e : CarEntry) (res : Nat) : Nat :=
  if res == 0 then e.mem
  else if res < 3 then nth e.host (res - 1) ownerOpen
  else if res < 11 then nth e.net (res - 3) ownerOpen
  else if res < 27 then nth e.dome (res - 11) ownerOpen
  else nth e.host (res - 27) ownerOpen

/-- The owner of a resource in one entry of a table: the default table is `OPEN` everywhere, and an entry lost to TABLE_ECC
reads `EMPTY`. -/
def ownerAt (t : Table) (i res : Nat) : Nat :=
  if t.empties.contains i then ownerEmpty
  else match mfind t.chunks (i / 64) with
    | none => ownerOpen
    | some l => match l[i % 64]? with
      | none => ownerOpen
      | some e => e.owner res

/-- The entry indexes a slot owns for a resource. Only received chunks can hold a slot as owner. -/
def ownedAt (t : Table) (res slot : Nat) : List Nat :=
  t.chunks.flatMap (fun c => ((List.range 64).map (· + c.1 * 64)).filter (fun i => ownerAt t i res == slot))

def owned (t : Table) (res slot : Nat) : Nat := (ownedAt t res slot).length

/-- Entries of a resource that are `OPEN`. -/
def openCount (t : Table) (res : Nat) : Nat := ((List.range 1024).filter (fun i => ownerAt t i res == ownerOpen)).length

/-- Cyclic runs of consecutive owned entries (R98); a slot that owns every entry owns one run. -/
def runs (t : Table) (res slot : Nat) : Nat :=
  let l := ownedAt t res slot
  if l.length == 1024 then 1 else (l.filter (fun i => !l.contains ((i + 1023) % 1024))).length

/-- Partition slots that own a resource somewhere in the table. -/
def ownersOf (t : Table) (res : Nat) : Nat := ((List.range 64).filter (fun sl => 0 < owned t res sl)).length

/-- F of R98: the largest frame that a slot can send on a network port, with its overhead. -/
def largestFrame (d : Def) (port : Nat) : Nat :=
  if d.qps.any (fun q => q.2.state != .reset && fld q.2.conn 1 1 == port && fld q.2.conn 3 1 == 1) then 9258 else 4138

/-- The per-frame guarantee of R98 in bytes, or ns for a dome, for `n` owned entries, rounded down (R127). -/
def guarantee (s : State) (t : Table) (d : Def) (slot res : Nat) : Nat :=
  let n := owned t res slot
  if res == 0 then n * ports s * 256 * s.boot.pinRate * 128 * 80 / 1000
  else if res < 3 || 27 ≤ res then n * 16384 * 85 / 100
  else if res < 11 then n * 12800 - runs t res slot * largestFrame d (res - 3)
  else n * 128 - (if 1 < ownersOf t res then 6250 else 0)

/-- A table gives a slot at least the entries a definition requests, for every resource (R92, R112). -/
def tableGives (t : Table) (g : Grant) (slot : Nat) : Bool :=
  (List.range 27).all (fun res => requested g res ≤ owned t res slot)

/-! ### Partition memory (R369, R372 to R377) -/

/-- Memory bytes are charged in units of 64 (R98). -/
def charge64 (n : Nat) : Nat := (n + 63) / 64 * 64

/-- The first of the four sectors of an offset's line. -/
def lineSector (off : Nat) : Nat := off / 256 * 4

/-- A line is poisoned while any of its sectors carries the marker (R376). -/
def linePoisoned (d : Def) (off : Nat) : Bool :=
  (List.range 4).any (fun k => d.poison.contains (lineSector off + k))

/-- Whether any line of a range is poisoned. -/
def rangePoisoned (d : Def) (off n : Nat) : Bool :=
  d.poison.any (fun sec => off / 256 ≤ sec / 4 && sec / 4 ≤ (off + n - 1) / 256) && 0 < n

/-- The sectors a write covers whole: of whole lines only, where the definition is confidential (R369, R376). -/
def coveredSectors (g : Grant) (off n sec : Nat) : Bool :=
  if g.confidential then off ≤ sec / 4 * 256 && sec / 4 * 256 + 256 ≤ off + n
  else off ≤ sec * 64 && sec * 64 + 64 ≤ off + n

/-- A write to partition memory: the bytes, and the poison markers that it clears. -/
def Def.write (d : Def) (off : Nat) (bs : List Byte) : Def :=
  { d with mem := writeBytes d.mem off bs
           poison := d.poison.filter (fun sec => !coveredSectors d.grant off bs.length sec) }

/-- Marks a line poisoned: the marker in all four sectors (R374). -/
def Def.poisonLine (d : Def) (off : Nat) : Def :=
  { d with poison := (List.range 4).foldl (fun l k => insNat (lineSector off + k) l) d.poison }

/-! ### Block physical addresses (log 22) -/

/-- Where the free pool's chunks start: above the block reserve of 2 GiB. -/
def reserveBytes : Nat := 2147483648

/-- The block physical address of an offset of a definition: its chunk's place, and the byte in the chunk (R372). -/
def blockAddr (d : Def) (off : Nat) : Nat :=
  reserveBytes + nth d.chunks (off / chunkBytes d.grant) 0 * 1073741824 + off % chunkBytes d.grant

/-- The definition that owns a block address, with the offset where the address lies in its offset space. -/
def ownerAtBlock (s : State) (addr : Nat) : Option (Nat × Def × Option Nat) :=
  if addr < reserveBytes then none
  else
    let c := (addr - reserveBytes) / 1073741824
    let byte := (addr - reserveBytes) % 1073741824
    match s.defs.find? (fun p => p.2.chunks.contains c) with
    | none => none
    | some (id, d) =>
      let cb := chunkBytes d.grant
      some (id, d, if byte < cb then some (d.chunks.idxOf c * cb + byte) else none)

/-! ### Owners in the present carillon slot (R85, R87, R90, R99) -/

/-- The slot index in the frame (R73). -/
def slotIndex (s : State) : Nat := now s / 128 % 1024

/-- The owner byte of a resource in the present carillon slot. -/
def ownerNow (s : State) (res : Nat) : Nat := ownerAt s.car.live (slotIndex s) res

/-- The entry of the live table in force, where one was received. -/
def entryNow (s : State) : Option CarEntry := (mfind s.car.live.chunks (slotIndex s / 64)).bind (fun l => l[slotIndex s % 64]?)

/-- Ownership counts only for a definition that is `RESIDENT` or `RUNNING` and is granted the resource: a host port by its
binding, a dome by DOME_MASK (R90). -/
def ownershipHolds (d : Def) (res : Nat) : Bool :=
  (d.state == .resident || d.state == .running) &&
  (if res == 1 || res == 2 then d.grant.bindPort + 1 == res
    else if 11 ≤ res && res < 27 then bit d.grant.domeMask (res - 11) else true)

/-- A slot's owner may use the present carillon slot for a resource. -/
def ownsNow (s : State) (slot res : Nat) : Bool :=
  ownerNow s res == slot && (match inSlot s slot with | some (_, d) => ownershipHolds d res | none => false)

/-- The slot is being scrubbed from its slot (R123). -/
def slotScrubbing (s : State) (slot : Nat) : Bool :=
  match inSlot s slot with | some (_, d) => d.state == .scrubbing | none => false

/-- Capacity that the owner leaves unused is lent to BULK traffic of others: not where NOLEND is set for the resource, the
owner is confidential, or its memory slots carry its scrub (R90, R99, R123). -/
def lendsNow (s : State) (res : Nat) : Bool :=
  let o := ownerNow s res
  o < 64 &&
  !(match entryNow s with | some e => if res == 0 then e.noLendMem else e.noLendHost | none => false) &&
  !(match inSlot s o with | some (_, d) => d.grant.confidential || (res == 0 && d.state == .scrubbing) | none => false)

/-! ### Charges, and the pieces of a host transfer (R60, R98) -/

/-- Memory traffic of the walk for one page: its bytes read and written, with the tag sectors of a confidential grant (R381). -/
def pageTraffic (g : Grant) : Nat := if g.confidential then 135168 else 131072

/-- Charges a slot for a resource (R98). -/
def charge (slot res n : Nat) (s : State) : State :=
  setSlot s slot (fun x => { x with served := mput x.served res ((mfind x.served res).getD 0 + n) })

/-- The largest request of a port: a read of at most 512 B and Max_Read_Request_Size, a write of Max_Payload_Size (R60). -/
def hostLimit (port : Nat) (wr : Bool) : Nat :=
  max 1 (if wr then Config.maxPayload port else min 512 (Config.maxReadRequest port))

/-- A transfer cut into requests of at most `k` bytes. -/
def hostCuts (k : Nat) : Nat → Nat → List Nat
  | 0, _ => []
  | _, 0 => []
  | fuel + 1, n + 1 => min (n + 1) k :: hostCuts k fuel (n + 1 - k)

/-- The requests that a host transfer of `n` bytes goes out as, by their lengths (R60; log 68). -/
def hostPieces (port n : Nat) (wr : Bool) : List Nat := hostCuts (hostLimit port wr) n n

/-- What a host transfer of `n` bytes costs: the payload of each request and 16 B (R98). -/
def hostCost (port n : Nat) (wr : Bool) : Nat := ((hostPieces port n wr).map (· + 16)).sum

/-- Charges a slot for a host transfer, by direction. -/
def chargeHost (slot port n : Nat) (wr : Bool) (s : State) : State :=
  charge slot (if wr then 27 + port else 1 + port) (hostCost port n wr) s

/-- The same for a resident definition, on its bound port. -/
def chargeBound (d : Def) (n : Nat) (wr : Bool) (s : State) : State :=
  match d.slot with
  | some sl => chargeHost sl (portOf (boundFn d)) n wr s
  | none => s

/-- Bit index of an offset's page in a dirty bitmap (R129). -/
def dirtyBit (g : Grant) (off : Nat) : Nat := off / chunkBytes g * 16384 + off % chunkBytes g / 65536

/-- Sets the dirty bit of one page in the active bitmap, in host memory, as traffic of the slot on the bound port (R98, R130). -/
def markDirty (defId off : Nat) (s : State) : State :=
  match getDef s defId with
  | none => s
  | some d =>
    match d.dirty with
    | none => s
    | some l =>
      let i := dirtyBit d.grant off
      let a := (if l.onB then l.b else l.a).toNat + i / 8
      let fn := boundFn d
      let old := readByte (hostMem s fn) a
      setDef (chargeBound d 1 true (chargeBound d 1 false (hostWrite s fn a [old ||| BitVec.ofNat 8 (2 ^ (i % 8))]))) defId
        (fun d => { d with dirty := some { l with bits := insNat i l.bits } })

/-- Pages a range touches, by the offset of each page's start. -/
def pagesOf (a n : Nat) : List Nat :=
  if n == 0 then [] else (List.range ((a + n - 1) / 65536 + 1 - a / 65536)).map (fun i => (a / 65536 + i) * 65536)

/-- A write of partition memory under the slot's label, with its dirty bits. -/
def memWrite (defId off : Nat) (bs : List Byte) (s : State) : State :=
  (pagesOf off bs.length).foldl (fun s p => markDirty defId p s) (setDef s defId (fun d => d.write off bs))

/-! ### Page tables (R154, R155) -/

/-- Where a virtual address leads. -/
inductive Target where
  | mem (off : Nat)
  | host (iova : Nat)
  deriving DecidableEq, Repr

/-- Walks the two-level table for one address; none where the translation fails. -/
def translate (s : State) (d : Def) (va : Nat) (write : Bool) : Option Target :=
  match d.ptBase with
  | none => none
  | some base =>
    let fn := boundFn d
    let e1 := leNat (hostRead s fn (base + va / 2 ^ 32 % 65536 * 8) 8)
    if !bit e1 0 || bits e1 11 1 != 0 then none
    else
      let e2 := leNat (hostRead s fn (bits e1 63 12 * 4096 + va / 65536 % 65536 * 8) 8)
      if !bit e2 0 || bits e2 15 4 != 0 || !(if write then bit e2 2 else bit e2 1) then none
      else
        let t := bits e2 63 16 * 65536
        if bit e2 3 then some (.host (t + va % 65536))
        else if t < memUsable d.grant then some (.mem (t + va % 65536))
        else none

/-- What an access to the partition's address space gives. -/
inductive Acc (α : Type) where
  | ok (a : α)
  | denied (va : Nat)
  | poisoned (va : Nat)
  deriving DecidableEq, Repr

/-- A range cut at page boundaries: address and length of each piece. -/
def pageCuts : Nat → Nat → Nat → List (Nat × Nat)
  | 0, _, _ => []
  | _, _, 0 => []
  | fuel + 1, va, n + 1 =>
    let k := min (n + 1) (65536 - va % 65536)
    (va, k) :: pageCuts fuel (va + k) (n + 1 - k)

/-- The pieces of a range (R154). -/
def pieceList (va n : Nat) : List (Nat × Nat) := pageCuts (n / 65536 + 2) va n

/-- The first address of a range whose translation fails, addresses above 48 bits among them. -/
def firstDenied (s : State) (d : Def) (va n : Nat) (write : Bool) : Option Nat :=
  ((pieceList va n).find? (fun p => 2 ^ 48 ≤ p.1 + p.2 - 1 || (translate s d p.1 write).isNone)).map (·.1)

/-- The first address of a range whose line is poisoned (R375). -/
def firstPoison (s : State) (d : Def) (va n : Nat) : Option Nat :=
  ((pieceList va n).find? (fun p =>
    match translate s d p.1 false with
    | some (.mem off) => rangePoisoned d off p.2
    | _ => false)).map (·.1)

/-- Bytes of a range that translates. -/
def fetchPieces (s : State) (d : Def) (l : List (Nat × Nat)) : List Byte :=
  l.flatMap (fun p => match translate s d p.1 false with
    | some (.mem off) => readBytes d.mem off p.2
    | some (.host a) => hostRead s (boundFn d) a p.2
    | none => [])

/-- Reads a range of the partition's address space. -/
def readVa (s : State) (d : Def) (va n : Nat) : Acc (List Byte) :=
  match firstDenied s d va n false with
  | some a => .denied a
  | none => match firstPoison s d va n with
    | some a => .poisoned a
    | none => .ok (fetchPieces s d (pieceList va n))

/-- The part of a write that changes bytes: its start and length. -/
def diffSpan (old new : List Byte) : Nat × Nat :=
  let same := (old.zip new).map (fun p => p.1 == p.2)
  let a := (same.takeWhile id).length
  let b := (same.reverse.takeWhile id).length
  (a, same.length - a - b)

/-- An executing command attends slots of the page that holds an address. -/
def Cmd.reads (c : Cmd) (va : Nat) : Bool :=
  (c.chains ++ c.shadows).any (fun x => x.ents.any (fun e => !e.remote && e.addr == va / 65536 * 65536))

/-- A piece of a page is about to be written: the commands that attend the page note which bytes change (R245). -/
def noteWrite (defId va : Nat) (bs : List Byte) (s : State) : State :=
  match getDef s defId with
  | none => s
  | some d =>
    if d.rings.any (fun p => (p.2.cur.map (fun c => c.reads va)).getD false) then
      let x := diffSpan (fetchPieces s d [(va, bs.length)]) bs
      if x.2 == 0 then s
      else setDef s defId (fun d => { d with rings := d.rings.map (fun p => (p.1, { p.2 with cur := p.2.cur.map (fun c =>
        if c.reads va then { c with touched := c.touched ++ [(va + x.1, x.2)] } else c) })) })
    else s

/-- Writes the pieces of a range. -/
def storePieces (defId : Nat) : List (Nat × Nat) → List Byte → State → State
  | [], _, s => s
  | (va, n) :: l, bs, s =>
    match getDef s defId with
    | none => s
    | some d =>
      let s0 := noteWrite defId va (bs.take n) s
      let s1 := match translate s d va true with
        | some (.mem off) => memWrite defId off (bs.take n) s0
        | some (.host a) => hostWrite s0 (boundFn d) a (bs.take n)
        | none => s0
      storePieces defId l (bs.drop n) s1

/-- Writes a range of the partition's address space, which the caller has found to translate. -/
def writeVa (defId va : Nat) (bs : List Byte) (s : State) : State := storePieces defId (pieceList va bs.length) bs s

/-! ### Entries of command rings and QP queues (R140 to R143) -/

def eOp (e : List Byte) : Nat := fld e 0 1
def eFlags (e : List Byte) : Nat := fld e 1 1
def eBulk (e : List Byte) : Bool := bit (eFlags e) 0
def eIrq (e : List Byte) : Bool := bit (eFlags e) 1
def eJobEnd (e : List Byte) : Bool := bit (eFlags e) 2
def eTag (e : List Byte) : Nat := fld e 2 2
def eDeadline (e : List Byte) : Nat := fld e 4 4
def eWaitFence (e : List Byte) : Nat := fld e 8 4
def eSignalFence (e : List Byte) : Nat := fld e 12 4
def eWaitValue (e : List Byte) : Word := BitVec.ofNat 64 (fld e 48 8)
def eSignalValue (e : List Byte) : Word := BitVec.ofNat 64 (fld e 56 8)
def fIndex (f : Nat) : Nat := bits f 17 0
def fMode (f : Nat) : Nat := bits f 19 18

/-- The offset of the first byte of a reserved range that is not zero. -/
def firstNonzero (e : List Byte) (lo n : Nat) : Option Nat :=
  ((List.range n).map (· + lo)).find? (fun i => nth e i 0 != 0)

/-- The lowest of several offsets. -/
def lowest (l : List (Option Nat)) : Option Nat :=
  l.foldl (fun a b => match a, b with
    | some x, some y => some (min x y)
    | some x, none => some x
    | none, y => y) none

/-- The offset of the first byte of a fence field that breaks R143 or R145: an index that must be zero or below FENCES, a
mode above `top`, a reserved bit. -/
def fenceFault (e : List Byte) (off top fences : Nat) : Option Nat :=
  let w := fld e off 4
  if (fMode w == 0 && w % 256 != 0) || (fMode w != 0 && fences ≤ fIndex w) then some off
  else if fMode w == 0 && bits w 15 8 != 0 then some (off + 1)
  else if (fMode w == 0 && bits w 17 16 != 0) || top < fMode w || bits w 23 20 != 0 then some (off + 2)
  else if bits w 31 24 != 0 then some (off + 3)
  else none

/-- Offset of the first byte of an entry's common fields that breaks R142, R143 or R145, if one does; `deadline` is the
deadline in force, which is none before the first lock (R77). -/
def headFault (deadline : Nat) (e : List Byte) (fences : Nat) : Option Nat :=
  lowest [if bits (eFlags e) 7 3 != 0 || (eBulk e && deadline != 0) then some 1 else none,
    fenceFault e 8 1 fences, fenceFault e 12 2 fences,
    if fMode (eWaitFence e) == 0 then firstNonzero e 48 8 else none,
    if fMode (eSignalFence e) != 1 then firstNonzero e 56 8 else none]

/-- A deadline has passed at a bell time (R81). -/
def deadlinePassed (deadline t : Nat) : Bool :=
  let diff := (deadline + 2 ^ 32 - t / 16 % 2 ^ 32) % 2 ^ 32
  2 ^ 31 ≤ diff

/-- A deadline field in force: none before the first lock (R77, R82). -/
def deadlineOf (s : State) (e : List Byte) : Nat := if s.bell.everLocked then eDeadline e else 0

/-- A fence with a value reaches a target (R159). -/
def reaches (v t : Word) : Bool := (v - t).toNat < 2 ^ 63

def getFence (d : Def) (i : Nat) : Fence := (mfind d.fences i).getD { value := 0, abandoned := false }

/-! ### Bind packages (R411) -/

def segLen : Nat := 1048576

/-- PO: where the payload of a package starts (R411). -/
def payloadOff (count : Nat) : Nat := (256 + 96 * count + 4095) / 4096 * 4096

def segCount (len : Nat) : Nat := (len + segLen - 1) / segLen

/-- Bytes of a whole package. -/
def packageLen (count len : Nat) : Nat := payloadOff count + len + 16 * segCount len

/-! ### Handles (R133) -/

def hCmd (i : Nat) : Nat := i
def hSend (i : Nat) : Nat := 0x20000 + i
def hRecv (i : Nat) : Nat := 0x30000 + i

end Sys2Proof.Machine
end

