-- ==== Sys2Proof/Machine/Rings.lean ====
section
/-! DEFINITION. Completions, fences and jobs (R144 to R147, R158 to R166). -/

namespace Sys2Proof.Machine

/-! ### Completion statuses and their classes (R148, R164) -/

def cOk : Nat := 0x00
def cOkFallback : Nat := 0x01
def cAbandoned : Nat := 0x10
def cPoolExhausted : Nat := 0x11
def cDeadlineMissed : Nat := 0x12
def cRemoteTimeout : Nat := 0x13
def cPoisoned : Nat := 0x14
def cAccessDenied : Nat := 0x15
def cMalformed : Nat := 0x16
def cPartitionReset : Nat := 0x17
def cCancelled : Nat := 0x18
def cJoinFailed : Nat := 0x19
def cInUse : Nat := 0x1B

def isSuccess (st : Nat) : Bool := st == 0x00 || st == 0x01 || st == 0x11 || st == 0x12 || st == 0x19
def isHostClass (st : Nat) : Bool := st == 0x10 || st == 0x18
def isFaultClass (st : Nat) : Bool := !isSuccess st && !isHostClass st

/-- Bits [47:16] of a refused address, as DETAIL carries them (R146). -/
def vaDetail (va : Nat) : Nat := bits va 47 16

/-- RESULT of a command that an abort or a reset ends: the chunks ended, for REDUCE and CONVERT (R346). -/
def dropResult (c : Cmd) : Nat := if eOp c.entry == 0x20 || eOp c.entry == 0x21 then c.folds else 0

/-- DETAIL of an entry that completes `CANCELLED` for no chain change: all ones for ATTEND and BATCH_STEP (R264, R301). -/
def cancelDetail (e : List Byte) : Nat := if eOp e == 0x40 || eOp e == 0x50 then 0xFFFFFFFF else 0

/-- The admitted entries of a ring that are not completed, with the RESULT each has when an abort or a reset ends it: while a
fall-back list runs these are the job's primary entries (R185). -/
def admittedEntries (r : CmdRing) : List (BitVec 32 × List Byte × Nat) :=
  ((r.fall.map (fun f => f.primary)).getD []).map (fun p => (p.1, p.2, 0)) ++
  [r.cur, r.nxt].flatMap (fun c => match c with
    | some c => if c.listed then [] else [(c.pos, c.entry, dropResult c)]
    | none => [])

/-! ### The save area (R108, R119, R176) -/

/-- Where the save area holds the record of a command ring, by offset (log 63). -/
def recordOffset (g : Grant) (ring : Nat) : Nat := memUsable g + 64 * ring
/-- Where it holds the persistent share and the list of cached QPs (log 63). -/
def shareOffset (g : Grant) : Nat := memUsable g + 1048576
def cachedOffset (g : Grant) : Nat := memUsable g + 3145728

/-- A save record as its 64 bytes (R176). -/
def SaveRec.bytes (x : SaveRec) : List Byte :=
  leBytes 4 x.head.toNat ++ leBytes 4 x.done.toNat ++ leBytes 4 (x.waitField % 2 ^ 20 + bitAt x.satisfied 31) ++
  leBytes 4 x.cursor ++ leBytes 8 x.endedMap.toNat ++ leBytes 8 x.waitValue.toNat ++ leBytes 2 x.fragEpoch.toNat ++
  leBytes 2 x.switchPos ++ leBytes 1 (bitAt x.jobStarted 0 + bitAt x.switched 1 + bitAt x.faultSeen 2) ++
  List.replicate 3 0 ++ leBytes 8 x.vt.toNat ++ List.replicate 16 0

/-- The record that 64 bytes spell. -/
def readRecord (ring : Nat) (b : List Byte) : SaveRec :=
  { ring := ring, head := BitVec.ofNat 32 (fld b 0 4), done := BitVec.ofNat 32 (fld b 4 4)
    waitField := bits (fld b 8 4) 19 0, satisfied := bit (fld b 8 4) 31, cursor := fld b 12 4
    endedMap := BitVec.ofNat 64 (fld b 16 8), waitValue := BitVec.ofNat 64 (fld b 24 8)
    fragEpoch := BitVec.ofNat 16 (fld b 32 2), switchPos := fld b 34 2, jobStarted := bit (fld b 36 1) 0
    switched := bit (fld b 36 1) 1, faultSeen := bit (fld b 36 1) 2, vt := BitVec.ofNat 64 (fld b 40 8) }

/-- The record of a ring as the save area holds it. -/
def savedRecord (d : Def) (ring : Nat) : SaveRec := readRecord ring (readBytes d.mem (recordOffset d.grant ring) 64)

/-- Cells moved by whole addresses: those of a range, to another start. -/
def moveCells (m : Cells) (lo n to_ : Nat) : Cells :=
  (m.filter (fun c => lo ≤ c.1 && c.1 < lo + n)).map (fun c => (c.1 - lo + to_, c.2))

/-- The persistent share goes to the save area. -/
def saveShare (d : Def) : Cells :=
  (moveCells d.persist 0 (d.grant.persistKib * 1024) (shareOffset d.grant)).foldl (fun m c => writeByte m c.1 c.2)
    (clearBytes d.mem (shareOffset d.grant) (d.grant.persistKib * 1024))

/-- The persistent share as the save area holds it. -/
def savedShare (d : Def) : Cells := moveCells d.mem (shareOffset d.grant) (d.grant.persistKib * 1024) 0

/-- The list of cached QPs: a count and two bytes each. -/
def cachedBytes (l : List Nat) : List Byte := leBytes 2 l.length ++ l.flatMap (leBytes 2)
def savedCached (d : Def) : List Nat :=
  let n := leNat (readBytes d.mem (cachedOffset d.grant) 2)
  (List.range (min n 1024)).map (fun i => leNat (readBytes d.mem (cachedOffset d.grant + 2 + 2 * i) 2))

/-- A tile that the record shows as ended stays so; any other runs from its start (R179). -/
def resumeTile (x : SaveRec) (t : Tile) : Tile :=
  if t.idx < x.cursor || (x.cursor < t.idx && t.idx ≤ x.cursor + 64 && x.endedMap.getLsbD (t.idx - x.cursor - 1)) then
    { t with state := .ended }
  else { t with state := .waiting, asked := [], bad := [], replies := 0, acc := [], loc := [], lantern := none }

/-- A command ring goes on from its save record (R179): its counts, its epoch, its wait, its job, and the executing command
from CURSOR. Every chunk's readiness is tested again (R345). -/
def resumeRing (x : SaveRec) (r : CmdRing) : CmdRing :=
  let open_ := x.head != x.done
  { r with
    head := x.head, fragEpoch := x.fragEpoch, waitSat := x.satisfied, vt := x.vt
    jobOpen := if r.prior.isSome then r.jobOpen else x.jobStarted || x.faultSeen
    jobStarted := if r.prior.isSome then r.jobStarted else x.jobStarted, cancelRest := x.faultSeen
    prior := r.prior.map (fun _ => x.jobStarted)
    jobFault := r.jobFault && x.faultSeen, jobHost := r.jobHost && x.faultSeen
    fall := if x.jobStarted || open_ then r.fall.map (fun f => { f with switched := x.switched }) else none
    cur := if open_ then r.cur.map (fun c => { c with ready := [], tiles := c.tiles.map (resumeTile x) }) else none
    nxt := if open_ then r.nxt else none }

/-! ### Access to a definition's objects -/

def getRing (s : State) (defId ring : Nat) : Option CmdRing := (getDef s defId).bind (fun d => mfind d.rings ring)
def setRing (defId ring : Nat) (f : CmdRing → CmdRing) (s : State) : State :=
  setDef s defId (fun d => { d with rings := madj d.rings ring f })
def getCpl (s : State) (defId cpl : Nat) : Option CplRing := (getDef s defId).bind (fun d => mfind d.cpls cpl)
def setCpl (defId cpl : Nat) (f : CplRing → CplRing) (s : State) : State :=
  setDef s defId (fun d => { d with cpls := madj d.cpls cpl f })
def getQp (s : State) (defId qp : Nat) : Option Qp := (getDef s defId).bind (fun d => mfind d.qps qp)
def setQp (defId qp : Nat) (f : Qp → Qp) (s : State) : State :=
  setDef s defId (fun d => { d with qps := madj d.qps qp f })

/-- The entry at a count of a ring in the bound function's host memory (R137). -/
def entryAt (s : State) (fn base log2 : Nat) (pos : BitVec 32) : List Byte :=
  hostRead s fn (base + pos.toNat % 2 ^ log2 * 64) 64

/-- Entries between head and tail. -/
def posted (head tail : BitVec 32) : Nat := (tail - head).toNat

/-- Free slots of a completion ring that no admitted entry and no decided completion claims (R144, R147). -/
def cplRoom (c : CplRing) : Nat := 2 ^ c.log2 - ((c.wcount - c.head).toNat + c.reserved + c.waiting.length)

/-- Reserves a completion slot for an entry being admitted (R144). -/
def reserve (defId cpl : Nat) (s : State) : State := setCpl defId cpl (fun c => { c with reserved := c.reserved + 1 }) s

/-- A completion is decided: it waits, in the order of decisions, for a free slot (R147). -/
def pushPend (defId cpl : Nat) (p : Pend) (s : State) : State :=
  setCpl defId cpl (fun c => { c with
    waiting := c.waiting ++ [p], reserved := if p.held then c.reserved - 1 else c.reserved }) s

/-! ### Fences (R158 to R161) -/

def setFence (defId i : Nat) (f : Fence) (s : State) : State :=
  setDef s defId (fun d => { d with fences := mput d.fences i f })

/-- A cause attributed to a definition in its slot, under the slot's current load generation. -/
def slotCause (s : State) (defId code : Nat) (detail : Word) : Cause :=
  match (getDef s defId).bind (fun d => d.slot) with
  | some sl => { code := code, slot := some sl, owner := none, loadGen := (getSlot s sl).loadGen.toNat
                 detail := detail, injected := false }
  | none => { code := code, slot := none, owner := some defId, loadGen := 0, detail := detail, injected := false }

/-- An ignored lower signal (R160): DB.FENCE_REGRESS and the event in the fault view. -/
def fenceRegress (defId i : Nat) (s : State) : State :=
  match getDef s defId with
  | none => s
  | some d =>
    let fn := boundFn d
    let e := entryOf s .corrected (slotCause s defId 0x0E00 (BitVec.ofNat 64 i))
    viewSet fn 0 (viewRecord fn e (setFn s fn (fun f => { f with regress := satAdd f.regress 1 })))

/-- A signal of an entry: SET or INCREMENT (R160). -/
def signalFence (defId field : Nat) (value : Word) (s : State) : State :=
  match getDef s defId with
  | none => s
  | some d =>
    let i := fIndex field
    let f := getFence d i
    if f.abandoned then s
    else match fMode field with
      | 1 =>
        let diff := value - f.value
        if diff == 0 then s
        else if diff.toNat < 2 ^ 63 then setFence defId i { f with value := value } s
        else fenceRegress defId i s
      | 2 => setFence defId i { f with value := f.value + 1 } s
      | _ => s

/-! ### Jobs (R163 to R166) -/

/-- The ring as its head entry finds it: where the admitted entries hold the last of their job, the head belongs to the job
after it (R161, R163). -/
def headJob (r : CmdRing) : CmdRing :=
  if r.prior.isNone && (admittedEntries r).any (fun x => eJobEnd x.2.1) then
    { r with prior := some r.jobStarted, jobOpen := false, jobStarted := false, jobFault := false, jobHost := false
             cancelRest := false }
  else r

/-- A job ends or goes on when one of its entries completes (R164, R165). Where the last entry of a job completes ahead of
admitted ones (R161), these belong to a job that is over. -/
def jobStep (r : CmdRing) (isEnd : Bool) (st : Nat) : CmdRing :=
  if isEnd then
    let busy := !(admittedEntries r).isEmpty
    { r with jobOpen := false, jobStarted := false, jobFault := false, jobHost := false, cancelRest := false
             prior := if busy && r.prior.isNone then some false else r.prior, fall := if busy then r.fall else none }
  else if isSuccess st || r.cancelRest then { r with jobOpen := true }
  else { r with jobOpen := true, jobStarted := false, cancelRest := true
                jobFault := isFaultClass st, jobHost := isHostClass st }

/-- The job counters move when a started job ends (R166). -/
def jobCount (r : CmdRing) (isEnd : Bool) (st : Nat) (d : Def) : Def :=
  if !r.jobStarted then d
  else if isFaultClass st then { d with jobsFaulted := d.jobsFaulted + 1 }
  else if isEnd && isSuccess st then { d with jobsCompleted := d.jobsCompleted + 1 }
  else d

/-- What the job of a ring does when an entry of it completes. -/
def jobEntry (defId ring : Nat) (isEnd : Bool) (st : Nat) (s : State) : State :=
  match getRing s defId ring with
  | none => s
  | some r =>
    setRing defId ring (fun r => jobStep r isEnd st) (setDef s defId (fun d => jobCount r isEnd st d))

/-- The same for an admitted entry, whose job may be the one before the head's. -/
def jobAdmitted (defId ring : Nat) (isEnd : Bool) (st : Nat) (s : State) : State :=
  match getRing s defId ring with
  | none => s
  | some r =>
    match r.prior with
    | none => jobEntry defId ring isEnd st s
    | some started =>
      setRing defId ring (fun r => { r with prior := some (started && isSuccess st && !isEnd) })
        (setDef s defId (fun d => jobCount { r with jobStarted := started } isEnd st d))

/-- The job before the head's has gone once none of its entries is admitted. -/
def closePrior (defId ring : Nat) (s : State) : State :=
  setRing defId ring (fun r =>
    if r.prior.isSome && (admittedEntries r).isEmpty then { r with prior := none, fall := none } else r) s

/-- Removes a ring's outstanding fragments and advances its fragment epoch (R178). -/
def advanceFragEpoch (defId ring : Nat) (s : State) : State :=
  match (getDef s defId).bind (fun d => d.slot) with
  | none => setRing defId ring (fun r => { r with fragEpoch := r.fragEpoch + 1 }) s
  | some sl =>
    setRing defId ring (fun r => { r with fragEpoch := r.fragEpoch + 1 })
      { s with frags := s.frags.filter (fun f => !(f.2.slot == sl && f.2.ring == ring)) }

/-- The attend tile of a command that covers a chain entry. -/
def tileOfEntry (c : Cmd) (head entry : Nat) : Option Tile :=
  c.tiles.find? (fun t => match t.kind with
    | .attend h first count => h == head && first ≤ entry && entry < first + count
    | _ => false)

/-- What a tile has received ahead of its issue is forgotten. -/
def forgetTile (t : Tile) : Tile := if t.state == .waiting then { t with asked := [], replies := 0, acc := [] } else t

/-- A fragment of a tile that is not issued, or of the command behind the executing one. -/
def aheadFrag (slot ring : Nat) (r : CmdRing) (f : Frag) : Bool :=
  f.slot == slot && f.ring == ring && (match r.cur with
    | some c => c.pos != f.pos || (match tileOfEntry c f.head f.entry with | some t => t.state == .waiting | none => true)
    | none => true)

/-- Pre-emption is requested: the fragments of tiles not issued leave the outstanding table (R254). -/
def forgetAhead (defId ring : Nat) (s : State) : State :=
  match getRing s defId ring, (getDef s defId).bind (fun d => d.slot) with
  | some r, some sl =>
    setRing defId ring (fun r => { r with
        cur := r.cur.map (fun c => { c with tiles := c.tiles.map forgetTile, early := [] })
        nxt := r.nxt.map (fun c => { c with early := [] }) })
      { s with frags := s.frags.filter (fun f => !aheadFrag sl ring r f.2) }
  | _, _ => s

/-- A job starts when its first entry is admitted (R164, R166, R178). -/
def jobBegin (defId ring : Nat) (s : State) : State :=
  match getRing s defId ring with
  | none => s
  | some r =>
    if r.jobOpen then s
    else
      advanceFragEpoch defId ring
        (setRing defId ring (fun r => { r with jobOpen := true, jobStarted := true })
          (setDef s defId (fun d => { d with jobsStarted := d.jobsStarted + 1 })))

/-! ### Deciding completions -/

/-- The status an entry really completes with: `DEADLINE_MISSED` in place of a late `OK` (R180). -/
def lateStatusOf (s : State) (e : List Byte) (st : Nat) : Nat :=
  let d := deadlineOf s e
  if st == cOk && d != 0 && deadlinePassed d (now s) then cDeadlineMissed else st

/-- An admitted entry of a queue or ring completes: its fence is signalled on success and its completion decided. -/
def decideAdmitted (defId cpl source : Nat) (pos : BitVec 32) (e : List Byte) (base log2 : Nat) (st0 result detail : Nat)
    (s : State) : State :=
  let st := lateStatusOf s e st0
  let s1 := if isSuccess st then signalFence defId (eSignalFence e) (eSignalValue e) s else s
  pushPend defId cpl
    { source := source, pos := pos, status := st, opcode := eOp e, result := BitVec.ofNat 64 result, detail := detail
      bellAt := s.bell.ns, entry := some e, base := base, log2 := log2, held := true } s1

/-- An entry that was not admitted completes: it is read again only when its completion can be written (R147). -/
def decideUnadmitted (defId cpl source : Nat) (pos : BitVec 32) (base log2 : Nat) (st detail : Nat) (s : State) : State :=
  pushPend defId cpl
    { source := source, pos := pos, status := st, opcode := 0, result := 0, detail := detail, bellAt := s.bell.ns
      entry := none, base := base, log2 := log2, held := false } s

/-- The executing command of a ring completes; the command admitted behind it moves up (R171). -/
def completeCur (defId ring : Nat) (st result detail : Nat) (s : State) : State :=
  match getRing s defId ring with
  | none => s
  | some r =>
    match r.cur with
    | none => s
    | some c =>
      let fin := lateStatusOf s c.entry st
      let s1 := setRing defId ring (fun r => { r with cur := r.nxt, nxt := none })
        (decideAdmitted defId r.cpl (hCmd ring) c.pos c.entry r.base r.log2 st result detail s)
      closePrior defId ring (jobAdmitted defId ring (eJobEnd c.entry) fin s1)

/-- The head entry of a command ring completes without being admitted. -/
def completeHead (defId ring : Nat) (e : List Byte) (st detail : Nat) (s : State) : State :=
  match getRing s defId ring with
  | none => s
  | some r =>
    let s1 := decideUnadmitted defId r.cpl (hCmd ring) r.head r.base r.log2 st detail s
    jobEntry defId ring (eJobEnd e) st
      (setRing defId ring (fun r => { headJob r with head := r.head + 1, waitSat := false }) s1)

/-- Every entry between head and tail of a command ring completes with a status, unread (R115, R152). -/
def completePosted (defId ring st : Nat) : Nat → State → State
  | 0, s => s
  | fuel + 1, s =>
    match getRing s defId ring with
    | none => s
    | some r =>
      if r.head == r.tail then s
      else
        completePosted defId ring st fuel
          (setRing defId ring (fun r => { r with head := r.head + 1, waitSat := false })
            (decideUnadmitted defId r.cpl (hCmd ring) r.head r.base r.log2 st 0 s))

/-- The same for a queue of a QP; `send` names which. -/
def queueOf (q : Qp) (send : Bool) : Option Queue := if send then q.sq else q.rq
def setQueue (send : Bool) (f : Queue → Queue) (q : Qp) : Qp :=
  if send then { q with sq := q.sq.map f } else { q with rq := q.rq.map f }
def queueHandle (qp : Nat) (send : Bool) : Nat := if send then hSend qp else hRecv qp

def completeQueue (defId qp : Nat) (send : Bool) (st : Nat) : Nat → State → State
  | 0, s => s
  | fuel + 1, s =>
    match (getQp s defId qp).bind (fun q => queueOf q send) with
    | none => s
    | some q =>
      if q.head == q.tail then s
      else
        completeQueue defId qp send st fuel
          (setQp defId qp (setQueue send (fun q => { q with head := q.head + 1 }))
            (decideUnadmitted defId q.cpl (queueHandle qp send) q.head q.base q.log2 st 0 s))

/-! ### The save records (R176) -/

/-- The wait state of the first entry not admitted: its field, whether it is satisfied, and its target. -/
def savedWait (s : State) (d : Def) (r : CmdRing) : Nat × Bool × Word :=
  if r.head == r.tail then (0, false, 0)
  else
    let e := entryAt s (boundFn d) r.base r.log2 r.head
    let w := eWaitFence e
    let f := getFence d (fIndex w)
    (bits w 19 0, r.waitSat || (fMode w == 1 && !f.abandoned && reaches f.value (eWaitValue e)), eWaitValue e)

def Cmd.tile (c : Cmd) (idx : Nat) : Option Tile := c.tiles.find? (fun t => t.idx == idx)

/-- Lowest index of a tile that has not ended. -/
def lowestOpen (c : Cmd) : Nat :=
  match (c.tiles.filter (fun t => t.state != .ended)).map (fun t => t.idx) with
  | [] => 0
  | a :: l => l.foldl min a

/-- Tile `i` of a command has ended. -/
def Cmd.tileEnded (c : Cmd) (i : Nat) : Bool :=
  match c.tile i with
  | some t => t.state == .ended
  | none => false

/-- Bit k is set where tile `cursor + 1 + k` of a command has ended. -/
def endedMap (c : Cmd) (cursor : Nat) : Word :=
  (List.range 64).foldl (fun w k => if c.tileEnded (cursor + 1 + k) then w ||| (1#64 <<< k) else w) 0

/-- The record of one command ring. -/
def saveRecOf (s : State) (d : Def) (ring : Nat) (r : CmdRing) : SaveRec :=
  let w := savedWait s d r
  let cursor := match r.cur with | some c => lowestOpen c | none => 0
  let switched := match r.fall with | some f => f.switched | none => false
  { ring := ring, head := r.head, done := (((admittedEntries r).head?).map (·.1)).getD r.head, waitField := w.1
    satisfied := w.2.1, cursor := cursor, endedMap := (match r.cur with | some c => endedMap c cursor | none => 0)
    waitValue := w.2.2, fragEpoch := r.fragEpoch
    switchPos := (match r.fall with | some f => if f.switched then f.switchPos % 65536 else 0 | none => 0)
    jobStarted := r.prior.getD r.jobStarted, switched := switched, faultSeen := r.cancelRest, vt := r.vt }

/-- Writes the records of some rings into the save area. -/
def putRecords (id : Nat) (l : List Nat) (s : State) : State :=
  match getDef s id with
  | none => s
  | some d => l.foldl (fun s ring => match mfind d.rings ring with
    | some r => setDef s id (fun d' => { d' with
        mem := writeBytes d'.mem (recordOffset d.grant ring) (saveRecOf s d ring r).bytes, saved := insNat ring d'.saved })
    | none => s) s

/-- The records of a quiesced partition follow its rings where a control operation has changed them. -/
def followRecords (before : Def) (id : Nat) (s : State) : State :=
  match getDef s id with
  | some d => if d.state == .quiesced && d.rings != before.rings then
      putRecords id (d.saved.filter (fun ring => (mfind d.rings ring).isSome)) (setDef s id (fun d => { d with
        saved := d.saved.filter (fun ring => (mfind d.rings ring).isSome) })) else s
  | none => s

/-! ### Checks before admission (R141, R145, R181) -/

/-- Opcodes valid on a command ring (R141). -/
def cmdOpOk (op : Nat) : Bool :=
  [0x01, 0x02, 0x03, 0x20, 0x21, 0x30, 0x40, 0x41, 0x48, 0x49, 0x4A, 0x4B, 0x50, 0x60].contains op

/-- Compute opcodes (R181). -/
def isCompute (op : Nat) : Bool := cmdOpOk op && 0x20 ≤ op

/-- A FLAGS byte of a KV command in which only ANY_EPOCH may be set. -/
def anyEpochOnly (e : List Byte) (off : Nat) : Bool := fld e off 1 == 0 || fld e off 1 == 8

/-- The first reserved byte of the body that is not zero. -/
def reservedFault (e : List Byte) : Option Nat :=
  match eOp e with
  | 0x01 => firstNonzero e 16 32
  | 0x02 => firstNonzero e 16 32
  | 0x03 => firstNonzero e 16 32
  | 0x30 => firstNonzero e 26 14
  | 0x48 => if 16 ≤ fld e 34 1 then some 34 else firstNonzero e 36 4
  | 0x49 => if anyEpochOnly e 33 then firstNonzero e 34 6 else some 33
  | 0x4A => if anyEpochOnly e 25 then firstNonzero e 26 14 else some 25
  | 0x4B => if anyEpochOnly e 39 then none else some 39
  | 0x60 => firstNonzero e 38 2
  | _ => firstNonzero e 24 16

/-- The offset of the first body field of LANTERN_RUN that is out of range (R233). -/
def routineFault (e : List Byte) : Option Nat :=
  if fld e 16 8 % 64 != 0 then some 16
  else if fld e 24 8 % 64 != 0 then some 24
  else if fld e 32 2 < 4 || 16384 < fld e 32 2 || fld e 32 2 % 2 != 0 then some 32
  else if fld e 34 2 < 1 || 4096 < fld e 34 2 then some 34
  else if fld e 36 2 % 2 != 0 || fld e 32 2 ≤ fld e 36 2 then some 36
  else none

/-- The first body field that is out of range. -/
def rangeFault (e : List Byte) : Option Nat :=
  let aligned : Option Nat := if fld e 16 8 % 64 == 0 then none else some 16
  match eOp e with
  | 0x01 => none
  | 0x02 => none
  | 0x03 => none
  | 0x30 => aligned.orElse (fun _ => if 1 ≤ fld e 24 2 && fld e 24 2 ≤ 64 then none else some 24)
  | 0x48 => aligned.orElse (fun _ =>
      if 1 ≤ fld e 32 2 && (!bit (fld e 34 1) 0 || fld e 32 2 ≤ 64) then none else some 32)
  | 0x60 => routineFault e
  | _ => aligned

/-- FALLBACK of a compute entry (R181). -/
def fallFault (first : Bool) (e : List Byte) : Option Nat :=
  let v := fld e 40 8
  if isCompute (eOp e) && v != 0 && (!first || v % 32 != 0) then some 40 else none

/-- DETAIL of an entry that R145 refuses: the offset of its first offending byte. -/
def entryFault (s : State) (d : Def) (first : Bool) (e : List Byte) : Option Nat :=
  if !cmdOpOk (eOp e) then some 0
  else lowest [headFault (deadlineOf s e) e d.grant.fences, reservedFault e, rangeFault e, fallFault first e]

/-- Opcodes valid on a send queue (R141). -/
def sendOpOk (op : Nat) : Bool := 0x10 ≤ op && op ≤ 0x13

/-- Bits [63:48] of an 8-byte address field. -/
def highBytes (e : List Byte) (off : Nat) : Option Nat := firstNonzero e (off + 6) 2

/-- The offset of the first byte of a send entry's body that breaks R316. -/
def sendBodyFault (e : List Byte) : Option Nat :=
  let len := if 1 ≤ fld e 32 4 && fld e 32 4 ≤ 2 ^ 30 then none else some 32
  match eOp e with
  | 0x12 => lowest [if fld e 16 6 % 8 != 0 then some 16 else none, if 2 < fld e 22 1 then some 22 else none,
      firstNonzero e 23 1, if fld e 24 6 % 8 != 0 then some 24 else none, firstNonzero e 30 2,
      if fld e 22 1 != 1 then firstNonzero e 40 8 else none]
  | 0x13 => lowest [highBytes e 16, firstNonzero e 24 8, len, firstNonzero e 36 12]
  | _ => lowest [highBytes e 16, highBytes e 24, len, firstNonzero e 36 12]

/-- The same over the whole entry (R145). -/
def sendFault (s : State) (d : Def) (e : List Byte) : Option Nat :=
  if !sendOpOk (eOp e) then some 0 else lowest [headFault (deadlineOf s e) e d.grant.fences, sendBodyFault e]

/-! ### Abandoning a fence (R161) -/

/-- The fence that an entry waits on. -/
def waitsOn (e : List Byte) : Option Nat := if fMode (eWaitFence e) == 1 then some (fIndex (eWaitFence e)) else none

/-- The fence that the first entry not admitted of a command ring waits on: none where R145 refuses the entry, or R165 cancels
it. -/
def ringWaits (s : State) (d : Def) (r0 : CmdRing) : Option Nat :=
  let r := headJob r0
  let e := entryAt s (boundFn d) r.base r.log2 r.head
  if r.state == .active && r.head != r.tail && !r.cancelRest && (entryFault s d (!r.jobOpen) e).isNone then waitsOn e else none

/-- The same for the send queue of a QP. -/
def sendWaits (s : State) (d : Def) (q : Qp) : Option Nat :=
  match q.sq with
  | some sq =>
    let e := entryAt s (boundFn d) sq.base sq.log2 sq.head
    if sq.state == .active && sq.head != sq.tail && q.state == .ready && (sendFault s d e).isNone then waitsOn e else none
  | none => none

/-- The command rings and send queues whose first entry not admitted waits on a fence: ring handles. -/
def waiters (s : State) (defId i : Nat) : List Nat :=
  match getDef s defId with
  | none => []
  | some d =>
    ((d.rings.filter (fun r => ringWaits s d r.2 == some i)).map (fun r => hCmd r.1)) ++
    ((d.qps.filter (fun q => sendWaits s d q.2 == some i)).map (fun q => hSend q.1))

/-- What an abandonment has done: the fences to abandon next, the entries completed, and the state. -/
structure Abandoned where
  next : List Nat
  count : Nat
  s : State

/-- The entry of one waiter completes `ABANDONED`; its own signal fence is then to be abandoned. -/
def Abandoned.entry (a : Abandoned) (e : List Byte) (s : State) : Abandoned :=
  { next := a.next ++ (if fMode (eSignalFence e) == 0 then [] else [fIndex (eSignalFence e)]), count := a.count + 1, s := s }

/-- The first entry of a ring or queue completes while it waits on an abandoned fence, and then the one behind it; each was
fetched for it (R98). `fuel` bounds the entries posted. -/
def abandonRing (defId h : Nat) : Nat → Abandoned → Abandoned
  | 0, a => a
  | fuel + 1, a =>
    match getDef a.s defId with
    | none => a
    | some d =>
      if h < 0x10000 then
        match mfind d.rings h with
        | none => a
        | some r =>
          match ringWaits a.s d r with
          | none => a
          | some i =>
            if !(getFence d i).abandoned then a
            else
              let e := entryAt a.s (boundFn d) r.base r.log2 r.head
              abandonRing defId h fuel (a.entry e (chargeBound d 64 false (completeHead defId h e cAbandoned i a.s)))
      else
        match mfind d.qps (h - 0x20000) with
        | none => a
        | some qp =>
          match qp.sq, sendWaits a.s d qp with
          | some q, some i =>
            if !(getFence d i).abandoned then a
            else
              let e := entryAt a.s (boundFn d) q.base q.log2 q.head
              abandonRing defId h fuel (a.entry e (chargeBound d 64 false
                (setQp defId (h - 0x20000) (setQueue true (fun q => { q with head := q.head + 1 }))
                  (decideUnadmitted defId q.cpl h q.head q.base q.log2 cAbandoned i a.s))))
          | _, _ => a

/-- Entries posted on a ring or queue. -/
def postedOn (d : Def) (h : Nat) : Nat :=
  if h < 0x10000 then (match mfind d.rings h with | some r => posted r.head r.tail | none => 0)
  else match (mfind d.qps (h - 0x20000)).bind (fun q => q.sq) with
    | some q => posted q.head q.tail
    | none => 0

/-- Abandons fences and, in turn, those their waiters would have signalled. The count is of entries completed. -/
def abandonAll (defId : Nat) : Nat → List Nat → Nat → State → Nat × State
  | 0, _, n, s => (n, s)
  | _, [], n, s => (n, s)
  | fuel + 1, i :: l, n, s =>
    match getDef s defId with
    | none => (n, s)
    | some d =>
      let f := getFence d i
      if f.abandoned then abandonAll defId fuel l n s
      else
        let s1 := setFence defId i { f with abandoned := true } s
        let a := (waiters s1 defId i).foldl (fun a h => abandonRing defId h (postedOn d h) a) { next := [], count := n, s := s1 }
        abandonAll defId fuel (l ++ a.next) a.count a.s

/-- Fuel for abandoning: every fence is abandoned at most once, and every entry that waits names one fence. -/
def abandonFuel (d : Def) : Nat :=
  2 * (d.grant.fences + (d.rings.map (fun r => posted r.2.head r.2.tail)).sum + (d.qps.map (fun q =>
    match q.2.sq with | some q => posted q.head q.tail | none => 0)).sum) + 2

end Sys2Proof.Machine
end

