-- ==== Sys2Proof/Machine/Descs.lean ====
section
/-! DEFINITION. The descriptors of commands as they lie in memory, and the memory that a command leaves undefined when it
ends (R213 to R217, R240, R266, R295, R336, R348; R219, R262, R346). -/

namespace Sys2Proof.Machine

/-! ### Undefined contents (log 4) -/

/-- `n` bytes that the manual leaves undefined, from the free values (log 4). -/
def freeBytes (s : State) (n : Nat) : List Byte :=
  ((List.range ((n + 7) / 8)).flatMap (fun i => leBytes 8 (Config.free (s.freeCtr + i)).toNat)).take n

def useFree (n : Nat) (s : State) : State := { s with freeCtr := s.freeCtr + (n + 7) / 8 }

/-- Pieces of a range take undefined bytes. Poison markers stay as they are. -/
def scramblePieces (id : Nat) : List (Nat × Nat) → State → State
  | [], s => s
  | (va, n) :: l, s =>
    match getDef s id with
    | none => s
    | some d =>
      let bs := freeBytes s n
      let s1 := match translate s d va true with
        | some (.mem off) => markDirty id off (setDef s id (fun d => { d with mem := writeBytes d.mem off bs }))
        | some (.host a) => hostWrite s (boundFn d) a bs
        | none => s
      scramblePieces id l (useFree n s1)

/-- Ranges whose contents the manual leaves undefined. -/
def scramble (id : Nat) (l : List (Nat × Nat)) (s : State) : State :=
  l.foldl (fun s r => scramblePieces id (pieceList r.1 r.2) s) s

/-! ### GEMM (R213 to R219) -/

structure GemmDesc where
  a : Nat
  b : Nat
  c : Nat
  d : Nat
  aScale : Nat
  bScale : Nat
  work : Nat
  m : Nat
  n : Nat
  k : Nat
  lda : Nat
  ldb : Nat
  ldc : Nat
  ldd : Nat
  alpha : F32
  beta : F32
  aFmt : Nat
  bFmt : Nat
  cFmt : Nat
  dFmt : Nat
  aT : Bool
  bT : Bool
  split : Nat
  deriving DecidableEq, Repr

def parseGemm (p e : List Byte) : GemmDesc :=
  { a := fld p 0 8, b := fld p 8 8, c := fld p 16 8, d := fld p 24 8, aScale := fld p 32 8, bScale := fld p 40 8
    work := fld p 48 8, m := fld p 56 4, n := fld p 60 4, k := fld p 64 4, lda := fld p 68 4, ldb := fld p 72 4
    ldc := fld p 76 4, ldd := fld p 80 4, alpha := BitVec.ofNat 32 (fld p 84 4), beta := BitVec.ofNat 32 (fld p 88 4)
    aFmt := fld p 92 1, bFmt := fld p 93 1, cFmt := fld p 94 1, dFmt := fld p 95 1, aT := bit (fld p 96 1) 0
    bT := bit (fld p 96 1) 1, split := fld e 24 2 }

def GemmDesc.workExt (g : GemmDesc) : Nat × Nat := (g.work, if g.split == 1 then 0 else g.m * g.n * g.split * 4)

/-! ### ATTEND, MERGE and BATCH_STEP (R206, R240, R241, R266, R295) -/

/-- Record size for a head dimension (R206). -/
def recSize (dim : Nat) (bf16 : Bool) : Nat := (32 + dim * (if bf16 then 2 else 4) + 63) / 64 * 64

/-- What ATTEND and the attend phase of BATCH_STEP share. `metas` gives each head's row records. -/
structure AttDesc where
  q : Nat
  metas : List Nat
  out : Nat
  norm : Nat
  scale : F32
  cap : F32
  window : Nat
  limitUs : Nat
  dim : Nat
  heads : Nat
  rows : Nat
  qFmt : Nat
  normFmt : Nat
  causal : Bool
  oBf16 : Bool
  accum : Bool
  deriving DecidableEq, Repr

def parseAttend (p : List Byte) : AttDesc :=
  { q := fld p 0 8, metas := List.replicate (fld p 58 2) (fld p 16 8), out := fld p 24 8, norm := fld p 32 8
    scale := BitVec.ofNat 32 (fld p 40 4), cap := BitVec.ofNat 32 (fld p 44 4), window := fld p 48 4
    limitUs := if fld p 52 4 == 0 then 10000 else fld p 52 4, dim := fld p 56 2, heads := fld p 58 2, rows := fld p 60 1
    qFmt := fld p 61 1, normFmt := fld p 62 1, causal := bit (fld p 63 1) 0, oBf16 := bit (fld p 63 1) 1
    accum := bit (fld p 63 1) 2 }

structure MergeDesc where
  list : Nat
  out : Nat
  norm : Nat
  records : Nat
  count : Nat
  normFmt : Nat
  dim : Nat
  inBf16 : Bool
  outBf16 : Bool
  deriving DecidableEq, Repr

def parseMerge (p : List Byte) : MergeDesc :=
  { list := fld p 0 8, out := fld p 8 8, norm := fld p 16 8, records := fld p 24 4, count := fld p 28 1
    normFmt := fld p 29 1, dim := fld p 30 2, inBf16 := bit (fld p 32 1) 0, outBf16 := bit (fld p 32 1) 1 }

def MergeDesc.inSize (g : MergeDesc) : Nat := recSize g.dim g.inBf16
def MergeDesc.outSize (g : MergeDesc) : Nat := recSize g.dim g.outBf16
def MergeDesc.normSize (g : MergeDesc) : Nat := g.dim * (fmtBits g.normFmt / 8)

/-- The attend phase, with each lane as a head (R298). -/
def batchAtt (p : List Byte) (metas : List Nat) : AttDesc :=
  { q := fld p 8 8, metas := metas, out := fld p 16 8, norm := fld p 24 8, scale := BitVec.ofNat 32 (fld p 48 4)
    cap := BitVec.ofNat 32 (fld p 52 4), window := fld p 56 4, limitUs := if fld p 60 4 == 0 then 10000 else fld p 60 4
    dim := fld p 64 2, heads := fld p 66 2, rows := fld p 68 1, qFmt := fld p 69 1, normFmt := fld p 70 1
    causal := bit (fld p 71 1) 0, oBf16 := bit (fld p 71 1) 1, accum := false }

/-! ### REDUCE and CONVERT (R336, R337, R348) -/

structure XInput where
  addr : Nat
  scale : Nat
  fmt : Nat
  arrival : Bool
  fence : Nat
  base : Nat
  deriving DecidableEq, Repr

/-- What REDUCE and CONVERT share. `page` is CONVERT's KV_PAGE mode; `mode` is REDUCE's operator. -/
structure Xform where
  conv : Bool
  page : Bool
  dim : Nat
  inputs : List XInput
  out : Nat
  outScale : Nat
  outFmt : Nat
  units : Nat
  chunk : Nat
  mode : Nat
  ordered : Bool
  scaled : Bool
  scale : F32
  limitUs : Nat
  progFence : Nat
  progEn : Bool
  progBase : Nat
  deriving DecidableEq, Repr

def limitOf (v : Nat) : Nat := if v == 0 then 10000 else v

def inputOf (p : List Byte) : XInput :=
  { addr := fld p 0 8, scale := fld p 8 8, fmt := fld p 28 1, arrival := bit (fld p 24 4) 18, fence := bits (fld p 24 4) 17 0
    base := fld p 16 8 }

/-- The descriptor of 64 B, followed by its input records as they were read at admission. -/
def reduceRecs (p : List Byte) : List (List Byte) := (List.range (fld p 40 1)).map (fun i => (p.drop (64 + i * 32)).take 32)

def parseReduce (p : List Byte) : Xform :=
  { conv := false, page := false, dim := 0, inputs := (reduceRecs p).map inputOf, out := fld p 8 8, outScale := fld p 16 8
    outFmt := fld p 42 1, units := fld p 32 4, chunk := fld p 36 4, mode := fld p 41 1, ordered := bit (fld p 43 1) 0
    scaled := bit (fld p 43 1) 1, scale := BitVec.ofNat 32 (fld p 44 4), limitUs := limitOf (fld p 52 4)
    progFence := bits (fld p 48 4) 17 0, progEn := bit (fld p 48 4) 18, progBase := fld p 24 8 }

def parseConvert (p : List Byte) : Xform :=
  { conv := true, page := fld p 58 1 == 1, dim := fld p 60 2
    inputs := [{ addr := fld p 0 8, scale := fld p 16 8, fmt := fld p 56 1, arrival := bit (fld p 64 4) 18
                 fence := bits (fld p 64 4) 17 0, base := fld p 32 8 }]
    out := fld p 8 8, outScale := fld p 24 8, outFmt := fld p 57 1, units := fld p 48 4, chunk := fld p 52 4, mode := 0
    ordered := true, scaled := false, scale := fZero, limitUs := limitOf (fld p 72 4)
    progFence := bits (fld p 68 4) 17 0, progEn := bit (fld p 68 4) 18, progBase := fld p 40 8 }

def parseXform (e p : List Byte) : Xform := if eOp e == 0x20 then parseReduce p else parseConvert p

/-- Range of `[first, first + n)` elements of a vector, and of its scales. -/
def vecRanges (fmt base scale first n : Nat) : List (Nat × Nat) :=
  (base + first * fmtBits fmt / 8, packedBytes fmt n) :: (if isMx fmt then [(scale + first / 32, n / 32)] else [])

/-- Bytes of a dense page (R349). -/
def denseBytes (fmt dim : Nat) : Nat := 2 * kvTokens dim * dim * (fmtBits fmt / 8)

def pageRange (fmt base dim u : Nat) : Nat × Nat :=
  if fmt == 0x10 then (base + u * 65536, 65536) else (base + u * denseBytes fmt dim, denseBytes fmt dim)

def Xform.inRanges (x : Xform) (i : XInput) (first n : Nat) : List (Nat × Nat) :=
  if x.page then (List.range n).map (fun k => pageRange i.fmt i.addr x.dim (first + k))
  else vecRanges i.fmt i.addr i.scale first n

def Xform.outRanges (x : Xform) (first n : Nat) : List (Nat × Nat) :=
  if x.page then (List.range n).map (fun k => pageRange x.outFmt x.out x.dim (first + k))
  else vecRanges x.outFmt x.out x.outScale first n

/-- Output that a failure leaves undefined (R346). -/
def Xform.lost (x : Xform) (c : Cmd) : List (Nat × Nat) :=
  let keep := if x.progEn then c.progress * x.chunk else 0
  if keep < x.units then x.outRanges keep (x.units - keep) else []

/-! ### What a command leaves undefined (R219, R262, R346) -/

/-- Memory that the completion of a command leaves undefined: WORK of a split GEMM (R219). -/
def usedUp (c : Cmd) : List (Nat × Nat) :=
  if eOp c.entry == 0x30 then [(parseGemm c.desc c.entry).workExt] else []

/-- Memory that a failure of an executing command leaves undefined (R262, R346). -/
def lostRanges (c : Cmd) : List (Nat × Nat) :=
  let att (a : AttDesc) : List (Nat × Nat) :=
    [(a.out, a.heads * a.rows * recSize a.dim false),
     (a.norm, if a.norm == 0 then 0 else a.heads * a.rows * (a.dim * (fmtBits a.normFmt / 8)))]
  if c.tiles.isEmpty then []
  else match eOp c.entry with
    | 0x30 => usedUp c
    | 0x40 => att (parseAttend c.desc)
    | 0x50 => att (batchAtt c.desc [])
    | 0x41 =>
      let g := parseMerge c.desc
      [(g.out, g.records * g.outSize), (g.norm, if g.norm == 0 then 0 else g.records * g.normSize)]
    | 0x20 => (parseXform c.entry c.desc).lost c
    | 0x21 => (parseXform c.entry c.desc).lost c
    | _ => []

/-- What the end of a command leaves in memory besides its results: ranges that are undefined, and pages on a carry list that
goes no further, which no chain names: they are written to RELEASE (R282, log 77). -/
def leaveMemory (id : Nat) (c : Cmd) (lost : List (Nat × Nat)) (s : State) : State :=
  let s1 := scramble id lost s
  if c.carry.isEmpty then s1 else writeVa id (fld c.desc 40 8) (c.carry.flatMap (leBytes 8)) s1

end Sys2Proof.Machine
end

