-- ==== Sys2Proof/Machine/Qp.lean ====
section
/-! DEFINITION. Queue pairs: the connection record, frames on the wire, congestion state at its start, and the error state
(R303 to R330). -/

namespace Sys2Proof.Machine

/-! ### The connection record (R313) -/

def cnIpVer (c : List Byte) : Nat := fld c 0 1
def cnPort (c : List Byte) : Nat := fld c 1 1
def cnPaths (c : List Byte) : Nat := fld c 2 1
def cnMtu (c : List Byte) : Nat := fld c 3 1
def cnVlan (c : List Byte) : Nat := fld c 4 2
def cnSport (c : List Byte) : Nat := fld c 6 2
def cnDscp (c : List Byte) : Nat := fld c 20 1
def cnAccess (c : List Byte) : Nat := fld c 21 1
def cnLinkKey (c : List Byte) : Nat := fld c 22 2
def cnPeerQpn (c : List Byte) : Nat := fld c 56 3
def cnSrcNode (c : List Byte) : Nat := fld c 60 2
def cnWinBase (c : List Byte) : Nat := fld c 72 8
def cnWinLen (c : List Byte) : Nat := fld c 80 8

/-- The full payload P (R306). -/
def fullPayload (c : List Byte) : Nat := if cnMtu c == 1 then 9088 else 3968
/-- Packets of a burst (R310). -/
def burstLimit (c : List Byte) : Nat := if cnMtu c == 1 then 7 else 16
def tTarget (c : List Byte) : Nat := if fld c 88 4 == 0 then 6000 else fld c 88 4
def aiBytes (c : List Byte) : Nat := if fld c 92 2 == 0 then fullPayload c else fld c 92 2
def wInit (c : List Byte) : Nat := if fld c 94 2 == 0 then 32 else fld c 94 2
def wMax (c : List Byte) : Nat := if fld c 96 2 == 0 then 1024 else fld c 96 2

/-- The record obeys R313 and R329. -/
def connOk (g : Grant) (keys : NMap (Nat × List Byte)) (c : List Byte) : Bool :=
  let p := fullPayload c
  (cnIpVer c == 4 || cnIpVer c == 6) && cnPort c < 8 && 1 ≤ cnPaths c && cnPaths c ≤ 8 && cnMtu c ≤ 1 &&
  49152 ≤ cnSport c && cnSport c ≤ 65528 && cnSport c % 8 == 0 && cnDscp c < 64 && cnAccess c < 16 &&
  cnLinkKey c < g.linkKeys && (mfind keys (cnLinkKey c)).isSome &&
  (cnIpVer c == 6 || (zeros c 24 12 && zeros c 40 12)) && zeros c 59 1 && fld c 62 2 ≤ 1000 && zeros c 98 30 &&
  (fld c 88 4 == 0 || (1000 ≤ fld c 88 4 && fld c 88 4 ≤ 6000)) &&
  (fld c 92 2 == 0 || (p ≤ 8 * fld c 92 2 && fld c 92 2 ≤ p)) && fld c 94 2 ≤ 32 && fld c 96 2 ≤ 1024

/-- The connection record's fields that do not take 8 path entries. -/
def Cong.start (c : List Byte) (t : Nat) : Cong :=
  { w := wInit c * fullPayload c * 65536, alpha := 0, hold := t, qd := List.replicate 8 0
    base := List.replicate 8 [], minrtt := List.replicate 8 [], suspended := List.replicate 8 0, lastPath := 0
    srtt := none, rttvar := 0, rto := 20000, timer := none, window := [] }

def AckDue.zero : AckDue :=
  { pkts := 0, ce := 0, psn := 0, owd := none, echo := 0, path := 0, oldest := none, lastDup := none }

def QpCounts.zero : QpCounts :=
  { malformed := 0, crcFail := 0, authFail := 0, mismatch := 0, duplicate := 0, outOfWindow := 0, retransmitted := 0 }

/-- A QP after PART_DEFINE (R315). -/
def Qp.fresh (phys : Nat) : Qp :=
  { phys := phys, conn := [], state := .reset, reason := 0, sq := none, rq := none, sndNxt := 0, sndUna := 0
    rcvNxt := 0, got := [], counts := QpCounts.zero, ctlSent := 0, ctlSeen := 0, msgs := [], sent := []
    cong := Cong.start [] 0, ack := AckDue.zero, inbound := [], atomics := [], sendSeq := 0, recvs := [], recvNext := 0
    rnrs := [], rnrFrom := none, lastAuth := none }

/-! ### Frames (R303, R304, R307, R308) -/

/-- The 16-bit one's complement sum of bytes, for the IPv4 and UDP checksums. -/
def onesSum (l : List Byte) : Nat :=
  let t := ((pieces 2 (l.length + 1) l).map (fun p => beNat (padTo 2 p))).sum
  let f := t % 65536 + t / 65536
  f % 65536 + f / 65536

def onesNeg (v : Nat) : Nat := 65535 - v % 65536

/-- Ethernet, IP and UDP headers of a frame whose UDP payload is given (R303). -/
def lowerLayers (c : List Byte) (path : Nat) (load : List Byte) : List Byte :=
  let len := load.length + 8
  let v4 := cnIpVer c == 4
  let src := if v4 then (c.drop 36).take 4 else (c.drop 24).take 16
  let dst := if v4 then (c.drop 52).take 4 else (c.drop 40).take 16
  let udp0 := beBytes 2 (cnSport c + path) ++ beBytes 2 51804 ++ beBytes 2 len
  let pseudo := src ++ dst ++ beBytes 4 len ++ beBytes 4 17
  let sum := onesNeg (onesSum (pseudo ++ udp0 ++ [0, 0] ++ load))
  let udp := udp0 ++ beBytes 2 (if sum == 0 then 65535 else sum)
  let tos := cnDscp c * 4 + 2
  let ip :=
    if v4 then
      let h (ck : Nat) := [0x45] ++ beBytes 1 tos ++ beBytes 2 (len + 20) ++ [0, 0, 0x40, 0, 64, 17] ++ beBytes 2 ck ++
        src ++ dst
      h (onesNeg (onesSum (h 0)))
    else beBytes 4 (6 * 2 ^ 28 + tos * 2 ^ 20 + (cnSport c + path)) ++ beBytes 2 len ++ [17, 64] ++ src ++ dst
  let tag := if 2 ^ 15 ≤ cnVlan c then [0x81, 0x00] ++ beBytes 2 (bits (cnVlan c) 14 12 * 2 ^ 13 + cnVlan c % 4096) else []
  (c.drop 14).take 6 ++ (c.drop 8).take 6 ++ tag ++ (if v4 then [0x08, 0x00] else [0x86, 0xDD]) ++ ip ++ udp

/-- The Maelic header (R304). -/
def maelicHeader (s : State) (q : Qp) (keyId op segOrd psn path try_ sendSeq midField pktIdx msgLen : Nat) (ackReq : Bool) :
    List Byte :=
  beBytes 1 (0x10 + bitAt (s.bell.state == .locked) 3 + bitAt ackReq 2) ++ beBytes 1 op ++ beBytes 2 segOrd ++
  beBytes 4 (psn % 2 ^ 32) ++ beBytes 3 (cnPeerQpn q.conn) ++ beBytes 1 (path % 8 + try_ % 8 * 8) ++ beBytes 3 q.phys ++
  [0] ++ beBytes 2 (cnSrcNode q.conn) ++ beBytes 2 keyId ++ beBytes 4 (sendSeq % 2 ^ 32) ++ beBytes 8 midField ++
  beBytes 4 pktIdx ++ beBytes 4 msgLen ++ beBytes 8 (now s)

/-- The 96-bit nonce (R307). -/
def maelicNonce (srcNode srcQpn : Nat) (control : Bool) (try_ xpsn : Nat) : List Byte :=
  beBytes 12 (srcNode * 2 ^ 80 + srcQpn * 2 ^ 56 + bitAt control 55 + try_ % 8 * 2 ^ 52 + xpsn % 2 ^ 48)

/-- The check value of a packet (R308): the folded seed names the destination QP and the effective PSN. -/
def maelicCheck (dstQpn epsn : Nat) (l : List Byte) : List Byte :=
  beBytes 4 (crc32c (dstQpn * 2 ^ 32 + epsn % 2 ^ 32) l).toNat

/-- The link key of a QP: its identifier and the key (R307, R411). -/
def linkKeyOf (d : Def) (q : Qp) : Nat × List Byte := (mfind d.linkKeys (cnLinkKey q.conn)).getD (0, [])

/-- Tag and check value after a packet's protected part. -/
def sealed (q : Qp) (epsn : Nat) (hdr ct tag : List Byte) : List Byte :=
  ct ++ tag ++ maelicCheck (cnPeerQpn q.conn) epsn (hdr ++ ct ++ tag)

/-- One data packet: its header and its protected part (R306, R307). -/
def dataPacket (s : State) (d : Def) (q : Qp) (op segOrd psn xpsn path try_ sendSeq midField pktIdx msgLen : Nat)
    (ackReq : Bool) (payload : List Byte) : List Byte × List Byte :=
  let k := linkKeyOf d q
  let hdr := maelicHeader s q k.1 op segOrd psn path try_ sendSeq midField pktIdx msgLen ackReq
  let r := gcmSeal k.2 (maelicNonce (cnSrcNode q.conn) q.phys false try_ xpsn) hdr payload
  (hdr, sealed q xpsn hdr r.1 r.2)

/-- What a frame, or each segment of a large send, costs: its length with the FCS and the 20 bytes of overhead (R52, R98). -/
def frameCost (f : HeldFrame) : Nat :=
  let n := match f.lso with | some x => (f.body.length + x.segLen - 1) / x.segLen | none => 1
  n * (f.lower.length + f.hdr.length + 4 + 20) + f.body.length

/-- The check-value context of a transmit lane after a frame: that of the last segment of a large send (R310, R352, R357). -/
def txContext (f : HeldFrame) : CrcCtx :=
  let n := match f.lso with | some x => (f.body.length + x.segLen - 1) / x.segLen | none => 1
  let last := match f.lso with | some x => f.body.drop ((n - 1) * x.segLen) | none => f.body
  let epsn := (fldBe f.hdr 4 4 + (n - 1)) % 2 ^ 32
  let hdr := if f.lso.isSome then f.hdr.take 2 ++ beBytes 2 (n - 1) ++ f.hdr.drop 4 else f.hdr
  (CrcCtx.init 0 true (BitVec.ofNat 64 (fldBe f.hdr 8 3 * 2 ^ 32 + epsn))).feed (hdr ++ last.take (last.length - 4))

/-- Bytes of CONTROL frames that a port's owner has sent in the present carillon slot. -/
def netControl (s : State) (port : Nat) : Nat :=
  if s.fabric.slotNo == now s / 128 then (mfind s.fabric.netCtl port).getD 0 else 0

/-- The egress entry of the present carillon slot carries a frame: an `OPEN` one, or one that the frame's slot owns, of which
CONTROL frames take at most 1/16 (R83, R90, R99). -/
def egressMay (f : HeldFrame) (s : State) : Bool :=
  ownerNow s (3 + f.port) == ownerOpen ||
  (ownsNow s f.slot (3 + f.port) && (f.cls != 3 || netControl s f.port + frameCost f ≤ 800))

/-- A frame goes out, charged to its slot, and to what its port has carried in this carillon slot. -/
def offerFrame (f : HeldFrame) (s : State) : State :=
  charge f.slot (3 + f.port) (frameCost f)
    (emit { s with
        fabric := { s.fabric with
          netUsed := mput s.fabric.netUsed f.port ((mfind s.fabric.netUsed f.port).getD 0 + frameCost f)
          netCtl := if f.cls == 3 && ownerNow s (3 + f.port) == f.slot then
              mput s.fabric.netCtl f.port (netControl s f.port + frameCost f) else s.fabric.netCtl }
        xpt := { s.xpt with crc := setNth s.xpt.crc (2 * f.port) (fun _ => txContext f) } }
      (.frame f.port f.slot f.cls f.lso f.lower f.hdr f.body))

/-- The READY level of a queue of a network port's scheduler: 64 subscribers of 4 classes (R43, R51). -/
def queueReady (s : State) (port slot cls : Nat) : Bool := (nth s.xpt.ready port 0).getLsbD (slot * 4 + cls)

/-- A frame cannot be offered now: its subscriber is held back by a switchover, the carillon slot does not carry it, its queue's
READY is low, or a frame of its queue waits before it (R51, R83, R94). -/
def mustHold (f : HeldFrame) (s : State) : Bool :=
  s.car.hold.contains (f.port, f.slot) || !egressMay f s || !queueReady s f.port f.slot f.cls ||
  s.car.heldFrames.any (fun x => x.port == f.port && x.slot == f.slot && x.cls == f.cls)

/-- Offers a frame to its port (R43), or keeps it until it may be offered. Nothing is sent in the safe state or while a slot
is scrubbed (R123, R480). -/
def sendHeld (f : HeldFrame) (s : State) : State :=
  if s.flt.safe || (match inSlot s f.slot with | some (_, d) => d.state == .scrubbing | none => false) then s
  else if mustHold f s then { s with car := { s.car with heldFrames := s.car.heldFrames ++ [f] } }
  else offerFrame f s

/-- Frames kept are offered in order, as far as they may be. -/
def releaseHeld (s : State) : State :=
  s.car.heldFrames.foldl (fun s f => sendHeld f s) { s with car := { s.car with heldFrames := [] } }

/-- One frame of a QP (R43, R52). -/
def sendFrame (slot : Nat) (q : Qp) (cls path : Nat) (hdr load : List Byte) (s : State) : State :=
  sendHeld { port := cnPort q.conn, slot := slot, cls := cls, lso := none, lower := lowerLayers q.conn path (hdr ++ load)
             hdr := hdr, body := load } s

/-- Sends a control packet, as CONTROL class (R307, R330). -/
def sendControl (defId qp op path : Nat) (body : List Byte) (s : State) : State :=
  match (getDef s defId).bind (fun d => (mfind d.qps qp).map (fun q => (d, q))) with
  | none => s
  | some (d, q) =>
    match d.slot with
    | none => s
    | some sl =>
      let n := q.ctlSent + 1
      let k := linkKeyOf d q
      let hdr := maelicHeader s q k.1 op 0 n path 0 0 0 0 body.length false
      let r := gcmSeal k.2 (maelicNonce (cnSrcNode q.conn) q.phys true 0 n) (hdr ++ body) []
      sendFrame sl q 3 path hdr (body ++ r.2 ++ maelicCheck (cnPeerQpn q.conn) n (hdr ++ body ++ r.2))
        (setQp defId qp (fun q => { q with ctlSent := n }) s)

/-- An ABORT with a reason (R305, R315). -/
def sendAbort (defId qp reason : Nat) (s : State) : State :=
  sendControl defId qp 0x31 ((getQp s defId qp).map (fun q => q.cong.lastPath) |>.getD 0)
    (leBytes 1 reason ++ List.replicate 7 0) s

/-! ### The error state (R315) -/

/-- Admitted send entries complete with a status, in ring order; one that has failed keeps its own. -/
def failMsgs (defId qp st : Nat) : List Msg → State → State
  | [], s => s
  | m :: l, s =>
    match m.pos, (getQp s defId qp).bind (fun q => q.sq) with
    | some pos, some sq =>
      let f := m.failed.getD { status := st, result := 0, detail := 0 }
      failMsgs defId qp st l
        (decideAdmitted defId sq.cpl (hSend qp) pos m.entry sq.base sq.log2 f.status f.result.toNat f.detail s)
    | _, _ => failMsgs defId qp st l s

/-- Admitted receive entries complete with a status; one whose end is known keeps its own. -/
def failRecvs (defId qp st : Nat) : List Recv → State → State
  | [], s => s
  | m :: l, s =>
    match (getQp s defId qp).bind (fun q => q.rq) with
    | some rq =>
      let f := m.fin.getD { status := st, result := 0, detail := 0 }
      failRecvs defId qp st l
        (decideAdmitted defId rq.cpl (hRecv qp) m.pos m.entry rq.base rq.log2 f.status f.result.toNat f.detail s)
    | none => failRecvs defId qp st l s

/-- Entries posted on a QP's queues and not completed. -/
def queueLeft (q : Option Queue) : Nat :=
  match q with
  | none => 0
  | some q => posted q.head q.tail

/-- The message with packets not yet released, first in PSN order. -/
def unreleased (q : Qp) : Option Msg := q.msgs.find? (fun m => m.released < m.pkts)

/-- The extended PSN of the next packet to send (R314). -/
def nextToSend (q : Qp) : Nat :=
  match unreleased q with
  | some m => m.firstPsn + m.released
  | none => q.sndNxt

/-- The engine time of a served fragment's tile: dome time, and virtual time at weight 128 (R172, R258). -/
def chargeServing (id : Nat) (t : Tile) (s : State) : State :=
  match (getDef s id).bind (fun d => d.slot) with
  | some sl => charge sl (11 + t.dome) (t.clocks * 1000 / s.power.clock / 8)
      (setDef s id (fun d => { d with servedVt := d.servedVt + BitVec.ofNat 64 (t.clocks * 2) }))
  | none => s

/-- What a definition serves on a QP goes; a tile of it that runs has taken its engine, and its clocks are charged (R258; log
84). -/
def dropServing (id qp : Nat) (s : State) : State :=
  match getDef s id with
  | none => s
  | some d =>
    let gone := d.serving.filter (fun x => x.qp == qp)
    (gone.filterMap (fun x => x.tile)).foldl (fun s t => chargeServing id t s)
      (setDef s id (fun d => { d with serving := d.serving.filter (fun x => x.qp != qp) }))

/-- Every posted entry of both queues completes with a status. -/
def flushEntries (defId qp st : Nat) (s : State) : State :=
  match getQp s defId qp with
  | none => s
  | some q =>
    let s1 := failRecvs defId qp st q.recvs (failMsgs defId qp st (q.msgs.filter (fun m => m.pos.isSome)) s)
    let s2 := dropServing defId qp (setQp defId qp (fun q => { q with msgs := [], recvs := [], sent := [], inbound := [] }) s1)
    completeQueue defId qp false st (queueLeft q.rq) (completeQueue defId qp true st (queueLeft q.sq) s2)

/-- A QP enters `ERROR` for a reason; the other entries complete with a status. PSNs of packets that were not sent are given
back (R314). For PART_RESET and a `CONTAINED` fault the ABORT goes from every state that has a connection. Its fragments are
left to REMOTE_LIMIT_EXPIRY and the failing of their commands (R260). -/
def qpError (defId qp reason st : Nat) (abort : Bool) (s : State) : State :=
  match getQp s defId qp with
  | none => s
  | some q =>
    let again := reason == 0x05 && q.state == .error
    let s1 := if abort && (q.state == .ready || again) then sendAbort defId qp reason s else s
    flushEntries defId qp st
      (setQp defId qp (fun q => { q with state := .error, reason := reason, got := [], ack := AckDue.zero, sndNxt := nextToSend q
                                         cong := { q.cong with timer := none }, rnrs := [], rnrFrom := none }) s1)

/-! ### Messages formed (R306, R322) and the replies to fragments (R257, R258) -/

/-- The sender admits no further message within 1,024 of the end of its extended PSNs. -/
def psnsLeft (q : Qp) : Bool := q.sndNxt + 1024 < 2 ^ 48

/-- Packets of a message (R306). -/
def packetsOf (c : List Byte) (len : Nat) : Nat := (len + fullPayload c - 1) / fullPayload c

/-- A message is formed: it takes the next PSNs (R306). None is formed near the end of the PSNs (R322). -/
def formMsg (id qi op : Nat) (pos : Option (BitVec 32)) (entry data : List Byte) (len pkts va reqPsn : Nat)
    (failed : Option Fail) (s : State) : State :=
  setQp id qi (fun q =>
    if psnsLeft q then
      { q with
        sndNxt := q.sndNxt + pkts
        sendSeq := if op == 0x13 then q.sendSeq + 1 else q.sendSeq
        msgs := q.msgs ++ [{ op := op, pos := pos, entry := entry, firstPsn := q.sndNxt, pkts := pkts, len := len, data := data
                             remoteVa := va, reqPsn := reqPsn, sendSeq := if op == 0x13 then q.sendSeq else 0, released := 0
                             answered := false, result := 0, failed := failed }] }
    else q) s

/-- A message of Amimet's own: a response or a fragment. -/
def formOwn (id qi op : Nat) (entry data : List Byte) (reqPsn : Nat) (s : State) : State :=
  match getQp s id qi with
  | some q => formMsg id qi op none entry data data.length (packetsOf q.conn data.length) 0 reqPsn none s
  | none => s

/-- A reply: the 32-byte header, then the records (R257). -/
def fragReplyBytes (s : State) (b : List Byte) (status : Nat) (recs : List Byte) : List Byte :=
  b.take 10 ++ beBytes 1 status ++ List.replicate 5 0 ++ beBytes 8 (now s) ++ List.replicate 8 0 ++ recs

/-- The answer to a fragment that was being served, which is served no longer. -/
def answerServing (id status : Nat) (x : Serving) (recs : List Byte) (s : State) : State :=
  formOwn id x.qp 0x24 [] (fragReplyBytes s x.body status recs) x.firstPsn (dropServing id x.qp s)

/-- Fragments being served are dropped and answered RETRY. -/
def retryServing (id : Nat) (which : Serving → Bool) (s : State) : State :=
  match getDef s id with
  | none => s
  | some d => (d.serving.filter which).foldl (fun s x => answerServing id 0x80 x [] s) s

/-! ### Header fields (R304) -/

def fOp (f : Frame) : Nat := fldBe f.hdr 1 1
def fSegOrd (f : Frame) : Nat := fldBe f.hdr 2 2
def fPsn (f : Frame) : Nat := fldBe f.hdr 4 4
def fDst (f : Frame) : Nat := fldBe f.hdr 8 3
def fPath (f : Frame) : Nat := fldBe f.hdr 11 1 % 8
def fTry (f : Frame) : Nat := fldBe f.hdr 11 1 / 8 % 8
def fSrcQpn (f : Frame) : Nat := fldBe f.hdr 12 3
def fNode (f : Frame) : Nat := fldBe f.hdr 16 2
def fKeyId (f : Frame) : Nat := fldBe f.hdr 18 2
def fSendSeq (f : Frame) : Nat := fldBe f.hdr 20 4
def fVa (f : Frame) : Nat := fldBe f.hdr 24 8
def fReqPsn (f : Frame) : Nat := fldBe f.hdr 28 4
def fPktIdx (f : Frame) : Nat := fldBe f.hdr 32 4
def fMsgLen (f : Frame) : Nat := fldBe f.hdr 36 4
def fTxTime (f : Frame) : Nat := fldBe f.hdr 40 8
/-- The effective PSN and the packet index (R306). -/
def fEpsn (f : Frame) : Nat := (fPsn f + fSegOrd f) % 2 ^ 32
def fIndex' (f : Frame) : Nat := fPktIdx f + fSegOrd f
def fAckReq (f : Frame) : Bool := bit (fldBe f.hdr 0 1) 2

/-! ### Frames that no QP takes (R114, R333) -/

def count16 (l : List (BitVec 16)) (i : Nat) : List (BitVec 16) := setNth l i (fun c => satAdd c 1)
/-- A frame counts against its port: no QP takes it. -/
def countNoQp (port : Nat) (s : State) : State := { s with xpt := { s.xpt with noQp := count16 s.xpt.noQp port } }

/-- Frames that wait for a context of a definition are dropped unacknowledged, and counted against their ports, once it leaves
its slot or is scrubbed (R114). -/
def dropWaitingFrames (id : Nat) (s : State) : State :=
  match getDef s id with
  | none => s
  | some d =>
    let mine (p : Frame × Word) : Bool := d.qps.any (fun q => q.2.phys == fDst p.1)
    (s.xpt.waitingFrames.filter mine).foldl (fun s p => countNoQp p.1.port s)
      { s with xpt := { s.xpt with waitingFrames := s.xpt.waitingFrames.filter (fun p => !mine p) } }

/-- Applies an operation to every QP of a definition. -/
def eachQp (defId : Nat) (f : Nat → State → State) (s : State) : State :=
  match getDef s defId with
  | none => s
  | some d => (d.qps.map (·.1)).foldl (fun s q => f q s) s

/-- Applies an operation to every command ring of a definition. -/
def eachRing (defId : Nat) (f : Nat → State → State) (s : State) : State :=
  match getDef s defId with
  | none => s
  | some d => (d.rings.map (·.1)).foldl (fun s r => f r s) s

end Sys2Proof.Machine
end

