-- ==== Sys2Proof/Machine/Life.lean ====
section
/-! DEFINITION. The lifetime log, the accounts and the checkpoints (R497, R511 to R517). -/

namespace Sys2Proof.Machine

/-- Adds to a number and stays at its largest value (R514). -/
def satN (w a b : Nat) : Nat := min (2 ^ w - 1) (a + b)

/-- The accounts at this moment: POWER_ON counts from step 2 of R493 (R513). -/
def accNow (s : State) : Account :=
  { s.life.acc with powerOnS := satN 32 s.life.acc.powerOnS ((s.clk - s.life.powerClk) / 2000000000) }

/-- ERASES of a sector: its own record's, or the highest of any other (R511). -/
def erasesOf (f : Flash) (k : Nat) : Nat := (mfind f.erases k).getD (f.erases.foldl (fun m p => max m p.2) 0)

def erasesMax (f : Flash) : Nat := f.erases.foldl (fun m p => max m p.2) 0

/-- The bytes of a record that its check covers (R497). -/
def LogRec.bytes (r : LogRec) : List Byte :=
  leBytes 8 r.seq ++ leBytes 8 r.bell.toNat ++ leBytes 2 r.kind ++ leBytes 1 (bitAt r.locked 0) ++ r.payload

/-- The record's CRC-64, folded with its flash byte address, on belfry lane 0 (R358, R497). -/
def LogRec.crc (r : LogRec) : CrcCtx := (CrcCtx.init 3 true (BitVec.ofNat 64 r.addr)).feed r.bytes

/-- A record passes its check; a torn one fails it and is ignored (R497, R515). -/
def LogRec.ok (r : LogRec) : Bool := r.check == r.crc.value

/-- Writes one record to the log, at the next place of its sector (R496, R497). -/
def putRec (kind : Nat) (payload : List Byte) (s : State) : State :=
  let r0 : LogRec := { addr := 0x03000000 + s.flash.sector * 65536 + s.flash.inSector * 64, check := 0
                       seq := s.life.seq + 1, bell := s.bell.ns, kind := kind, locked := s.bell.everLocked
                       payload := padTo 37 payload }
  let r := { r0 with check := r0.crc.value }
  { s with flash := { s.flash with log := s.flash.log ++ [r], inSector := s.flash.inSector + 1 }
           life := { s.life with seq := s.life.seq + 1 }
           crc0 := r0.crc }

/-- Enters the next sector (R511): its SECTOR record with its count of erases; the sector after it is then erased in the
background, unless it has reached 100,000 (R517). -/
def enterSector (s : State) : State :=
  let f := s.flash
  let first := f.log.isEmpty
  let k := if first then 0 else (f.sector + 1) % 256
  let count := match mfind f.erases k with
    | some n => n + 1
    | none => erasesOf f k
  let s1 := putRec 0x0001 (leBytes 4 count)
    { s with flash := { f with sector := k, inSector := 0, erases := mput f.erases k count } }
  let n := (k + 1) % 256
  if erasesOf s1.flash n == 100000 then { s1 with flash := { s1.flash with worn := true } }
  else
    { s1 with flash := { s1.flash with
        nextErased := false
        log := if 255 * 1024 < s1.flash.log.length then s1.flash.log.drop 1024 else s1.flash.log } }

/-- Appends a record, in a new sector where the present one is full. A worn log takes no record (R517). -/
def appendLog (kind : Nat) (payload : List Byte) (s : State) : State :=
  if s.flash.worn then s
  else
    let s1 := if s.flash.inSector == 0 || 1024 ≤ s.flash.inSector then enterSector s else s
    if s1.flash.worn then s1 else putRec kind payload s1

/-- The payload of a CHECKPOINT (R514). -/
def checkpointBytes (a : Account) : List Byte :=
  leBytes 8 a.peakNs ++ leBytes 8 a.hotNs ++ leBytes 4 a.powerOnS ++ leBytes 4 a.boots ++ leBytes 2 a.safeCount ++
  leBytes 2 a.tamperCount ++ leBytes 2 a.fenceCount

/-- Writes a CHECKPOINT, or lets it wait while an image is written (R503, R515). -/
def checkpoint (s : State) : State :=
  if s.flash.worn then s
  else if s.life.writing then { s with life := { s.life with due := true } }
  else
    let s1 := appendLog 0x0002 (checkpointBytes (accNow s)) s
    if s1.flash.worn && s1.life.seq == s.life.seq + 1 then s1
    else { s1 with life := { s1.life with cpAt := s.bell.ns, cpClk := s.clk, cpSeq := s1.life.seq, due := false } }

/-- The accounts in a CHECKPOINT's payload (R514). -/
def accOf (p : List Byte) : Account :=
  { peakNs := fld p 0 8, hotNs := fld p 8 8, powerOnS := fld p 16 4, boots := fld p 20 4, safeCount := fld p 24 2
    tamperCount := fld p 26 2, fenceCount := fld p 28 2 }

/-- The accounts of the newest CHECKPOINT in the log, or zero (R515). -/
def newestAcc (f : Flash) : Account :=
  match (f.log.filter (fun r => r.kind == 0x0002 && r.ok)).getLast? with
  | some r => accOf r.payload
  | none => Account.zero

end Sys2Proof.Machine
end

