-- ==== Sys2Proof/Machine/Faults.lean ====
section
/-! DEFINITION. What faults do: partition resets, the safe state, belfry restarts, engine faults and the one clock of a
unit that detects causes (R115, R116, R439, R467, R472 to R485). -/

namespace Sys2Proof.Machine

/-! ### Partition reset (R115) -/

/-- One command ring at a reset: its admitted commands and its posted entries complete `PARTITION_RESET`, what they leave
undefined with them (R262, R346); a started job is counted as faulted (R166, R188), and the next entry begins a new one
(log 91). -/
def resetRing (defId ring : Nat) (s : State) : State :=
  match getRing s defId ring with
  | none => s
  | some r =>
    let s0 := match r.cur with | some c => leaveMemory defId c (lostRanges c) s | none => s
    let s1 := if r.prior.getD r.jobStarted then setDef s0 defId (fun d => { d with jobsFaulted := d.jobsFaulted + 1 }) else s0
    let s2 := completePosted defId ring cPartitionReset (posted r.head r.tail) ((admittedEntries r).foldl (fun s x =>
      decideAdmitted defId r.cpl (hCmd ring) x.1 x.2.1 r.base r.log2 cPartitionReset x.2.2 0 s) s1)
    setRing defId ring (fun r => { r with
      cur := none, nxt := none, fall := none, jobOpen := false, jobStarted := false, jobFault := false, jobHost := false
      cancelRest := false, prior := none, waitSat := false }) s2

/-- Advances a slot's load generation (R25). -/
def advanceGen (slot : Nat) (s : State) : State :=
  setSlot s slot (fun x => { x with loadGen := x.loadGen + 1, genAt := now s })

/-- The end of a control operation: its status, its result, and the vector when BUSY falls (R149). -/
def endCtl (fn st : Nat) (result : Word) (drained : Bool) (s : State) : State :=
  let f := getFn s fn
  raise fn f.ctlVecEn f.ctlVec
    (setFn s fn (fun f => { f with
      busy := false, ctlStatus := st, ctlResult := result, drained := drained, waitOp := none, abort := none }))

/-- A slot's drum and its outstanding fragments are lost: what has arrived is dropped, and what is in flight is stale (R20, R25,
R115). -/
def dropWork (slot : Nat) (s : State) : State :=
  { s with fetches := s.fetches.filter (fun f => !(f.2.slot == slot && f.2.arrived))
           frags := s.frags.filter (fun f => f.2.slot != slot) }

/-- The effects of PART_RESET on a definition (R115). -/
def resetEffects (defId : Nat) (s : State) : State :=
  match getDef s defId with
  | none => s
  | some d =>
    let fn := boundFn d
    let s1 := eachQp defId (fun q s => qpError defId q 0x05 cPartitionReset true s)
      (eachRing defId (resetRing defId) s)
    let s2 := setDef s1 defId (fun d => { d with saved := [], persist := [] })
    let s3 := setFn s2 fn (fun f => { f with abort := f.abort.map (fun a => { a with reset := true }) })
    match d.slot with
    | none => s3
    | some sl => advanceGen sl (dropWork sl s3)

/-- A rotation, bind or quiesce that a fault ends early: a PART_QUIESCE in progress is answered (R116). -/
def endQuiesce (defId st : Nat) (s : State) : State :=
  match getDef s defId with
  | none => s
  | some d =>
    match d.quiesce with
    | none => s
    | some q =>
      let s1 := setDef s defId (fun d => { d with quiesce := none })
      match q.answer with
      | none => s1
      | some (b, r) =>
        if s.belfry.state == .restarting then
          { s1 with belfry := { s1.belfry with backlog := s1.belfry.backlog.map (fun w =>
              if w.box == b && w.seq == r.seq && w.opcode == 0x0104 then { w with ended := some st } else w) } }
        else answerLater b 0x0104 r.seq r.defId st [] s1

/-- A weight bind that a quiesce, a reset or the loss of its slot ends, with the segments written (R415, log 52). -/
def endBind (defId st : Nat) (s : State) : State :=
  match (getDef s defId).bind (fun d => d.bind) with
  | none => s
  | some b =>
    notice b.box 0x03 0x0301 b.seq b.written st defId (setDef s defId (fun d => { d with bind := none }))

/-- A `CONTAINED` fault reaches a slot's reset sequencer (R111, R116, R472). -/
def containDef (defId : Nat) (s : State) : State :=
  match getDef s defId with
  | none => s
  | some d =>
    if d.state == .resident || d.state == .running || d.state == .quiescing || d.state == .quiesced then
      let fn := boundFn d
      let s1 := setDef s defId (fun d => { d with state := .faulted })
      let s2 := endBind defId stPartitionReset (endQuiesce defId stPartitionReset (resetEffects defId s1))
      let s3 := if (getFn s2 fn).waitOp.isSome then endCtl fn cPartitionReset 0 false s2 else s2
      viewSet fn 2 (touchPage defId s3)
    else if d.state == .scrubbing then setDef s defId (fun d => { d with scrubFault := true })
    else s

/-! ### The safe state (R479, R480) -/

/-- A SAFE_STATE entry and bit for every bound VF (R470, R479). -/
def safeViews (code : Nat) (s : State) : State :=
  (s.defs.filter (fun p => p.2.slot.isSome)).foldl (fun s p =>
    let c : Cause := { code := 0x0E03, slot := p.2.slot, owner := none
                       loadGen := (match p.2.slot with | some sl => (getSlot s sl).loadGen.toNat | none => 0)
                       detail := BitVec.ofNat 64 code, injected := false }
    viewSet (boundFn p.2) 3 (viewRecord (boundFn p.2) { entryOf s .fatal c with stale := false } s)) s

/-- Requests taken before the entry are answered `ORPHANED` by the mailbox hardware (R480). -/
def orphanBacklog (s : State) : State :=
  let s1 := s.belfry.backlog.foldl (fun s w => answer w.box w.opcode w.seq w.defId stOrphaned [] s) s
  { s1 with belfry := { s1.belfry with backlog := [] } }

/-- Zero keys are driven on the IDE key ports in place of every key programmed (R398). -/
def zeroIdeKeys (s : State) : State :=
  s.keep.streams.foldl (fun s p => p.2.keys.foldl (fun s k =>
    emit s (.ideKey (p.1 / 256) (p.1 % 256) k.1 k.2.1 k.2.2 0 0)) s) s

/-- The keys that leave the vaults, the XPT and the IDE ports at safe-state entry and at a tamper (R398, R479). -/
def clearKeyEntries (s0 : State) : State :=
  let s := zeroIdeKeys s0
  { s with slots := s.slots.map (fun p => (p.1, { p.2 with keyCurrent := none, keyNext := none, windows := [] }))
           defs := s.defs.map (fun p => (p.1, { p.2 with
             linkKeys := if p.2.slot.isSome then [] else p.2.linkKeys
             bind := p.2.bind.map (fun b => { b with cek := [] }), background := none }))
           vault := { s.vault with blockKey := none }
           keep := { s.keep with streams := s.keep.streams.map (fun p => (p.1, { p.2 with keys := [], go := none })) } }

/-- FLT.SAFE, as the SAFE_STATE record and the register show it (R482, R512). -/
def fltSafeReg (f : Flt) : Nat :=
  bitAt f.safe 63 + bitAt f.tampered 62 + bitAt f.injected 61 + f.firstCode * 2 ^ 32 + f.later.toNat

/-- The safe state begins with its first cause; a later cause only counts (R474, R479). -/
def enterSafe (code : Nat) (injected : Bool) (s : State) : State :=
  if s.flt.safe then { s with flt := { s.flt with later := satAdd s.flt.later 1 } }
  else
    let s1 := { s with flt := { s.flt with safe := true, injected := injected, firstCode := code, safeAt := s.bell.ns } }
    let b := getBlock s 1
    let s2 := ibi 0xF0 (safeViews code (raise 0 b.vecEn b.vec (indicate s1)))
    let s3 := clearKeyEntries (orphanBacklog s2)
    let s4 := { s3 with power := { s3.power with refreshing := List.range (ports s3) }
                        belfry := { s3.belfry with xfer := none, inject := none }
                        flash := { s3.flash with image := if s3.life.writing then [] else s3.flash.image }
                        life := { s3.life with writing := false
                                               acc := { s3.life.acc with safeCount := satN 16 s3.life.acc.safeCount 1 } } }
    let s5 := if s4.boot.stage == .ready || s4.boot.stage == .recovery then s4
      else { s4 with boot := { s4.boot with stage := .stopped, reason := if s4.boot.reason == 0x03 then 0x03 else 0x08 } }
    if s5.boot.held then s5 else checkpoint (appendLog 0x0020 (leBytes 8 (fltSafeReg s5.flt)) s5)

/-! ### Belfry restarts (R439, R442) -/

/-- Restarts that fall in the last 60 s (R442). -/
def recentRestarts (s : State) : List Nat := s.belfry.restartAt.filter (fun t => now s < t + 60000000000)

/-- An event of the belfry, recorded against no slot. -/
def plainEntry (s : State) (code : Nat) (cls : FClass) (detail : Word) : FEntry :=
  entryOf s cls { code := code, slot := none, owner := none, loadGen := 0, detail := detail, injected := false }

/-- The belfry stops: `HALTED`, and the mailbox hardware answers what waits (R442). -/
def belfryHalt (s : State) : State :=
  orphanBacklog { s with belfry := { s.belfry with state := .halted } }

/-- The belfry restarts: `RESTARTING`, or `HALTED` with its event at the fourth within 60 s. What firmware had in progress is
lost with its volatile state: derivations that wait for the entropy source, and unloads that wait for BUSY (R20, R121,
R439). -/
def restartCore (s : State) : State :=
  let l := now s :: recentRestarts s
  let b := s.belfry
  let s1 := { s with
    belfry := { b with
      restarts := satAdd b.restarts 1, restartAt := l, pfExpired := b.state == .restarting && b.pfExpired
      xfer := b.xfer.bind (fun x => if 2 ≤ x.phase then some x else none)
      before := if b.state == .restarting then b.before else b.state
      state := .restarting }
    keep := { s.keep with waits := [] }
    fns := s.fns.map (fun p => (p.1, { p.2 with unload := none })) }
  if 4 ≤ l.length then belfryHalt (recordClock 2 [plainEntry s 0x0201 .corrected 0] s1) else s1

/-- A restart with its event WATCHDOG_RESTART. -/
def belfryRestart (s : State) : State :=
  if belfryShown s == .halted then s
  else restartCore (recordClock 2 [plainEntry s 0x0200 .corrected 0] s)

/-! ### Detecting causes (R467, R472 to R474, R485) -/

/-- Copies a cause's entry into the fault view of the definition in its slot (R470). -/
def copyToView (c : Cause) (e : FEntry) (s : State) : State :=
  match c.slot.bind (fun sl => inSlot s sl) with
  | none => s
  | some (_, d) =>
    let s1 := viewRecord (boundFn d) e s
    if e.stale then s1
    else if c.code == 0x0500 then viewSet (boundFn d) 1 s1
    else if c.code == 0x0E00 then viewSet (boundFn d) 0 s1
    else s1

/-- The indications of a `CONTAINED` event of a slot that is not stale (R483, R484). -/
def containedSigns (s : State) : State :=
  ibi 0xF1 (if s.flt.containedMode != 0 && s.pins.resetN then indicate s else s)

/-- The reset line of a slot (R472). -/
def resetLine (c : Cause) (s : State) : State :=
  match c.slot with
  | some sl => match inSlot s sl with
    | some (id, _) => containDef id s
    | none => s
  | none => match c.owner with
    | some id => (match getDef s id with
      | some d => if d.state == .scrubbing then setDef s id (fun d => { d with scrubFault := true }) else s
      | none => s)
    | none => s

/-- Resident definitions granted a dome: identifier and slot. -/
def grantedDome (s : State) (dome : Nat) : List (Nat × Nat) :=
  (s.defs.filter (fun p => p.2.slot.isSome && bit p.2.grant.domeMask dome)).map (fun p => (p.1, p.2.slot.getD 0))

/-- A dome is fenced (R485): its bit, the log record, and ENGINE_FENCED against each resident definition granted it, but for a
slot that has the event already. -/
def fenceDome (dome engine : Nat) (told : Option Nat) (s : State) : State :=
  if s.domes.fenced.getLsbD dome then s
  else
    let l := (grantedDome s dome).filter (fun p => told != some p.2)
    let mk (p : Nat × Nat) : Cause :=
      { code := 0x0801, slot := some p.2, owner := none, loadGen := (getSlot s p.2).loadGen.toNat
        detail := BitVec.ofNat 64 (dome * 256 + engine), injected := false }
    let cs := l.map mk
    let s1 := { s with domes := { s.domes with fenced := s.domes.fenced ||| BitVec.ofNat 16 (2 ^ dome) }
                       life := { s.life with acc := { s.life.acc with
                         fenceCount := satN 16 s.life.acc.fenceCount 1 } } }
    let s2 := appendLog 0x0022 (leBytes 1 dome ++ leBytes 1 engine) s1
    let s3 := recordClock 8 (cs.map (fun c => redact s c (entryOf s .contained c))) s2
    let s4 := cs.foldl (fun t c => copyToView c (entryOf s .contained c) t) s3
    cs.foldl (fun t c => containedSigns (resetLine c t)) s4

/-- A second ENGINE_FAULT of one engine within 3,600 s fences its dome (R485). -/
def engineHistory (detail : Word) (s : State) : State :=
  let dome := bits detail.toNat 15 8
  let engine := bits detail.toNat 7 0
  let before := s.domes.faults.any (fun x => x.1 == dome && x.2.1 == engine && now s ≤ x.2.2.toNat + 3600000000000)
  let s1 := { s with domes := { s.domes with faults := (dome, engine, s.bell.ns) :: s.domes.faults } }
  if before && dome < 16 then fenceDome dome engine none s1 else s1

/-- The memory port of a block line: lines are interleaved over the populated ports (log 22). -/
def portOfLine (s : State) (addr : Nat) : Nat := if ports s == 0 then 0 else addr / 256 % ports s

def setPort (s : State) (addr : Nat) (f : VltPort → VltPort) : State :=
  { s with vault := { s.vault with ports := setNth s.vault.ports (portOfLine s addr) f } }

/-- A line of a definition is poisoned, and counted by its port where it was not poisoned before (R374, R388). -/
def poisonNew (id off : Nat) (s : State) : State :=
  match getDef s id with
  | none => s
  | some d =>
    if linePoisoned d off then s
    else setPort (setDef s id (fun d => d.poisonLine off)) (blockAddr d off) (fun p =>
      { p with poisonNew := satAdd p.poisonNew 1 })

/-- The line at a block address is poisoned, where it is a line of a definition's offset space. -/
def poisonAt (addr : Nat) (s : State) : State :=
  match ownerAtBlock s addr with
  | some (id, _, some off) => poisonNew id off s
  | _ => s

/-- The 8 lines whose tags a tag sector holds are poisoned (R374, R386); `line` is the block line index of one of them. -/
def poisonTagged (line : Nat) (s : State) : State :=
  (List.range 8).foldl (fun s k => poisonAt ((line / 8 * 8 + k) * 256) s) s

/-- A line that a recorded ECC_UNCORRECTED or TAG_FAIL names is poisoned, and a tag failure is counted (R374, R386, R388). The
vault's own reads have done both before they record the event (log 83). -/
def poisonFound (c : Cause) (s : State) : State :=
  let a := c.detail.toNat * 256
  match ownerAtBlock s a with
  | some (_, d, some off) =>
    if linePoisoned d off then s
    else
      let s1 := poisonAt a s
      if c.code == 0x0702 then setPort s1 a (fun p => { p with tagFail := satAdd p.tagFail 1 }) else s1
  | _ => s

/-- The TDI of a slot's definition enters `ERROR`, where it is locked or runs (R406, R488). -/
def tdiInError (c : Cause) (s : State) : State :=
  match c.slot.bind (inSlot s) with
  | none => s
  | some (_, d) => setFn s (boundFn d) (fun f => { f with
      tdi := if f.tdi == .locked || f.tdi == .run then .error else f.tdi })

/-- A link-key slot with a parity error is cleared; DETAIL names it (R488, log 49). -/
def clearLinkKey (c : Cause) (s : State) : State :=
  match ownerOf s c with
  | some (id, _) => setDef s id (fun d => { d with linkKeys := mdrop d.linkKeys (c.detail.toNat % 4096) })
  | none => s

/-- A vault key entry with a parity error on the key bus is cleared (R488, log 49). -/
def clearVaultKey (c : Cause) (s : State) : State :=
  match c.slot with
  | some sl => setSlot s sl (fun x => { x with keyCurrent := none, keyNext := none })
  | none => s

/-- The further reaction of a `CONTAINED` cause (R485, R488). -/
def containedReaction (c : Cause) (s : State) : State :=
  match c.code with
  | 0x0701 => poisonFound c s
  | 0x0702 => poisonFound c s
  | 0x0703 => poisonTagged c.detail.toNat s
  | 0x0800 => engineHistory c.detail s
  | 0x0801 =>
    if bits c.detail.toNat 15 8 < 16 then fenceDome (bits c.detail.toNat 15 8) (bits c.detail.toNat 7 0) c.slot s else s
  | 0x0902 => clearLinkKey c s
  | 0x0B03 => tdiInError c s
  | 0x0D01 => clearVaultKey c s
  | _ => s

/-- The belfry runs firmware or is being restarted (R439). -/
def firmwareReleased (s : State) : Bool := operating s && s.belfry.state != .recovery && belfryShown s != .halted

/-- A check-value context with a parity error (R363), by DETAIL: 0 and 1 are belfry lanes 0 and 1, 0x100 + n is XPT lane n,
and 0x200 + k and 0x300 + k are contexts U and M of lantern k (log 49). Lane 1 shows it at once, and lane 0 reads 0. A
receive lane's next frame and context U's next result meet it; a frame being sent is formed again, and in context M the vendor
firmware repeats the computation, which leaves nothing behind. -/
def crcParity (detail : Nat) (s : State) : State :=
  if detail == 1 then { s with crc := { s.crc with err := true, bad := true } }
  else if detail == 0 then { s with crc0 := { s.crc0 with rem := BitVec.ofNat 64 (crcXor s.crc0.alg) } }
  else if (0x100 ≤ detail && detail < 0x110 && detail % 2 == 1) || (0x200 ≤ detail && detail < 0x280) then
    { s with crcBad := insNat detail s.crcBad }
  else s

/-- The reaction of a `CORRECTED` cause (R488). An injected TABLE_ECC acts on the live entry that DETAIL names (log 49). -/
def correctedReaction (c : Cause) (s : State) : State :=
  match c.code with
  | 0x0200 => if firmwareReleased s then restartCore s else s
  | 0x0201 => if firmwareReleased s then belfryHalt s else s
  | 0x0202 => if firmwareReleased s && c.detail.getLsbD 0 then belfryRestart s else s
  | 0x0400 =>
    if c.injected then
      touchPages { s with car := { s.car with live := { s.car.live with
        empties := insNat (c.detail.toNat % 1024) s.car.live.empties } } }
    else s
  | 0x0A00 => crcParity c.detail.toNat s
  | 0x0C00 => if firmwareReleased s then belfryRestart s else s
  | 0x0D00 => { s with keep := { s.keep with entropyOk := false } }
  | _ => s

/-- What a detected cause makes the block do, beyond its record. In the safe state nothing but the count of `FATAL` causes
(R474, R480). A stale cause does nothing (R473), and one whose owner holds no slot gives no sign (R386, R472). -/
def react (cls : FClass) (stale : Bool) (c : Cause) (s : State) : State :=
  if stale then s
  else match cls with
    | .fatal => enterSafe c.code c.injected s
    | .contained =>
      if s.flt.safe then s
      else containedReaction c
        (if (c.slot.bind (inSlot s)).isSome then containedSigns (resetLine c s) else resetLine c s)
    | .corrected => if s.flt.safe then s else correctedReaction c s

/-- A cause with its class and its view entry, as detected. -/
structure Found where
  cls : FClass
  cause : Cause
  entry : FEntry

def findCauses (s : State) (unit : Nat) (causes : List Cause) : List Found :=
  (sortBy (fun c => c.code) (causes.filter (fun c => c.code / 256 == unit))).filterMap (fun c =>
    (classOf s c).map (fun k => { cls := k, cause := c, entry := entryOf s k c }))

/-- One fabric clock of a unit that detects causes: the records, the copies, then the reactions, which never wait for a
record (R467, R472). -/
def detect (unit : Nat) (causes : List Cause) (s : State) : State :=
  let l := findCauses s unit causes
  let own := l.filter (fun f => !(f.cause.code == 0x0103 && f.cause.detail == 1))
  let s1 := if unit == 0x0E then s else recordClock unit (own.map (fun f => redact s f.cause f.entry)) s
  let s2 := l.foldl (fun t f =>
    if f.cls == .contained || f.cause.code == 0x0500 || f.cause.code == 0x0E00 then copyToView f.cause f.entry t
    else t) s1
  l.foldl (fun t f => react f.cls f.entry.stale f.cause t) s2

/-- The same for one cause, at the unit that owns its code. -/
def detect1 (c : Cause) (s : State) : State := detect (c.code / 256) [c] s

/-- A cause with no slot. -/
def blockCause (code : Nat) (detail : Word) : Cause :=
  { code := code, slot := none, owner := none, loadGen := 0, detail := detail, injected := false }

/-- A translation failure: a `CONTAINED` fault of the partition (R155). -/
def translationFault (defId va : Nat) (s : State) : State :=
  detect1 (slotCause s defId 0x0B00 (BitVec.ofNat 64 va)) s

/-- Advances the bell by one increment of its rate (R72). -/
def Bell.tick (b : Bell) : Bell :=
  let t := b.fine.toNat + b.rate
  { b with ns := b.ns + BitVec.ofNat 64 (t / 2 ^ 40), fine := BitVec.ofNat 40 t }

end Sys2Proof.Machine
end

