-- ==== Sys2Proof/Machine/Keys.lean ====
section
/-! DEFINITION. The keep's derivation of keys, the line cipher and the line tag (R365 to R372, R392, R393). -/

namespace Sys2Proof.Machine

/-! ### The derivation tree (R392, R393) -/

/-- The ASCII bytes of a label. -/
def ascii (t : String) : List Byte := t.toList.map (fun c => BitVec.ofNat 8 c.toNat)

/-- One block of the counter-mode KDF. -/
def kdfBlock (k : List Byte) (label : String) (ctx : List Byte) (len i : Nat) : List Byte :=
  hmac k (beBytes 4 i ++ ascii label ++ [0] ++ ctx ++ beBytes 4 (len * 8))

/-- KDF(K, label, context, L) (R392). -/
def kdf (k : List Byte) (label : String) (ctx : List Byte) (len : Nat) : List Byte :=
  ((List.range ((len + 47) / 48)).flatMap (fun i => kdfBlock k label ctx len (i + 1))).take len

/-- ROOT, as start-up derives it from the device-unique secret. -/
def rootKey : List Byte := kdf Config.dus "AMT64 root" [] 48
/-- ROOT, where the keep's SRAM holds it. -/
def rootNow (s : State) : List Byte := s.keep.root.getD []
/-- TENANT of a grant and its serial, as PART_DEFINE derives it. -/
def tenantKey (s : State) (g : Grant) (serial : Nat) : List Byte :=
  kdf (rootNow s) "tenant" (g.tenantLabel ++ leBytes 32 s.keep.bootNonce.toNat ++ leBytes 4 serial) 48
/-- VERSION v, which the keep refuses to derive at or below the highest version destroyed (R394). -/
def versionKey (d : Def) (v : Nat) : List Byte := if v ≤ d.destroyed then [] else kdf d.tenant "version" (leBytes 2 v) 48

/-- 96 bytes as a memory key (R365). -/
def memKeyOf (v : Nat) (b : List Byte) : MemKey :=
  { version := v, k1 := b.take 32, k2 := (b.drop 32).take 32, k3 := (b.drop 64).take 32 }

/-- MEM of a version (R393). -/
def memKey (d : Def) (v : Nat) : MemKey := memKeyOf v (kdf (versionKey d v) "memory" [] 96)
/-- LINK_SEAL of the current version (R393, R394). -/
def linkSeal (d : Def) : List Byte := kdf (versionKey d d.keyVersion) "link seal" [] 32

/-- BLOCK, the block key: of the same form, with version 0 in its tags (R365, R393; log 60). -/
def blockKeyNow (s : State) : MemKey := memKeyOf 0 (kdf (rootNow s) "block" (leBytes 32 s.keep.bootNonce.toNat) 96)

/-- The single-use key of a scrub after the last version: 96 bytes of three draws of the DRBG (R122; log 60). -/
def singleUseKey (s : State) : MemKey :=
  memKeyOf 65535 ((List.range 3).flatMap (fun i => leBytes 32 (Config.drbg (s.keep.draws + i)).toNat))

/-! ### AES-256-XTS (R367) -/

/-- Multiplication by alpha in GF(2^128), for a number of 128 bits. -/
def gfDouble (t : Nat) : Nat := (t * 2 % 2 ^ 128) ^^^ (if 2 ^ 127 ≤ t then 0x87 else 0)

/-- The blocks of a data unit, from the tweak of the first one. -/
def xtsBlocks (f : List Byte → List Byte) : Nat → List (List Byte) → List Byte
  | _, [] => []
  | t, b :: l => xorBytes (f (xorBytes b (leBytes 16 t))) (leBytes 16 t) ++ xtsBlocks f (gfDouble t) l

/-- One data unit of 256 bytes, whose tweak is the block line index. -/
def xtsLine (f : List Byte → List Byte) (k : MemKey) (idx : Nat) (line : List Byte) : List Byte :=
  xtsBlocks f (leNat (aesEnc k.k2 (leBytes 16 idx))) (pieces 16 16 line)

/-- The ciphertext of a line under a key (R367). -/
def encLine (k : MemKey) (idx : Nat) (line : List Byte) : List Byte := xtsLine (aesEnc k.k1) k idx line
/-- The plaintext of a line's ciphertext. -/
def decLine (k : MemKey) (idx : Nat) (line : List Byte) : List Byte := xtsLine (aesDec k.k1) k idx line

/-! ### AES-256-CMAC and the line tag (R370) -/

/-- A subkey of CMAC from the one before it. -/
def cmacDouble (b : List Byte) : List Byte := beBytes 16 (gfDouble (beNat b))

/-- The chain over the blocks; the last one is combined with a subkey. -/
def cmacChain (k k1 k2 : List Byte) : List Byte → List (List Byte) → List Byte
  | c, [] => c
  | c, [b] =>
    let last := if b.length = 16 then xorBytes b k1 else xorBytes (padTo 16 (b ++ [0x80])) k2
    aesEnc k (xorBytes c last)
  | c, b :: l => cmacChain k k1 k2 (aesEnc k (xorBytes c b)) l

/-- AES-256-CMAC of a message that is not empty (NIST SP 800-38B). -/
def cmac (k msg : List Byte) : List Byte :=
  let k1 := cmacDouble (aesEnc k (List.replicate 16 0))
  cmacChain k k1 (cmacDouble k1) (List.replicate 16 0) (pieces 16 (msg.length / 16 + 1) msg)

/-- The 272-byte message of a line (R370). -/
def tagMessage (cipher : List Byte) (idx version : Nat) (poison : Bool) : List Byte :=
  cipher ++ leBytes 8 idx ++ leBytes 2 version ++ leBytes 1 (bitAt poison 0) ++ List.replicate 5 0

/-- The tag of a line: the leftmost 64 bits of the CMAC under K3. -/
def lineTag (k : MemKey) (idx : Nat) (cipher : List Byte) (poison : Bool) : BitVec 64 :=
  BitVec.ofNat 64 (beNat ((cmac k.k3 (tagMessage cipher idx k.version poison)).take 8))

/-! ### The key of a line (R366, R381) and what the stack holds of it -/

/-- Whether a page of a walk is under the next version already. -/
def pageUnderNext (r : Rotation) (page : Nat) : Bool :=
  page < r.boundary || (page ≤ r.boundary + 7 && r.doneInFlight.contains page) || r.pages ≤ page

/-- The version under which an offset's line is stored. -/
def lineNext (d : Def) (off : Nat) : Bool :=
  match d.rotation with
  | some r => decide (0 < r.pages) && pageUnderNext r (off / 65536)
  | none => false

/-- The version of a line of a definition that holds no slot. -/
def offVersion (d : Def) (off : Nat) : Nat :=
  match d.rotation with
  | some r => if lineNext d off then r.toVersion else d.keyVersion
  | none => d.keyVersion

/-- The key of a line of a definition: the owner's, CURRENT or NEXT. Off its slot it is the one the background engine holds for
that definition: its scrub's, or that of the line's version (R366, R379). -/
def lineKey (s : State) (d : Def) (off : Nat) : MemKey :=
  let k := match d.slot with
    | some sl => if lineNext d off then (getSlot s sl).keyNext else (getSlot s sl).keyCurrent
    | none => d.background.orElse (fun _ => some (memKey d (offVersion d off)))
  k.getD (memKeyOf 0 [])

/-- The plaintext of the line of an offset. -/
def plainLine (d : Def) (off : Nat) : List Byte := readBytes d.mem (off / 256 * 256) 256

/-- The block line index of an offset (R367). -/
def lineIndex (d : Def) (off : Nat) : Nat := blockAddr d off / 256

/-- The ciphertext that the stack holds of a line (R367). -/
def storedLine (s : State) (d : Def) (off : Nat) : List Byte :=
  encLine (lineKey s d off) (lineIndex d off) (plainLine d off)

/-- The tag that the stack holds of a line of a confidential definition, stored little-endian (R370, R376, R377). -/
def storedTag (s : State) (d : Def) (off : Nat) : BitVec 64 :=
  lineTag (lineKey s d off) (lineIndex d off) (storedLine s d off) (linePoisoned d off)

/-- Where a chunk holds the tag of one of its lines: the chunk's ordinal and the byte in it (R372). -/
def tagPlace (off : Nat) : Nat × Nat := (off / 1040187392, 1040187392 + 8 * (off % 1040187392 / 256))

/-- What the tag check finds of a ciphertext and a tag under a key (R374). -/
def checkTag (k : MemKey) (idx : Nat) (cipher : List Byte) (tag : BitVec 64) : TagCheck :=
  if tag = lineTag k idx cipher false then .ok
  else if tag = lineTag k idx cipher true then .poisoned
  else .bad

end Sys2Proof.Machine
end

