-- ==== Sys2Proof/Machine/Partitions.lean ====
section
/-! DEFINITION. Partition messages: define, load, unload, resize, quiesce, resume, reset, scrub, destroy, dirty logging, and
the capability page (R105 to R131, R533). -/

namespace Sys2Proof.Machine

/-! ### Kinds of message -/

/-- A message about a definition, from the PF only, with a fixed length. -/
def pfDefMsg (len : Nat) (resv : List Byte → Bool) : MsgKind :=
  { lenOk := fun n => n == len, reservedOk := resv, aboutDef := true, fromPf := true, fromOwn := false, fromI3c := false
    orphanRefused := true }

/-- A message about a definition, from the PF or the bound function. -/
def ownDefMsg (len : Nat) (resv : List Byte → Bool) (orphan : Bool) : MsgKind :=
  { lenOk := fun n => n == len, reservedOk := resv, aboutDef := true, fromPf := true, fromOwn := true, fromI3c := false
    orphanRefused := orphan }

def noReserved (_ : List Byte) : Bool := true

/-! ### The capability page (R127, R128) -/

def stateCode : PState → Nat
  | .defined => 1
  | .resident => 2
  | .running => 3
  | .quiescing => 4
  | .quiesced => 5
  | .scrubbing => 6
  | .faulted => 7

/-- The 4 KiB image of a definition's capability page. Off its slot the fields of the slot and of the table read as R127
says. -/
def capPage (s : State) (id : Nat) (d : Def) : List Byte :=
  let g := d.grant
  let t := s.car.live
  let on := d.slot.isSome
  let sl := d.slot.getD 0
  let n (res : Nat) : Nat := if on then owned t res sl else 0
  let gu (res : Nat) : Nat := if on then guarantee s t d sl res else 0
  let host (p : Nat) := leBytes 2 (n (1 + p)) ++ List.replicate 6 0 ++ leBytes 8 (gu (1 + p))
  let net (p : Nat) := leBytes 2 (n (3 + p)) ++ leBytes 2 (if on then runs t (3 + p) sl else 0) ++
    leBytes 4 (if on then largestFrame d p else 0) ++ leBytes 8 (gu (3 + p))
  let dome (p : Nat) := leBytes 2 (n (11 + p)) ++ leBytes 1 (if on then ownersOf t (11 + p) else 0) ++ [0] ++
    leBytes 4 (gu (11 + p))
  padTo 4096 (
    leBytes 4 0x00010000 ++ leBytes 4 d.updateSeq.toNat ++ leBytes 8 d.updatedAt.toNat ++ leBytes 2 id ++
    leBytes 1 (if on then sl else 0xFF) ++ leBytes 1 (stateCode d.state) ++
    leBytes 4 (if on then (getSlot s sl).loadGen.toNat else 0) ++
    leBytes 1 (bitAt g.confidential 0 + bitAt d.dirty.isSome 1 + bitAt d.scrubbed 2) ++ leBytes 1 g.bindPort ++
    leBytes 2 g.bindVf ++ leBytes 2 d.keyVersion ++ leBytes 2 g.domeMask ++ g.lanterns.flatMap (leBytes 1) ++
    g.drumWays.flatMap (leBytes 1) ++ leBytes 4 g.persistKib ++ leBytes 4 (preemptWait g) ++
    leBytes 8 (g.memGib * 1073741824) ++ leBytes 8 (memUsable g) ++ leBytes 4 g.qps ++ leBytes 4 g.cmdRings ++
    leBytes 4 g.cplRings ++ leBytes 4 g.fences ++ leBytes 2 g.qpCache ++ leBytes 2 g.linkKeys ++ leBytes 2 16 ++
    leBytes 2 t.gen ++ leBytes 2 (n 0) ++ List.replicate 6 0 ++ leBytes 8 (gu 0) ++
    (List.range 2).flatMap host ++ (List.range 8).flatMap net ++ (List.range 16).flatMap dome ++
    leBytes 2 g.powerBudget ++ leBytes 2 (if on then (getSlot s sl).powerNow else 0) ++ List.replicate 12 0 ++
    leBytes 8 d.jobsStarted.toNat ++ leBytes 8 d.jobsCompleted.toNat ++ leBytes 8 d.jobsFaulted.toNat)

/-! ### PART_DEFINE (R107) -/

/-- Sum of a grant field over all definitions. -/
def sumGrants (s : State) (f : Grant → Nat) : Nat := (s.defs.map (fun p => f p.2.grant)).sum

/-- Chunks in the free pool: granted to nobody and not being scrubbed. -/
def chunkFree (s : State) (c : Nat) : Bool :=
  !s.defs.any (fun p => p.2.chunks.contains c) && !s.vault.scrubChunks.contains c

/-- Physical QP numbers that no definition holds (R311). -/
def qpnFree (s : State) (n : Nat) : Bool := !s.defs.any (fun p => p.2.qps.any (fun q => q.2.phys == n))

/-- Rows three and four of R107, and R507, for a grant that replaces one (empty for a new definition). -/
def totalsOk (s : State) (old new : Option Grant) (f : Grant → Nat) (limit : Nat) : Bool :=
  sumGrants s f - (old.map f).getD 0 + (new.map f).getD 0 ≤ limit

def objectsOk (s : State) (old new : Option Grant) : Bool :=
  totalsOk s old new (·.qps) 65536 && totalsOk s old new (·.cmdRings) 16384 && totalsOk s old new (·.cplRings) 49152 &&
  totalsOk s old new (·.fences) 262144

/-- A definition as PART_DEFINE leaves it (R107, R108, R110, R311, R393). -/
def newDef (g : Grant) (serial : Nat) (chunks qpns : List Nat) : Def :=
  { grant := g, state := .defined, slot := none, scrubbed := true, scrubFault := false, scrubKey := 0, scrubBox := .pf
    scrubSeq := 0, spent := false, keyVersion := 1, destroyed := 0, serial := serial, tenant := [], background := none, chunks := chunks
    uninit := List.range chunks.length, early := [], jobsStarted := 0, jobsCompleted := 0, jobsFaulted := 0
    dirty := none, mem := []
    poison := [], persist := [], ptBase := none, fences := [], rings := [], cpls := []
    qps := (List.range qpns.length).zip (qpns.map Qp.fresh), serving := [], servedVt := 0
    rotation := none, bind := none, quiesce := none, saved := []
    linkKeys := [], updateSeq := 0, updatedAt := 0 }

/-- R107. A sum that fits while some of the free chunks are still being scrubbed is answered `MEMORY_EXHAUSTED` too (log
64). -/
def servePartDefine (_ : Box) (r : Req) (s : State) : Served :=
  let g := parseGrant r.payload
  let chunks := firstFree (chunkFree s) (poolChunks s) 0 g.memGib
  if (getDef s r.defId).isSome then .now stWrongState [] s
  else if !grantOk g then .now stMalformed [] s
  else if poolChunks s < sumGrants s (·.memGib) + g.memGib || chunks.length != g.memGib then .now stMemoryExhausted [] s
  else if !objectsOk s none (some g) || s.keep.defSerial == 4294967295 then .now stResourceShortfall [] s
  else
    let serial := s.keep.defSerial + 1
    let qpns := firstFree (qpnFree s) 65536 0 g.qps
    let s1 := { s with keep := { s.keep with defSerial := serial }
                       defs := mput s.defs r.defId { newDef g serial chunks qpns with tenant := tenantKey s g serial } }
    .now stOk [] (touchPage r.defId s1)

/-! ### PART_LOAD (R112, R119, R397) -/

/-- Resident definitions other than one. -/
def residents (s : State) (but : Nat) : List (Nat × Def) := s.defs.filter (fun p => p.2.slot.isSome && p.1 != but)

/-- With a grant added, no granted dome and no block-wide total is exceeded, and no granted dome is fenced (R112, R485). -/
def resourcesOk (s : State) (but : Nat) (g : Grant) : Bool :=
  let l := residents s but
  (List.range 16).all (fun d => !bit g.domeMask d ||
    (!s.domes.fenced.getLsbD d && (l.filter (fun p => bit p.2.grant.domeMask d)).length + 1 ≤ 4 &&
     (l.map (fun p => nth p.2.grant.lanterns d 0)).sum + nth g.lanterns d 0 ≤ 8 &&
     (l.map (fun p => nth p.2.grant.drumWays d 0)).sum + nth g.drumWays d 0 ≤ 64)) &&
  (l.map (fun p => p.2.grant.qpCache)).sum + g.qpCache ≤ 4096 &&
  (l.map (fun p => p.2.grant.linkKeys)).sum + g.linkKeys ≤ 4096

/-- The live table and an armed staged table give a slot what a grant requests (R112). -/
def tablesGive (s : State) (g : Grant) (slot : Nat) : Bool :=
  tableGives s.car.live g slot &&
  (!s.car.armed || (match s.car.staged with | some t => tableGives t g slot | none => true))

def requestsAny (g : Grant) : Bool := (List.range 27).any (fun res => 0 < requested g res)

/-- Pages of a walk (R381). -/
def walkPages (g : Grant) : Nat := (memUsable g + 4194304) / 65536

/-- A pending rotation at a load: its known-answer check, then its walk, or the walk that resumes (R383, R397). -/
def loadRotation (id slot : Nat) (agree : Bool) (s : State) : State :=
  match (getDef s id).bind (fun d => d.rotation) with
  | none => s
  | some ro =>
    if 0 < ro.pages then
      setSlot (setDef s id (fun d => { d with rotation := some { ro with walking := true } })) slot
        (fun x => { x with keyNext := (getDef s id).map (fun d => memKey d ro.toVersion) })
    else if agree then
      setSlot (setDef s id (fun d => { d with
          rotation := some { ro with walking := true, boundary := 0, pages := walkPages d.grant, doneInFlight := [] } }))
        slot (fun x => { x with keyNext := (getDef s id).map (fun d => memKey d ro.toVersion) })
    else
      let fatal := s.vault.keyCheck == 2
      let s1 := detect1 (slotCause s id 0x0705 0) (setDef s id (fun d => { d with rotation := none }))
      if fatal then s1 else notice ro.box 0x02 0x0300 ro.seq (ro.toVersion - 1) stKeyCheckFailed id s1

/-- The slot a load names, or the lowest free one. -/
def loadSlot (s : State) (b : Nat) : Option Nat :=
  if b == 0xFF then (List.range 64).find? (fun i => (inSlot s i).isNone)
  else if (inSlot s b).isNone then some b else none

/-- Bytes that a load reads from the save area: the persistent share and the list of cached QPs. -/
def restoreBytes (d : Def) : Nat := d.grant.persistKib * 1024 + charge64 (2 + 2 * (savedCached d).length)

/-- Lanterns of a dome that no other slot holds, lowest first. -/
def freeLanes (s : State) (slot dome : Nat) : List Nat :=
  ((List.range 8).map (· + 8 * dome)).filter (fun k => !s.slots.any (fun p => p.1 != slot && p.2.lanes.contains k))

/-- The lanterns of a grant: LANTERNS[d] of each dome, the lowest that are free (R228). -/
def grantLanes (s : State) (slot : Nat) (g : Grant) : List Nat :=
  (List.range 16).flatMap (fun dome => (freeLanes s slot dome).take (nth g.lanterns dome 0))

/-- The link keys of a definition that leaves its slot: AES key wrap under LINK_SEAL, in the block reserve (R394). -/
def sealLinks (d : Def) : NMap (Nat × List Byte) := d.linkKeys.map (fun p => (p.1, (p.2.1, keyWrap (linkSeal d) p.2.2)))
/-- The link keys that a load unseals (R119, R394). -/
def unsealLinks (d : Def) : NMap (Nat × List Byte) :=
  d.linkKeys.map (fun p => (p.1, (p.2.1, (keyUnwrap (linkSeal d) p.2.2).getD [])))

/-- A definition enters a slot: its key and its shared window are loaded, and the persistent share and the list of cached QPs
are read back from the save area under its label (R15, R109, R112, R119, R125, R391, R409, R525). -/
def enterSlot (id slot : Nat) (agree : Bool) (s : State) : State :=
  match getDef s id with
  | none => s
  | some d =>
    let fn := boundFn d
    let s1 := setDef s id (fun d => { d with
      slot := some slot, state := .resident, persist := savedShare d, linkKeys := unsealLinks d })
    let s2 := setSlot (advanceGen slot s1) slot (fun x => { x with
      miss := Miss.reset, served := [], prevMem := 0, frameAt := [], energy := 0, held := false, rtt := 20000
      keyCurrent := some (memKey d d.keyVersion), keyNext := none, qpCached := (savedCached d).take d.grant.qpCache
      powerNow := 0, energy100 := 0, slack := List.range 29, windows := d.qps.map (fun p => p.2.phys)
      lanes := grantLanes s slot d.grant })
    let s3 := setFn s2 fn (fun f => { f with
      fv := FaultBlock.reset, miss := Miss.reset, mbox := { f.mbox with session := none } })
    let s4 := { s3 with keep := { s3.keep with
      loadSeen := true, confLock := s3.keep.confLock || d.grant.confidential } }
    touchPage id (loadRotation id slot agree (charge slot 0 (restoreBytes d) s4))

/-- R112. A SLOT from 64 to 254 is answered `MALFORMED` once the state has been tested (log 64). -/
def servePartLoad (agree : Bool) (_ : Box) (r : Req) (s : State) : Served :=
  let b := fld r.payload 0 1
  match getDef s r.defId with
  | none => .now stWrongState [] s
  | some d =>
    if d.state != .defined || d.spent then .now stWrongState [] s
    else if 64 ≤ b && b != 0xFF then .now stMalformed [] s
    else match loadSlot s b with
      | none => .now stSlotBusy [] s
      | some slot =>
        if (residents s r.defId).any (fun p => boundFn p.2 == boundFn d) then .now stInUse [] s
        else if requestsAny d.grant && !s.bell.everLocked then .now stTimeUnlocked [] s
        else if !resourcesOk s r.defId d.grant then .now stResourceShortfall [] s
        else if !tablesGive s d.grant slot then .now stGrantShortfall [] s
        else .now stOk (leBytes 1 slot ++ List.replicate 7 0) (enterSlot r.defId slot agree s)

/-! ### PART_UNLOAD (R119) -/

/-- A TDI that is locked or running enters `ERROR` (R406). -/
def tdiError (fn : Nat) (s : State) : State :=
  setFn s fn (fun f => { f with tdi := if f.tdi == .locked || f.tdi == .run then .error else f.tdi })

/-- A walk that is to stop first ends its pages in flight, and its boundary is saved past them (R383). -/
def settledWalk (r : Rotation) : Rotation :=
  { r with walking := false, doneInFlight := [], boundary := if r.walking then min (r.boundary + 8) r.pages else r.boundary }

/-- Traffic of the pages in flight that are still to end. -/
def flightTraffic (d : Def) : Nat :=
  match d.rotation with
  | some r => if r.walking then ((settledWalk r).boundary - r.boundary - r.doneInFlight.length) * pageTraffic d.grant else 0
  | none => 0

/-- A definition leaves its slot: what it holds is saved in its save area, its keys and its window are cleared, its generation
advances (R15, R119). BTR.MISS stays until the slot's next load (R104, R112). -/
def leaveSlot (id : Nat) (s : State) : State :=
  match getDef s id with
  | none => s
  | some d =>
    match d.slot with
    | none => s
    | some sl =>
      let fn := boundFn d
      let x := getSlot s sl
      let s1 := setDef (endBind id stCancelled s) id (fun d => { d with
        state := .defined, slot := none, persist := [], linkKeys := sealLinks d
        mem := writeBytes (saveShare (if d.state == .faulted then { d with persist := [] } else d))
          (cachedOffset d.grant) (cachedBytes x.qpCached)
        rotation := d.rotation.map settledWalk })
      let s2 := setSlot (advanceGen sl (charge sl 0 (flightTraffic d) s1)) sl (fun x => { x with
        keyCurrent := none, keyNext := none, qpCached := [], served := [], prevMem := 0, held := false, energy := 0
        powerNow := 0, energy100 := 0, slack := [], windows := [], lanes := [] })
      let s3 := tdiError fn s2
      let s4 := setFn s3 fn (fun f => { f with mbox := { f.mbox with session := none } })
      touchPage id (dropWaitingFrames id s4)

def servePartUnload (b : Box) (r : Req) (s : State) : Served :=
  match getDef s r.defId with
  | none => .now stWrongState [] s
  | some d =>
    if d.state == .running then .now stNotQuiesced [] s
    else if d.state == .resident || d.state == .quiesced || d.state == .faulted then
      if (getFn s (boundFn d)).busy then
        .later (enterBacklog b 0x0102 r (setFn s (boundFn d) (fun f => { f with unload := some (b, r) })))
      else .now stOk [] (leaveSlot r.defId s)
    else .now stWrongState [] s

/-- An unload that waited for a control operation goes on once BUSY has fallen (R151). -/
def resumeUnload (fn : Nat) (s : State) : State :=
  let f := getFn s fn
  match f.unload with
  | none => s
  | some (b, r) =>
    if f.busy then s
    else answerLater b 0x0102 r.seq r.defId stOk []
      (leaveSlot r.defId (setFn s fn (fun f => { f with unload := none })))

/-! ### PART_QUIESCE, PART_RESUME, PART_RESET (R113, R115, R179) -/

/-- A bind stops at a segment boundary when its partition quiesces (R415). -/
def quiesceBind (id : Nat) (s : State) : State := endBind id stCancelled s

/-- The tails of the QP queues by handle. -/
def queueTails (d : Def) : NMap (BitVec 32) :=
  d.qps.foldl (fun m p =>
    let m1 := match p.2.sq with | some q => mput m (hSend p.1) q.tail | none => m
    match p.2.rq with | some q => mput m1 (hRecv p.1) q.tail | none => m1) []

/-- A quiesce begins (R113): the fragments served for peers are dropped, each with a RETRY (R258). Every tile waiting on a peer
then waits at most the pre-empt-wait limit (R177). -/
def beginQuiesce (id : Nat) (flush : Bool) (limit : Nat) (who : Option (Box × Req)) (thenReset lapse : Bool) (s : State) :
    State :=
  eachRing id (forgetAhead id) (quiesceBind id (touchPage id (setDef (retryServing id (fun _ => true) s) id (fun d => { d with
    state := .quiescing
    quiesce := some { flush := flush, drainLimit := limit, tails := queueTails d, answer := who, thenReset := thenReset
                      lapse := lapse, flr := false } }))))

/-- R113. A MODE above 1 or a DRAIN_LIMIT above 100,000 is answered `MALFORMED` before the state is tested (log 64). -/
def servePartQuiesce (b : Box) (r : Req) (s : State) : Served :=
  let mode := fld r.payload 0 1
  let limit := fld r.payload 4 4
  match getDef s r.defId with
  | none => .now stWrongState [] s
  | some d =>
    if d.spent then .now stWrongState [] s
    else if 1 < mode || 100000 < limit then .now stMalformed [] s
    else if d.state == .resident then
      .now stOk [] (quiesceBind r.defId (touchPage r.defId (setDef s r.defId (fun d => { d with state := .quiesced }))))
    else if d.state == .running then
      .later (enterBacklog b 0x0104 r
        (beginQuiesce r.defId (mode == 1) (if limit == 0 then 10000 else limit) (some (b, r)) false false s))
    else .now stWrongState [] s

/-- PART_RESUME: each ring goes on from its save record, which is read under the slot's label (R15), and admission reopens
(R111, R126, R179). -/
def servePartResume (_ : Box) (r : Req) (s : State) : Served :=
  match getDef s r.defId with
  | none => .now stWrongState [] s
  | some d =>
    if d.spent || !(d.state == .resident || d.state == .quiesced) then .now stWrongState [] s
    else if d.grant.confidential && (getFn s (boundFn d)).tdi != .run then .now stAccessDenied [] s
    else if (List.range 16).any (fun k => bit d.grant.domeMask k && s.domes.fenced.getLsbD k) then
      .now stResourceShortfall [] s
    else
      let pay (s : State) : State := match d.slot with | some sl => charge sl 0 (d.saved.length * charge64 64) s | none => s
      .now stOk [] (touchPage r.defId (setDef (pay s) r.defId (fun d => { d with
        state := .running, scrubbed := false, saved := []
        rings := d.rings.map (fun p => (p.1, if d.saved.contains p.1 then resumeRing (savedRecord d p.1) p.2 else p.2)) })))

def servePartReset (_ : Box) (r : Req) (s : State) : Served :=
  match getDef s r.defId with
  | none => .now stWrongState [] s
  | some d =>
    if d.state == .resident || d.state == .running then .now stNotQuiesced [] s
    else if d.state == .quiesced || d.state == .faulted then
      .now stOk [] (touchPage r.defId (endBind r.defId stPartitionReset
        (resetEffects r.defId (setDef s r.defId (fun d => { d with state := .resident })))))
    else .now stWrongState [] s

/-! ### PART_SCRUB, PART_DESTROY (R122, R124, R533) -/

/-- The version under which a scrub writes, or none for a single-use key (R122, R383). -/
def scrubVersion (d : Def) : Option Nat :=
  let v := if (match d.rotation with | some r => decide (0 < r.pages) | none => false) then d.keyVersion + 1 else d.keyVersion
  if d.spent || v == 65535 then none else some (v + 1)

/-- A rotation that a scrub withdraws or stops is announced (R122). -/
def withdrawRotation (id : Nat) (ver : Option Nat) (s : State) : State :=
  match (getDef s id).bind (fun d => d.rotation) with
  | none => s
  | some ro =>
    notice ro.box 0x02 0x0300 ro.seq (ver.getD 65535) stCancelled id (setDef s id (fun d => { d with rotation := none }))

/-- The key under which a scrub writes: the next version, or a single-use key (R122). -/
def scrubKeyNow (s : State) (d : Def) (ver : Option Nat) : Option MemKey :=
  some (match ver with | some v => memKey d v | none => singleUseKey s)

/-- The scrub begins: the key version is destroyed, so that no line of the grant can be read again, and the lines read as
zero under the next one. The save area is among them: a later PART_RESUME or PART_LOAD reads zeros there (log 63). -/
def beginScrub (id : Nat) (b : Box) (r : Req) (s : State) : State :=
  match getDef s id with
  | none => s
  | some d =>
    let ver := scrubVersion d
    let s1 := withdrawRotation id ver (endBind id stCancelled s)
    let s2 := setDef s1 id (fun d => { d with
      state := .scrubbing, scrubFault := false, scrubBox := b, scrubSeq := r.seq, mem := []
      persist := if d.slot.isSome then d.persist else [], spent := d.spent || ver.isNone
      scrubKey := ver.getD 0, destroyed := match ver with | some v => v - 1 | none => 65535
      keyVersion := ver.getD 65535, background := scrubKeyNow s d ver
      linkKeys := if d.slot.isSome then d.linkKeys else [] })
    let s3 := match d.slot with
      | none => s2
      | some sl => setSlot (charge sl 0 (flightTraffic d) s2) sl (fun x => { x with keyCurrent := scrubKeyNow s d ver, keyNext := none })
    touchPage id { dropWaitingFrames id s3 with
      keep := { s3.keep with draws := s3.keep.draws + if ver.isNone then 3 else 0 } }

def servePartScrub (b : Box) (r : Req) (s : State) : Served :=
  match getDef s r.defId with
  | none => .now stWrongState [] s
  | some d =>
    if d.state == .running then .now stNotQuiesced [] s
    else if !(d.state == .defined || d.state == .quiesced) || (d.spent && d.scrubbed) then .now stWrongState [] s
    else .now stOk [] (beginScrub r.defId b r s)

/-- Notices that carry a destroyed definition's identifier are discarded while they are held (R437). -/
def dropHeld (id : Nat) (m : Mbox) : Mbox := { m with heldNotices := m.heldNotices.filter (fun n => fld n 8 2 != id) }

def servePartDestroy (_ : Box) (r : Req) (s : State) : Served :=
  match getDef s r.defId with
  | none => .now stWrongState [] s
  | some d =>
    if d.state != .defined then .now stWrongState [] s
    else if !d.scrubbed then .now stNotScrubbed [] s
    else
      let s1 := { s with defs := mdrop s.defs r.defId }
      let s2 := setFn s1 0 (fun f => { f with mbox := dropHeld r.defId f.mbox })
      .now stOk [] (setFn s2 (boundFn d) (fun f => { f with mbox := dropHeld r.defId f.mbox }))

/-! ### PART_RESIZE (R117) -/

/-- States in which most fields may change, and those in which the rest may. -/
def fourStates (st : PState) : Bool := st == .defined || st == .resident || st == .running || st == .quiesced
def twoStates (st : PState) : Bool := st == .defined || st == .quiesced

/-- Every field that differs meets its state rule (R117, row 1). -/
def resizeStateOk (d : Def) (g : Grant) : Bool :=
  let o := d.grant
  let four := fourStates d.state
  let two := twoStates d.state
  ((List.range 27).all (fun res => requested o res == requested g res) || four) &&
  (g.memGib ≤ o.memGib || four) && (o.memGib ≤ g.memGib || two) &&
  ((g.qps ≤ o.qps && g.cmdRings ≤ o.cmdRings && g.cplRings ≤ o.cplRings && g.fences ≤ o.fences) || four) &&
  ((o.qps ≤ g.qps && o.cmdRings ≤ g.cmdRings && o.cplRings ≤ g.cplRings && o.fences ≤ g.fences) || two) &&
  ((o.domeMask == g.domeMask && o.lanterns == g.lanterns && o.drumWays == g.drumWays && o.persistKib == g.persistKib &&
    o.qpCache == g.qpCache && o.linkKeys == g.linkKeys) || two) &&
  ((o.preemptWaitUs == g.preemptWaitUs && o.powerBudget == g.powerBudget) || four)

/-- Fields that never change (R117, row 2). -/
def resizeFixedOk (o g : Grant) : Bool :=
  o.tenantLabel == g.tenantLabel && o.confidential == g.confidential && o.bindPort == g.bindPort && o.bindVf == g.bindVf

/-- A page at or above an offset is mapped by the page table (R117). -/
def pageMappedAbove (s : State) (d : Def) (lo : Nat) : Bool :=
  match d.ptBase with
  | none => false
  | some base =>
    let fn := boundFn d
    (List.range 65536).any (fun i =>
      let e1 := leNat (hostRead s fn (base + i * 8) 8)
      bit e1 0 && bits e1 11 1 == 0 && (List.range 65536).any (fun j =>
        let e2 := leNat (hostRead s fn (bits e1 63 12 * 4096 + j * 8) 8)
        bit e2 0 && bits e2 15 4 == 0 && !bit e2 3 && lo ≤ bits e2 63 16 * 65536))

/-- A fence named by an admitted entry that has not completed. -/
def fenceInUse (d : Def) (i : Nat) : Bool :=
  let names (e : List Byte) : Bool := (fMode (eSignalFence e) != 0 && fIndex (eSignalFence e) == i) ||
    (fMode (eWaitFence e) != 0 && fIndex (eWaitFence e) == i)
  d.rings.any (fun p => (admittedEntries p.2).any (fun x => names x.2.1)) ||
  d.qps.any (fun p => (p.2.msgs.map (·.entry) ++ p.2.recvs.map (·.entry)).any names)

/-- The objects that a smaller reservation would release are unused (R117). -/
def releasedUnused (d : Def) (g : Grant) : Bool :=
  d.rings.all (fun p => p.1 < g.cmdRings) && d.cpls.all (fun p => p.1 < g.cplRings) &&
  d.qps.all (fun p => p.1 < g.qps || (p.2.sq.isNone && p.2.rq.isNone && p.2.state == .reset)) &&
  d.fences.all (fun p => p.1 < g.fences || (p.2.value == 0 && !p.2.abandoned)) &&
  (List.range d.grant.fences).all (fun i => i < g.fences || !fenceInUse d i)

/-- Each rule of the table that a changed field must meet, in the table's order; none when all hold. Chunks that are still
being scrubbed count as taken (log 64). -/
def resizeRule (s : State) (id : Nat) (d : Def) (g : Grant) (newChunks : List Nat) : Option Nat :=
  let o := d.grant
  let more := (List.range 27).any (fun res => requested o res < requested g res)
  let resources := o.domeMask != g.domeMask || o.lanterns != g.lanterns || o.drumWays != g.drumWays ||
    o.persistKib != g.persistKib || o.qpCache != g.qpCache || o.linkKeys != g.linkKeys
  if more && (match d.slot with | some sl => !tablesGive s g sl | none => false) then some stGrantShortfall
  else if o.memGib < g.memGib && (poolChunks s < sumGrants s (·.memGib) - o.memGib + g.memGib ||
      newChunks.length != g.memGib - o.memGib) then some stMemoryExhausted
  else if g.memGib < o.memGib && pageMappedAbove s d (g.memGib * chunkBytes g) then some stInUse
  else if !objectsOk s (some o) (some g) then some stResourceShortfall
  else if !releasedUnused d g then some stInUse
  else if resources && d.slot.isSome && !resourcesOk s id g then some stResourceShortfall
  else none

/-- The QPs of a reservation that grows or shrinks. -/
def resizeQps (s : State) (d : Def) (n : Nat) : NMap Qp :=
  if n ≤ d.qps.length then d.qps.filter (fun p => p.1 < n)
  else
    let extra := firstFree (qpnFree s) 65536 0 (n - d.qps.length)
    d.qps ++ ((List.range extra.length).map (· + d.qps.length)).zip (extra.map Qp.fresh)

/-- Keys below both usable sizes stay, and the keys of the save area move from the old top to the new one. What the
save area leaves has no key, so that it reads as zero lines (R117). -/
def moveSave (o g : Grant) (unit : Nat) (key : α → Nat) (place : Nat → α → α) (l : List α) : List α :=
  let a := memUsable o / unit
  let b := memUsable g / unit
  if a = b then l
  else l.filter (fun x => key x < min a b) ++
    (l.filter (fun x => a ≤ key x && key x < a + 4194304 / unit)).map (fun x => place (key x - a + b) x)

/-- A definition with its new grant: chunks, save area, QPs, persistent share. -/
def resized (s : State) (d : Def) (g : Grant) (newChunks : List Nat) : Def :=
  let o := d.grant
  { d with
    grant := g
    chunks := if o.memGib < g.memGib then d.chunks ++ newChunks else d.chunks.take g.memGib
    uninit := if o.memGib < g.memGib then d.uninit ++ (List.range newChunks.length).map (· + o.memGib)
      else d.uninit.filter (· < g.memGib)
    early := d.early.filter (fun p => p * 65536 < g.memGib * chunkBytes g)
    mem := moveSave o g 1 (·.1) (fun k c => (k, c.2)) d.mem
    poison := moveSave o g 64 id (fun k _ => k) d.poison
    persist := d.persist.filter (fun c => c.1 < g.persistKib * 1024)
    qps := resizeQps s d g.qps
    fences := d.fences.filter (fun p => p.1 < g.fences)
    linkKeys := d.linkKeys.filter (fun p => p.1 < g.linkKeys)
    rotation := d.rotation.map (fun r =>
      if g.memGib < o.memGib && 0 < r.pages then { r with pages := min r.pages (walkPages g) } else r) }

def servePartResize (_ : Box) (r : Req) (s : State) : Served :=
  let g := parseGrant r.payload
  match getDef s r.defId with
  | none => .now stWrongState [] s
  | some d =>
    let newChunks := firstFree (chunkFree s) (poolChunks s) 0 (g.memGib - d.grant.memGib)
    if d.state == .scrubbing || d.spent || !resizeStateOk d g then .now stWrongState [] s
    else if !resizeFixedOk d.grant g then .now stMalformed [] s
    else if !grantOk g then .now stMalformed [] s
    else match resizeRule s r.defId d g newChunks with
      | some st => .now st [] s
      | none =>
        let released := if g.memGib < d.grant.memGib then d.chunks.drop g.memGib else []
        let s1 := { s with vault := { s.vault with scrubChunks := s.vault.scrubChunks ++ released } }
        let s2 := match d.slot with
          | some sl => setSlot s1 sl (fun x => { x with
              qpCached := x.qpCached.take g.qpCache, windows := (resized s d g newChunks).qps.map (fun p => p.2.phys)
              lanes := grantLanes s sl g })
          | none => s1
        .now stOk [] (touchPage r.defId (setDef s2 r.defId (fun d => resized s d g newChunks)))

/-! ### Dirty logging (R129, R131) -/

def serveDirtyEnable (_ : Box) (r : Req) (s : State) : Served :=
  let a := fld r.payload 0 8
  let b := fld r.payload 8 8
  match getDef s r.defId with
  | none => .now stWrongState [] s
  | some d =>
    if d.spent then .now stWrongState [] s
    else if d.grant.confidential then .now stAccessDenied [] s
    else
      let l : Option DirtyLog := if a == 0 && b == 0 then none
        else some { a := BitVec.ofNat 64 a, b := BitVec.ofNat 64 b, onB := false, bits := [] }
      .now stOk [] (touchPage r.defId (setDef s r.defId (fun d => { d with dirty := l })))

/-- R131. With no logging active it is answered `WRONG_STATE` (log 64). -/
def serveDirtyHarvest (_ : Box) (r : Req) (s : State) : Served :=
  match getDef s r.defId with
  | none => .now stWrongState [] s
  | some d =>
    if d.spent then .now stWrongState [] s
    else match d.dirty with
      | none => .now stWrongState [] s
      | some l =>
        .now stOk (leBytes 8 s.bell.ns.toNat ++ leBytes 8 l.bits.length)
          (setDef s r.defId (fun d => { d with dirty := some { l with onB := !l.onB, bits := [] } }))

/-! ### The messages as commands -/

def kPartDefine : MsgKind := pfDefMsg 160 grantReservedOk
def kPartLoad : MsgKind := pfDefMsg 8 (fun p => zeros p 1 7)
def kPartUnload : MsgKind := pfDefMsg 0 noReserved
def kPartResize : MsgKind := pfDefMsg 160 grantReservedOk
def kPartQuiesce : MsgKind := ownDefMsg 8 (fun p => zeros p 1 3) true
def kPartResume : MsgKind := ownDefMsg 0 noReserved true
def kPartReset : MsgKind := ownDefMsg 0 noReserved true
def kPartScrub : MsgKind := pfDefMsg 0 noReserved
def kPartDestroy : MsgKind := pfDefMsg 0 noReserved
def kDirtyEnable : MsgKind := pfDefMsg 16 noReserved
def kDirtyHarvest : MsgKind := pfDefMsg 0 noReserved

/-- DIRTYLOG messages are not defined under minor 0 (R423). -/
def minorOne (b : Box) (k : MsgKind) (s : State) : Option MsgKind := if (getBox s b).minor == 0 then none else some k

/-- PART_DEFINE (R107). -/
def execPartDefine (b : Box) (r : Req) (s : State) : Result :=
  .next (volmi 0x0100 (some kPartDefine) (whenEntropy 0x0100 true derived servePartDefine) b r s)
/-- PART_LOAD (R112). `agree` is the result of a known-answer check that falls due at the load (R397). -/
def execPartLoad (b : Box) (r : Req) (agree : Bool) (s : State) : Result :=
  .next (volmi 0x0101 (some kPartLoad) (whenEntropy 0x0101 agree derived (servePartLoad agree)) b r s)
/-- PART_UNLOAD (R119). -/
def execPartUnload (b : Box) (r : Req) (s : State) : Result :=
  .next (volmi 0x0102 (some kPartUnload) servePartUnload b r s)
/-- PART_RESIZE (R117). -/
def execPartResize (b : Box) (r : Req) (s : State) : Result :=
  .next (volmi 0x0103 (some kPartResize) servePartResize b r s)
/-- PART_QUIESCE (R113). -/
def execPartQuiesce (b : Box) (r : Req) (s : State) : Result :=
  .next (volmi 0x0104 (some kPartQuiesce) servePartQuiesce b r s)
/-- PART_RESUME (R111, R126, R179). -/
def execPartResume (b : Box) (r : Req) (s : State) : Result :=
  .next (volmi 0x0105 (some kPartResume) servePartResume b r s)
/-- PART_RESET (R115). -/
def execPartReset (b : Box) (r : Req) (s : State) : Result :=
  .next (volmi 0x0106 (some kPartReset) servePartReset b r s)
/-- PART_SCRUB (R122). -/
def execPartScrub (b : Box) (r : Req) (s : State) : Result :=
  .next (volmi 0x0107 (some kPartScrub) (whenEntropy 0x0107 true derived servePartScrub) b r s)
/-- PART_DESTROY (R124). -/
def execPartDestroy (b : Box) (r : Req) (s : State) : Result :=
  .next (volmi 0x0108 (some kPartDestroy) servePartDestroy b r s)
/-- DIRTYLOG_ENABLE (R129). -/
def execDirtylogEnable (b : Box) (r : Req) (s : State) : Result :=
  .next (volmi 0x0400 (minorOne b kDirtyEnable s) serveDirtyEnable b r s)
/-- DIRTYLOG_HARVEST (R131). -/
def execDirtylogHarvest (b : Box) (r : Req) (s : State) : Result :=
  .next (volmi 0x0401 (minorOne b kDirtyHarvest s) serveDirtyHarvest b r s)

/-- A scrub ends (R111, R122): the lines are zero, clear of poison, and the notice goes to the PF. -/
def scrubEnd (id : Nat) (s : State) : State :=
  match getDef s id with
  | none => s
  | some d =>
    if d.state != .scrubbing then s
    else
      let bad := d.scrubFault
      let s1 := setDef s id (fun d => { d with
        state := if d.slot.isNone then .defined else if bad then .faulted else .quiesced
        scrubbed := !bad, scrubFault := false, background := none, poison := [], mem := [], uninit := [], early := [] })
      let s2 := { s1 with
        slots := s1.slots.map (fun p => (p.1, if d.spent && d.slot == some p.1 then { p.2 with keyCurrent := none } else p.2)) }
      notice .pf 0x01 0x0107 d.scrubSeq (if bad then 0 else 1) (if bad then stPartitionReset else stOk) id
        (touchPage id (if d.slot.isSome && bad then viewSet (boundFn d) 2 s2 else s2))

/-- SCRUB_COMPLETE (R122). -/
def execScrubComplete (id : Nat) (s : State) : Result := .next (whenOp (scrubEnd id) s)

/-- RELEASED_CHUNK_SCRUB_DONE: a released chunk rejoins the pool (R117). -/
def execReleasedChunkScrubDone (chunk : Nat) (s : State) : Result :=
  .next (whenOp (fun s => { s with vault := { s.vault with scrubChunks := s.vault.scrubChunks.filter (· != chunk) } }) s)

/-- A granted chunk has been written with zero lines under label 0x43: charged to the slot once the definition is resident
(R98, R379). -/
def chunkInit (id ordinal : Nat) (s : State) : State :=
  match getDef s id with
  | none => s
  | some d =>
    if !d.uninit.contains ordinal then s
    else
      let s1 := setDef s id (fun d => { d with
        uninit := d.uninit.filter (· != ordinal)
        poison := d.poison.filter (fun x => x * 64 / chunkBytes d.grant != ordinal || d.early.contains (x / 1024))
        early := d.early.filter (fun p => p * 65536 / chunkBytes d.grant != ordinal) })
      match d.slot with
      | some sl => charge sl 0 1073741824 s1
      | none => s1

/-- CHUNK_INIT_DONE (R379). -/
def execChunkInitDone (id ordinal : Nat) (s : State) : Result := .next (whenOp (chunkInit id ordinal) s)

/-- CONTAINED_RESET: a unit decides a `CONTAINED` cause against a slot (R116, R472). Any other class is no such event. -/
def execContainedReset (c : Cause) (s : State) : Result :=
  .next (if alive s && classOf s c == some .contained then detect1 c s else s)

end Sys2Proof.Machine
end

