-- ==== Sys2Proof/Machine/Power.lean ====
section
/-! DEFINITION. Power, thermal control, module input, the MAC totals and idle memory (R50, R70, R444 to R462). -/

namespace Sys2Proof.Machine

/-! ### The dome clock (R448) -/

/-- What the input says: THROTTLE_N is treated as asserted by its filtered level, or while FLT.CHATTER is set for it and the raw
input has not been high for 1 ms (R35, R36). -/
def throttleInput (s : State) : Bool := !s.pins.throttleN || (s.flt.chatter.getLsbD 1 && s.pins.chatterThrottle)

/-- THROTTLE_N acts as asserted (R448, R459). -/
def throttled (s : State) : Bool := s.power.throttle

/-- The dome clock is the lowest of its limits (R448). -/
def setClock (s : State) : State :=
  let p := s.power
  let lim := min (min p.ftarget p.thermal) (min p.freqCap (if throttled s then 400 else p.freqCap))
  { s with power := { p with clock := lim } }

/-- E in mW, and the peak credit in units of 0.1 ns (R447). -/
def envelopeMw : Nat := 420000
def creditFull : Nat := 400000000

/-- Down to a multiple of 25 MHz, and never below 400 MHz. -/
def floor25 (n : Nat) : Nat := max 400 (n / 25 * 25)

/-- The target of a step down. With no dome power the quotient has no value and the target is a free value (log 4). -/
def stepDown (p pd : Nat) (s : State) : Nat × State :=
  if pd == 0 then
    let r := drawFree s
    (floor25 (r.1.toNat % (s.power.freqCap + 1)), r.2)
  else (floor25 (s.power.clock * (envelopeMw - (p - pd)) / pd), s)

/-- The headroom test of one sample: p + pd × 25 / f ≤ E - 10 W. -/
def hasRoom (p pd f : Nat) : Bool := p * f + pd * 25 ≤ 410000 * f

/-- 100 µs have passed with headroom in every sample, and since the last raise. -/
def mayRaise (s : State) : Bool :=
  match s.power.roomSince with
  | none => false
  | some t => t + 100000 ≤ now s && s.power.lastRaise + 100000 ≤ now s

def raiseTarget (s : State) : State :=
  { s with power := { s.power with ftarget := min (s.power.ftarget + 25) s.power.freqCap, lastRaise := now s } }

/-- The loop's branch for its mode, with the credit counted. -/
def loopBranch (p pd : Nat) (s : State) : State :=
  if !s.power.envelope then
    let s1 := { s with power := { s.power with ftarget := s.power.freqCap } }
    if s.power.credit == 0 then
      let r := stepDown p pd s1
      { r.2 with power := { r.2.power with envelope := true, ftarget := r.1 } }
    else s1
  else
    let s1 := if envelopeMw < p then
        let r := stepDown p pd s
        { r.2 with power := { r.2.power with ftarget := r.1 } }
      else if mayRaise s then raiseTarget s else s
    if s1.power.credit == creditFull && !s1.power.peakDisable then { s1 with power := { s1.power with envelope := false } }
    else s1

/-- A wear count reaches its allowance (R458). -/
def wearCheck (s : State) : State :=
  if !s.power.wearExceeded && (18000000 * 10 ^ 9 ≤ s.life.acc.peakNs || 3600000 * 10 ^ 9 ≤ s.life.acc.hotNs) then
    detect1 (blockCause 0x0606 0) { s with power := { s.power with wearExceeded := true } }
  else s

/-- One sample of the current loop (R447), with the wear count and the means of R457. -/
def loopSample (p pd : Nat) (s : State) : State :=
  let w := s.power
  let hot := decide (envelopeMw < p)
  let keep := w.samples.filter (fun x => now s < x.1 + 10000000)
  let s1 := { s with
    power := { w with
      credit := if hot then w.credit - 1280 else min (w.credit + 128) creditFull
      roomSince := if hasRoom p pd w.clock then some (w.roomSince.getD (now s)) else none
      samples := (now s, p) :: keep, winSum := w.winSum + p, winN := w.winN + 1 }
    life := { s.life with acc := { s.life.acc with
      peakNs := if hot then satN 64 s.life.acc.peakNs 128 else s.life.acc.peakNs } } }
  wearCheck (setClock (loopBranch p pd s1))

/-! ### Partition budgets (R454 to R456) -/

/-- The allowance of a window in mW × ns. -/
def allowance (b : Nat) : Nat := b * 5000 * 1048576

/-- A slot whose attributed energy has reached its allowance is held until the next window. -/
def holdIfSpent (slot : Nat) (s : State) : State :=
  match inSlot s slot with
  | none => s
  | some (_, d) =>
    let x := getSlot s slot
    if d.grant.powerBudget != 0 && !x.held && allowance d.grant.powerBudget ≤ x.energy then
      { setSlot s slot (fun x => { x with held := true }) with
        power := { s.power with budgetHit := s.power.budgetHit ||| BitVec.ofNat 64 (2 ^ slot) } }
    else s

/-- Energy in mW × ns is attributed to a resident slot. -/
def addEnergy (slot e : Nat) (s : State) : State :=
  if (inSlot s slot).isNone then s
  else holdIfSpent slot (setSlot s slot (fun x => { x with energy := x.energy + e, energy100 := x.energy100 + e }))

/-- The loop and the meter run: power applied, out of reset and not in the safe state. -/
def whenRunning (f : State → State) (s : State) : State :=
  if alive s && !s.flt.safe && s.boot.stage != .stopped then f s else s

/-- The static power of R444 that a slot answers for, in mW: for each dome it is granted, 40 W ÷ 16 divided among the residents
granted that dome (R455). -/
def staticShare (s : State) (g : Grant) : Nat :=
  ((List.range 16).map (fun k => if bit g.domeMask k then 2500 / (grantedDome s k).length else 0)).sum

/-- What the meter adds to each resident slot at a sample: its static share over the 128 ns since the last one (R446, R455). -/
def addStatic (s : State) : State :=
  s.defs.foldl (fun t p => match p.2.slot with
    | some sl => addEnergy sl (staticShare s p.2.grant * 128) t
    | none => t) s

/-- POWER_SAMPLE (R446, R447, R455): the estimates in mW, and for each slot the energy of its tiles and of its bytes since the
last sample, in mW × ns, as the meter weighs them (log 82). -/
def execPowerSample (p pd : Nat) (energy : List (Nat × Nat)) (s : State) : Result :=
  .next (whenRunning (fun s => energy.foldl (fun t e => addEnergy e.1 e.2 t) (addStatic (loopSample p pd s))) s)

/-- PEAK_CREDIT_EXHAUSTED: the sample at which the credit reaches 0 in `NORMAL` (R447). -/
def execPeakCreditExhausted (p pd : Nat) (s : State) : Result :=
  .next (whenRunning (fun s =>
    if !s.power.envelope && envelopeMw < p && s.power.credit ≤ 1280 then loopSample p pd s else s) s)

/-- PEAK_CREDIT_FULL: the credit is full again in `ENVELOPE` (R447). -/
def execPeakCreditFull (s : State) : Result :=
  .next (whenRunning (fun s =>
    if s.power.envelope && !s.power.peakDisable && creditFull ≤ s.power.credit + 128 then
      { s with power := { s.power with credit := creditFull, envelope := false } }
    else s) s)

/-- ENVELOPE_RAISE (R447). -/
def execEnvelopeRaise (s : State) : Result :=
  .next (whenRunning (fun s => if s.power.envelope && mayRaise s then setClock (raiseTarget s) else s) s)

/-- POWER_BUDGET_EXHAUSTED (R456). -/
def execPowerBudgetExhausted (slot : Nat) (s : State) : Result := .next (whenOp (holdIfSpent slot) s)

/-- POWER_WINDOW_END: POWER_NOW of each slot and the block's mean over 100 ms (R457). -/
def powerWindowEnd (s : State) : State :=
  let w := s.power
  let s1 := { s with power := { w with
    winW := (if w.winN == 0 then 0 else w.winSum / w.winN / 5000 * 5), winSum := 0, winN := 0 } }
  (s1.defs.filter (fun p => p.2.slot.isSome)).foldl (fun s p =>
    let sl := p.2.slot.getD 0
    touchPage p.1 (setSlot s sl (fun x => { x with powerNow := x.energy100 / 100000000 / 5000, energy100 := 0 }))) s1

def execPowerWindowEnd (s : State) : Result := .next (whenOp powerWindowEnd s)

/-- WEAR_RATED (R458). -/
def execWearRated (s : State) : Result := .next (whenAlive wearCheck s)

/-! ### Thermal behaviour (R449 to R451) -/

def hottest (l : List Nat) : Nat := l.foldl max 0

/-- THERMAL_SENSOR_READ (R450): the 24 readings in °C, the domes' first. In the safe state the limit and its flag stand as they
were (R480). -/
def thermalRead (temps : List Nat) (s : State) : State :=
  let t := hottest temps
  let entry := decide (100 < t) && decide (hottest s.power.temps ≤ 100)
  let falls := entry && !s.flt.safe
  let n := if 115 ≤ t then s.power.hotReadings + 1 else 0
  let s1 := { s with
    power := { s.power with
      temps := temps, hotReadings := n, thermalHot := s.power.thermalHot || falls
      thermal := if falls then s.power.clock else s.power.thermal }
    life := { s.life with acc := { s.life.acc with
      hotNs := if 100 < t then satN 64 s.life.acc.hotNs 10000 else s.life.acc.hotNs } } }
  let s2 := wearCheck (if entry then detect1 (blockCause 0x0600 0) s1 else s1)
  if 2 ≤ n then detect1 (blockCause 0x0601 0) s2 else s2

def execThermalSensorRead (temps : List Nat) (s : State) : Result := .next (whenAlive (thermalRead temps) s)

/-- The limit binds while it lies below the loop's target and the cap; the throttle runs beneath it (R448). -/
def thermalBinds (s : State) : Bool := s.power.thermal < min s.power.ftarget s.power.freqCap

/-- THERMAL_LIMIT_STEP: once every 1 ms (R450). The limit rises by 25 MHz a step, also after it has ceased to bind, so that it
never lifts the clock by more (log 81). -/
def thermalStep (s : State) : State :=
  let t := hottest s.power.temps
  let w := s.power
  if 100 < t && w.thermalHot then setClock { s with power := { w with thermal := max 400 (w.thermal - 25) } }
  else if t ≤ 97 && (w.thermalHot || w.thermal < Config.binTop) then
    let s1 := { s with power := { w with thermal := max w.thermal (min (w.thermal + 25) Config.binTop) } }
    setClock { s1 with power := { s1.power with thermalHot := thermalBinds s1 } }
  else s

def execThermalLimitStep (s : State) : Result := .next (whenRunning thermalStep s)

/-- HBM_TEMP_POLL: the refresh rate of each stack follows its temperature (R57), and HBM_HOT is recorded once per excursion
above 95 °C (R451). -/
def hbmPoll (temps : List Nat) (s : State) : State :=
  let l := (List.range (ports s)).map (fun p => nth temps p 0)
  let hot := (List.range l.length).filter (fun p => 95 < nth l p 0)
  let new := hot.filter (fun p => !s.power.hbmHot.contains p)
  let rates := l.map Config.refreshRate
  detect 0x06 (new.map (fun p => blockCause 0x0602 (BitVec.ofNat 64 p)))
    (rates.zipIdx.foldl (fun s r => emit s (.refresh r.2 r.1))
      { s with power := { s.power with hbmTemps := l, hbmHot := hot, refresh := rates } })

def execHbmTempPoll (temps : List Nat) (s : State) : Result := .next (whenOp (hbmPoll temps) s)

/-- Nothing keeps the memory awake (R452). -/
def memoryIdle (s : State) : Bool :=
  s.defs.all (fun p => p.2.state != .running && p.2.state != .scrubbing && p.2.uninit.isEmpty &&
    (match p.2.rotation with | some r => !r.walking | none => true)) &&
  s.vault.scrubChunks.isEmpty && s.vault.ports.all (fun p => !p.patrol)

/-- The clock of a memory port runs where the port is populated (R57), and that of a dome where a resident definition is
granted it, unless the block is idle (R452). -/
def portClocked (s : State) (port : Nat) : Bool := port < ports s
def domeClocked (s : State) (dome : Nat) : Bool := !(grantedDome s dome).isEmpty && !memoryIdle s

/-- While something keeps the memory awake no port stays in self-refresh: what runs makes requests of every port (R452, log 86). -/
def wakeBusy (s : State) : State := if memoryIdle s then s else { s with power := { s.power with refreshing := [] } }

/-- SELF_REFRESH_ENTRY (R452). -/
def execSelfRefreshEntry (port : Nat) (s : State) : Result :=
  .next (whenOp (fun s =>
    if port < ports s && memoryIdle s then
      { s with power := { s.power with refreshing := insNat port s.power.refreshing } }
    else s) s)

/-! ### Module input (R70, R453) -/

/-- A signed field of `w` bits. -/
def signedBits (w v : Nat) : Int := if v < 2 ^ (w - 1) then v else (v : Int) - 2 ^ w

/-- A LINEAR11 value in units of 2^-16. -/
def linear11 (x : BitVec 16) : Int :=
  signedBits 11 (x.toNat % 2048) * 2 ^ ((signedBits 5 (x.toNat / 2048)) + 16).toNat

/-- A quotient rounded down and held in 16 bits. -/
def cut16 (x : Int) : Nat := min 65535 x.toNat

/-- A value in hundredths. -/
def hundredths (x : BitVec 16) : Nat := cut16 (linear11 x * 100 / 65536)

/-- The module input power in whole watts. -/
def inputWatts (vin iin : List (BitVec 16)) : Nat :=
  cut16 (((List.range vin.length).foldl (fun (t : Int) k =>
    t + linear11 (nth vin k 0) * linear11 (nth iin k 0)) 0) / 4294967296)

def vinOut (x : BitVec 16) : Bool := linear11 x < 40 * 65536 || 60 * 65536 < linear11 x

/-- The readings of one kind with the last value kept where a read failed twice. -/
def keepLast (n : Nat) (new : List (Option (BitVec 16))) (old : List (BitVec 16)) : List (BitVec 16) :=
  (List.range n).map (fun k => (nth new k none).getD (nth old k 0))

/-- The converters whose read failed twice. -/
def failedReads (n : Nat) (new : List (Option (BitVec 16))) : List Nat :=
  (List.range n).filter (fun k => (nth new k none).isNone)

/-- PMBUS_POLL: READ_VIN and READ_IIN of each listed converter; none where both tries of that read failed (R70,
R453); the detail of that event is the converter's index (log 93). -/
def pmbusPoll (readings : List (Option (BitVec 16) × Option (BitVec 16))) (s : State) : State :=
  let n := s.boot.convs
  let vins := readings.map (·.1)
  let iins := readings.map (·.2)
  let vin := keepLast n vins s.power.vin
  let iin := keepLast n iins s.power.iin
  let failed := failedReads n vins ++ failedReads n iins
  let out := (List.range n).filter (fun k =>
    match nth vins k none with | some x => vinOut x | none => s.power.rangeOut.contains k)
  let new := out.filter (fun k => !s.power.rangeOut.contains k)
  let w := inputWatts vin iin
  let mk (code k : Nat) := blockCause code (BitVec.ofNat 64 k)
  detect 0x06 (new.map (mk 0x0603) ++ failed.map (mk 0x0605)) { s with power := { s.power with
    vin := vin, iin := iin, stale := !failed.isEmpty, rangeOut := out, inputW := w
    inputs := (now s, w) :: s.power.inputs.filter (fun x => now s < x.1 + 100000000) } }

def execPmbusPoll (readings : List (Option (BitVec 16) × Option (BitVec 16))) (s : State) : Result :=
  .next (whenAlive (pmbusPoll readings) s)

/-- PMB_ALERT: STATUS_WORD is read from each listed converter and recorded; the detail holds the words, the first converter's
lowest. A read that fails twice keeps the last word and has its own event, and one that succeeds ends INPUT_STALE (R70, R453;
log 93). -/
def pmbAlert (words : List (Option (BitVec 16))) (s : State) : State :=
  let n := s.boot.convs
  let l := keepLast n words s.power.statusWord
  let failed := failedReads n words
  detect 0x06 (blockCause 0x0604 (BitVec.ofNat 64 (leNat (l.flatMap (fun w => leBytes 2 w.toNat)))) ::
      failed.map (fun k => blockCause 0x0605 (BitVec.ofNat 64 k)))
    { s with pins := { s.pins with pmbAlertN := false }
             power := { s.power with statusWord := l, stale := !failed.isEmpty } }

def execPmbAlert (words : List (Option (BitVec 16))) (s : State) : Result := .next (whenAlive (pmbAlert words) s)

/-- MAC_STATS_POLL: every counter of every port is added to its 64-bit total. The telemetry sequencer runs from start-up to
block reset, whatever the belfry does and in the safe state (R50). -/
def macPoll (counts : List (List Nat)) (s : State) : State :=
  { s with xpt := { s.xpt with mac := (List.range 8).map (fun p =>
      (List.range 64).map (fun i => nth (nth s.xpt.mac p []) i 0 + BitVec.ofNat 64 (nth (nth counts p []) i 0 % 2 ^ 32))) } }

def execMacStatsPoll (counts : List (List Nat)) (s : State) : Result :=
  .next (if alive s && s.boot.stage == .ready then macPoll counts s else s)

/-! ### What readers see (R457, R459 to R462) -/

/-- PWR.STATUS.MODE. -/
def pwrMode (s : State) : Nat := if s.flt.safe || !alive s then 2 else if s.power.envelope then 1 else 0

/-- BLOCK_W: the mean of the last 10 ms, or of the last window in steps of 5 W under the lock. -/
def blockWatts (s : State) : Nat :=
  if s.keep.confLock then s.power.winW
  else
    let l := s.power.samples.filter (fun x => now s < x.1 + 10000000)
    if l.isEmpty then 0 else (l.map (·.2)).sum / l.length / 1000

/-- INPUT_W. -/
def inputShown (s : State) : Nat :=
  if s.keep.confLock then
    if s.power.inputs.isEmpty then 0 else (s.power.inputs.map (·.2)).sum / s.power.inputs.length / 5 * 5
  else s.power.inputW

/-- Whole seconds, saturating at 32 bits. -/
def seconds (ns : Nat) : Nat := min (2 ^ 32 - 1) (ns / 10 ^ 9)

def creditUs (s : State) : Nat := s.power.credit / 10000

/-- The 128-byte record of TELEMETRY_GET with KIND 2 (R462). -/
def powerRecord (s : State) : List Byte :=
  let w := s.power
  padTo 128 (
    leBytes 8 s.bell.ns.toNat ++ leBytes 2 (blockWatts s) ++ leBytes 2 (inputShown s) ++ leBytes 2 w.clock ++
    leBytes 1 (pwrMode s) ++
    leBytes 1 (bitAt (throttled s) 0 + bitAt w.thermalHot 1 + bitAt w.wearExceeded 2 + bitAt w.stale 3 +
      bitAt s.keep.confLock 4) ++
    leBytes 4 (creditUs s) ++
    (List.range 4).flatMap (fun k => leBytes 2 (hundredths (nth w.vin k 0))) ++
    (List.range 4).flatMap (fun k => leBytes 2 (if s.keep.confLock then 0 else hundredths (nth w.iin k 0))) ++
    (List.range 16).flatMap (fun k => leBytes 1 (min 255 (nth w.temps k 0))) ++
    (List.range 8).flatMap (fun k => leBytes 1 (min 255 (nth w.hbmTemps k 0))) ++ List.replicate 4 0 ++
    leBytes 4 (seconds s.life.acc.peakNs) ++ leBytes 4 (seconds s.life.acc.hotNs) ++
    (List.range 4).flatMap (fun k => leBytes 2 (nth w.statusWord k 0).toNat))

end Sys2Proof.Machine
end

