-- ==== Sys2Proof/Machine/Vault.lean ====
section
/-! DEFINITION. The vault: reads, writes, merges, poison, debug access, patrol and the rekey walk (R364 to R389). -/

namespace Sys2Proof.Machine

/-! ### Attribution -/

/-- A vault cause against a definition: in its slot, or the owner alone where it holds none (R386). The detail is the block
line index. -/
def vaultCause (s : State) (id code addr : Nat) : Cause := slotCause s id code (BitVec.ofNat 64 (addr / 256))

/-- What the tag check finds of a line as the stack returns it: a line as the vault stored it carries the tag of R370 with the
line's own POISON. -/
def tagFound (s : State) (d : Def) (off : Nat) : Stored → TagCheck
  | .same => if linePoisoned d off then .poisoned else .ok
  | .other line tag => checkTag (lineKey s d off) (lineIndex d off) line tag
  | .sector => .sector

/-- The line that the stack returns takes the place of the one stored: what it decrypts to is what the line holds from then
on (R367). -/
def takeLine (id off : Nat) (st : Stored) (s : State) : State :=
  match st, getDef s id with
  | .other line _, some d =>
    let plain := decLine (lineKey s d off) (lineIndex d off) line
    setDef s id (fun d => { d with mem := writeBytes d.mem (off / 256 * 256) plain })
  | _, _ => s

/-- The decoder's result (R368): an error in one symbol of a sector is corrected, one in two is detected. What an error in more
gives the manual does not say: `w` is a free value that decides (log 86). -/
def decodeLine (errs : List Nat) (w : Word) : Ecc :=
  if errs.any (· == 2) || (errs.any (3 ≤ ·) && w.getLsbD 0) then .bad
  else match errs.countP (· == 1) + (if w.getLsbD 1 then errs.countP (3 ≤ ·) else 0) with
    | 0 => .clean
    | n => .corrected n

def eccOf (f : LineFound) (s : State) : Ecc × State :=
  if f.errs.any (3 ≤ ·) then (decodeLine f.errs (drawFree s).1, (drawFree s).2) else (decodeLine f.errs 0, s)

/-- Sectors corrected, counted by their port and recorded (R378, R386). -/
def noteCorrected (c : Cause) (addr n : Nat) (s : State) : State :=
  detect1 { c with code := 0x0700 } (setPort s addr (fun p => { p with eccCorrected := satAdd p.eccCorrected n }))

/-- One read of a line of a definition as the decoder and the tag check find it (R374, R375, R378). A line that they find at
fault, and one already poisoned, returns POISONED. -/
def readLine (id off : Nat) (f : LineFound) (s0 : State) : State :=
  match getDef s0 id with
  | none => s0
  | some d =>
    let addr := blockAddr d off
    if linePoisoned d off then s0
    else
      let x := eccOf f s0
      let s := x.2
      if x.1 == .bad then detect1 (vaultCause s id 0x0701 addr) (poisonNew id off s)
      else match (if d.grant.confidential then tagFound s d off f.stored else .ok) with
        | .sector => detect1 (vaultCause s id 0x0701 addr)
            ((List.range 8).foldl (fun s k => poisonNew id (off / 2048 * 2048 + k * 256) s) s)
        | .bad => detect1 (vaultCause s id 0x0702 addr)
            (poisonNew id off (setPort (takeLine id off f.stored s) addr (fun p => { p with tagFail := satAdd p.tagFail 1 })))
        | .poisoned => setDef (takeLine id off f.stored s) id (fun d => d.poisonLine off)
        | .ok => match x.1 with
          | .corrected n => noteCorrected (vaultCause s id 0x0700 addr) addr n (takeLine id off f.stored s)
          | _ => takeLine id off f.stored s

/-- Lines that an access of `n` bytes touches. -/
def lineCount (off n : Nat) : Nat := if n == 0 then 0 else (off + n - 1) / 256 + 1 - off / 256

/-- The lines of an access of which something is found, in order, with the offset of each (R369, R374). -/
def foundLines (off n : Nat) (l : List LineFound) : List (Nat × LineFound) :=
  (l.filter (fun f => f.line < lineCount off n)).map (fun f => (off / 256 * 256 + f.line * 256, f))

/-- A read of a range of a definition, each line on its own. -/
def readLines (id off n : Nat) (l : List LineFound) (s : State) : State :=
  (foundLines off n l).foldl (fun s p => readLine id p.1 p.2 s) s

/-- The plaintext of a range of the reserve. What label 0x40 has not written reads as zeros: the manual gives no layout of the
definitions, contexts and tables that the reserve holds, and the model keeps those beside it (log 87). -/
def reserveLine (s : State) (addr n : Nat) : List Byte := readBytes s.vault.reserve addr n

/-- The tag check of a line of the block reserve, which is laid out as a confidential grant under the block key (R372). -/
def reserveTag (s : State) (addr : Nat) : Stored → TagCheck
  | .same => .ok
  | .other line tag => checkTag (s.vault.blockKey.getD (memKeyOf 0 [])) (addr / 256) line tag
  | .sector => .sector

def reserveCause (code addr : Nat) : Cause := blockCause code (BitVec.ofNat 64 (addr / 256))

/-- One read of a line of the block reserve: a failure is `FATAL` (R386). -/
def readReserve (addr : Nat) (f : LineFound) (s0 : State) : State :=
  let x := eccOf f s0
  let s := x.2
  if x.1 == .bad || reserveTag s addr f.stored != .ok then detect1 (reserveCause 0x0704 addr) s
  else
    let s1 := match f.stored with
      | .other line _ =>
        let plain := decLine (s.vault.blockKey.getD (memKeyOf 0 [])) (addr / 256) line
        { s with vault := { s.vault with reserve := writeBytes s.vault.reserve (addr / 256 * 256) plain } }
      | _ => s
    match x.1 with
    | .corrected n => noteCorrected (reserveCause 0x0700 addr) addr n s1
    | _ => s1

/-- A read of a range of the block reserve. -/
def reserveReads (addr n : Nat) (l : List LineFound) (s : State) : State :=
  (foundLines addr n l).foldl (fun s p => readReserve p.1 p.2 s) s

/-- Where a chunk's offsets end and its tag carve-out begins, in a confidential grant (R372). -/
def carveOut : Nat := 1040187392

/-- A range of the block reserve outside the carve-outs of its two chunks (R372). -/
def inReserve (addr n : Nat) : Bool := addr < reserveBytes && addr % 1073741824 + n ≤ carveOut

/-- A request refused by the parapet (R13). -/
def parapetDenied (label addr : Nat) (s : State) : State :=
  let c : Cause := if label < 64 then
      { code := 0x0C00, slot := some label, owner := none, loadGen := (getSlot s label).loadGen.toNat
        detail := BitVec.ofNat 64 addr, injected := false }
    else blockCause 0x0C00 (BitVec.ofNat 64 addr)
  emit (detect1 c s) (.memory label stAccessDenied [])

/-- Offsets a slot's requests may reach: the whole offset space, the save area among it (R13, R15, R384). -/
def inOffsets (d : Def) (addr n : Nat) : Bool := addr + n ≤ memUsable d.grant + 4194304

/-- A range lies in a shared window over a slot's QP contexts (R13, R109). -/
def inSharedWindow (s : State) (slot addr n : Nat) : Bool :=
  (getSlot s slot).windows.any (fun p => Config.contextAddr p ≤ addr && addr + n ≤ Config.contextAddr p + Config.contextBytes)

/-- A read under a slot's label through a shared window. -/
def windowRead (label addr n : Nat) (l : List LineFound) (s : State) : State :=
  if !inSharedWindow s label addr n then parapetDenied label addr s
  else
    let s1 := reserveReads addr n l (charge label 0 (charge64 n) s)
    emit s1 (.memory label stOk (if s1.flt.safe then [] else reserveLine s1 addr n))

/-- A read under a slot's label. -/
def slotRead (label addr n : Nat) (l : List LineFound) (s : State) : State :=
  match inSlot s label with
  | none => parapetDenied label addr s
  | some (id, d) =>
    if !inOffsets d addr n then parapetDenied label addr s
    else
      let s1 := readLines id addr n l (charge label 0 (charge64 n) s)
      let d1 := (getDef s1 id).getD d
      if rangePoisoned d1 addr n then emit s1 (.memory label stPoisoned [])
      else emit s1 (.memory label stOk (readBytes d1.mem addr n))

/-- The lines are poisoned whose tags stand in the sectors at fault of a line of a tag carve-out (R374). -/
def poisonTags (addr : Nat) (f : LineFound) (s : State) : State :=
  (List.range 4).foldl (fun s k =>
    let tag := ((addr - reserveBytes) % 1073741824 - carveOut) / 8 + 8 * k
    if 2 ≤ nth f.errs k 0 && tag * 256 < carveOut then poisonTagged ((addr - addr % 1073741824) / 256 + tag) s else s) s

/-- The patrol's read of a line: it checks ECC only (R378). -/
def patrolLine (addr : Nat) (f : LineFound) (s0 : State) : State :=
  let x := eccOf f s0
  let s := x.2
  let owner := ownerAtBlock s addr
  let cause (code : Nat) : Cause := match owner with | some (id, _, _) => vaultCause s id code addr | none => reserveCause code addr
  match owner with
  | some (id, d, some off) =>
    if linePoisoned d off then s0
    else match x.1 with
      | .clean => s
      | .corrected n => noteCorrected (cause 0x0700) addr n s
      | .bad => detect1 (cause 0x0701) (poisonNew id off s)
  | _ => match x.1 with
    | .clean => s
    | .corrected n => noteCorrected (cause 0x0700) addr n s
    | .bad =>
      if owner.isSome then detect1 (cause 0x0701) (poisonTags addr f s)
      else detect1 (cause (if addr < reserveBytes then 0x0704 else 0x0707)) s

/-- A pass ends on the ports whose last line a read takes (R378, R388). -/
def endPatrol (addr n : Nat) (s : State) : State :=
  let top := ports s * s.boot.stackGib * 4194304 - ports s
  { s with vault := { s.vault with ports := (List.range s.vault.ports.length).map (fun p =>
      let x := nth s.vault.ports p VltPort.reset
      if p < ports s && 0 < n && addr / 256 ≤ top + p && top + p ≤ (addr + n - 1) / 256 then { x with patrol := false } else x) } }

/-- A read under label 0x43: the patrol's (R378, R384). The walk's reads are REKEY_PAGE_DONE's. -/
def backgroundRead (addr n : Nat) (l : List LineFound) (s : State) : State :=
  endPatrol addr n ((foundLines addr n l).foldl (fun s p => patrolLine p.1 p.2 s) s)

/-- Memory that is populated (R56). -/
def populated (s : State) (addr n : Nat) : Bool := addr + n ≤ ports s * s.boot.stackGib * 1073741824

/-! ### Debug access (R385) -/

/-- The definition and offset that a debug request may reach. -/
def debugTarget (s : State) (addr n : Nat) : Option (Nat × Nat) :=
  if s.keep.confLock || n == 0 then none
  else match ownerAtBlock s addr, ownerAtBlock s (addr + n - 1) with
    | some (id, d, some off), some (id2, _, some off2) =>
      if id == id2 && off2 + 1 == off + n && d.slot.isSome && !d.grant.confidential && off + n ≤ memUsable d.grant then
        some (id, off)
      else none
    | _, _ => none

def debugDenied (addr : Nat) (s : State) : State :=
  emit (detect1 (blockCause 0x0706 (BitVec.ofNat 64 (addr / 256))) s) (.debug stAccessDenied [])

def debugRead (addr n : Nat) (l : List LineFound) (s : State) : State :=
  match debugTarget s addr n with
  | none => debugDenied addr s
  | some (id, off) =>
    let s1 := readLines id off n l s
    match getDef s1 id with
    | none => s1
    | some d =>
      if rangePoisoned d off n then emit s1 (.debug stPoisoned [])
      else emit s1 (.debug stOk (readBytes d.mem off n))

/-- Whether a write of `n` bytes at `off` needs the old data of the line at `base` (R369). -/
def needsMerge (confidential : Bool) (off n base : Nat) : Bool :=
  let unit := if confidential then 256 else 64
  !((max off base) % unit == 0 && (min (off + n) (base + 256)) % unit == 0)

/-- A write to a definition's lines, each on its own: a merge reads its line first, and where that read fails the line stays
poisoned with the new bytes merged into it (R369, R376, R377). -/
def lineWrite (id off : Nat) (l : List LineFound) (bs : List Byte) (log : Bool) (s : State) : State :=
  match getDef s id with
  | none => s
  | some d =>
    let s1 := ((foundLines off bs.length l).filter (fun p => needsMerge d.grant.confidential off bs.length p.1)).foldl
      (fun s p => readLine id p.1 p.2 s) s
    if log then memWrite id off bs s1 else setDef s1 id (fun d => d.write off bs)

def debugWrite (addr : Nat) (l : List LineFound) (bs : List Byte) (s : State) : State :=
  match debugTarget s addr bs.length with
  | none => debugDenied addr s
  | some (id, off) => emit (lineWrite id off l bs false s) (.debug stOk [])

/-! ### Requests -/

/-- The block address at which a request reaches memory; a refused request reaches none (R13, R385). -/
def reachedAt (m : MemReq) (n : Nat) (s : State) : Option Nat :=
  if m.label < 64 then
    if m.window then if inSharedWindow s m.label m.addr n then some m.addr else none
    else match inSlot s m.label with
      | some (_, d) => if inOffsets d m.addr n then some (blockAddr d m.addr) else none
      | none => none
  else if m.label == 0x40 then if inReserve m.addr n then some m.addr else none
  else if m.label == 0x42 then if (debugTarget s m.addr n).isSome then some m.addr else none
  else if m.label == 0x43 then some m.addr
  else none

/-- The port that a request reaches leaves self-refresh (R452). -/
def wakeFor (m : MemReq) (n : Nat) (s : State) : State :=
  match reachedAt m n s with
  | some a => { s with power := { s.power with refreshing := s.power.refreshing.filter (· != portOfLine s a) } }
  | none => s

/-- A read by label (R13, R374, R375, R384). No unit issues a request under a reserved label, and one has no effect (log
61). -/
def memoryRead (m : MemReq) (s : State) : State :=
  if m.label < 64 then
    if m.window then windowRead m.label m.addr m.len m.found s else slotRead m.label m.addr m.len m.found s
  else if m.label == 0x40 then
    if inReserve m.addr m.len then
      let s1 := reserveReads m.addr m.len m.found s
      emit s1 (.memory 0x40 stOk (if s1.flt.safe then [] else reserveLine s1 m.addr m.len))
    else parapetDenied 0x40 m.addr s
  else if m.label == 0x42 then debugRead m.addr m.len m.found s
  else if m.label == 0x43 then backgroundRead m.addr m.len m.found s
  else s

/-- A write under a slot's label (R13, R130, R369). -/
def slotWrite (label addr : Nat) (l : List LineFound) (bs : List Byte) (s : State) : State :=
  match inSlot s label with
  | none => parapetDenied label addr s
  | some (id, d) =>
    if !inOffsets d addr bs.length then parapetDenied label addr s
    else
      let inUse := decide (addr + bs.length ≤ memUsable d.grant)
      emit (lineWrite id addr l bs inUse (charge label 0 (charge64 bs.length) s)) (.memory label stOk [])

/-- A write to the block reserve, which is merged as in a confidential grant (R369, R372). -/
def reserveWrite (addr : Nat) (l : List LineFound) (bs : List Byte) (s : State) : State :=
  let s1 := ((foundLines addr bs.length l).filter (fun p => needsMerge true addr bs.length p.1)).foldl
    (fun s p => readReserve p.1 p.2 s) s
  { s1 with vault := { s1.vault with reserve := writeBytes s1.vault.reserve addr bs } }

/-- A write under a slot's label through a shared window. -/
def windowWrite (label addr : Nat) (l : List LineFound) (bs : List Byte) (s : State) : State :=
  if !inSharedWindow s label addr bs.length then parapetDenied label addr s
  else emit (reserveWrite addr l bs (charge label 0 (charge64 bs.length) s)) (.memory label stOk [])

/-- A write by the background engine: it clears the poison of what it covers, and is charged to the slot that owns the line
(R98). The bytes of a tag carve-out follow from the lines that they check, and nothing reads a chunk of the free pool, so a
write to either leaves no other state (R366, R370; log 86). -/
def backgroundWrite (addr : Nat) (bs : List Byte) (s : State) : State :=
  if inReserve addr bs.length then reserveWrite addr [] bs s
  else match ownerAtBlock s addr with
    | some (id, d, some off) =>
      let s1 := setDef s id (fun d => d.write off bs)
      match d.slot with | some sl => charge sl 0 (charge64 bs.length) s1 | none => s1
    | _ => s

/-- A write by label (R13, R369, R376, R377). Under a reserved label it has no effect (log 61). -/
def memoryWrite (m : MemReq) (bs : List Byte) (s : State) : State :=
  if m.label < 64 then
    if m.window then windowWrite m.label m.addr m.found bs s else slotWrite m.label m.addr m.found bs s
  else if m.label == 0x40 then
    if inReserve m.addr bs.length then emit (reserveWrite m.addr m.found bs s) (.memory 0x40 stOk [])
    else parapetDenied 0x40 m.addr s
  else if m.label == 0x42 then debugWrite m.addr m.found bs s
  else if m.label == 0x43 then backgroundWrite m.addr bs s
  else s

/-! ### The buttress's order of memory requests (R84, R85, R90, R99, R123; log 61) -/

/-- Memory capacity of a carillon slot in bytes (R98). -/
def memCapacity (s : State) : Nat := ports s * 256 * s.boot.pinRate * 128 / 10

def waitBytes (w : MemWait) : Nat :=
  charge64 (match w.op with | .write bs => bs.length | .debugWrite bs => bs.length | _ => w.req.len)

/-- The slot for which a request works: its label, or the slot of the owner of the line that the background engine writes. The
patrol, a read under label 0x43, works for none (R98, R378). -/
def worksFor (s : State) (w : MemWait) : Option Nat :=
  if w.req.label < 64 then some w.req.label
  else if w.req.label == 0x43 && w.op != .read then (ownerAtBlock s w.req.addr).bind (fun x => x.2.1.slot)
  else none

/-- A write of the background engine to a chunk that is not initialised yet (R379). -/
def initWork (s : State) (w : MemWait) : Bool :=
  match ownerAtBlock s w.req.addr with
  | some (_, d, some off) => w.req.label == 0x43 && d.uninit.contains (off / chunkBytes d.grant)
  | _ => false

/-- A request of the background engine keeps to its slot's own entries while it scrubs or initialises there, and to `OPEN`
entries where no slot can carry it (R123, R379). -/
def scrubOnly (s : State) (w : MemWait) : Option Nat :=
  if w.req.label == 0x43 then
    (worksFor s w).bind (fun sl => if (slotScrubbing s sl || initWork s w) && 0 < owned s.car.live 0 sl then some sl else none)
  else none

/-- The present carillon slot may carry a request. -/
def mayServe (s : State) (w : MemWait) : Bool :=
  let o := ownerNow s 0
  if o == ownerOpen then (scrubOnly s w).isNone && !s.fabric.turns.contains w.req.label
  else if o == ownerEmpty then false
  else match worksFor s w with
    | none => false
    | some sl =>
      if sl == o then
        scrubOnly s w == some o ||
        (ownsNow s o 0 && (w.req.cls != 3 || s.fabric.ctlUsed + waitBytes w ≤ memCapacity s / 16))
      else (scrubOnly s w).isNone && w.req.cls == 0 && lendsNow s 0

/-- There is room in the present carillon slot; a request larger than a slot starts in an empty one. -/
def hasRoomFor (s : State) (w : MemWait) : Bool := s.fabric.used == 0 || s.fabric.used + waitBytes w ≤ memCapacity s

/-- The order within a label: CONTROL, DEADLINE by deadline, GUARANTEED, BULK (R84). -/
def classRank (s : State) (cls deadline : Nat) : Nat :=
  match cls with
  | 3 => 0
  | 2 => 2 ^ 34 + (if s.bell.everLocked && deadline != 0 then
      (deadline + 2 ^ 31 + 2 ^ 32 - now s / 16 % 2 ^ 32) % 2 ^ 32 else 2 ^ 33)
  | 1 => 2 ^ 35
  | _ => 2 ^ 36

/-- The order of service in the present carillon slot: in an `OPEN` slot labels in turn, elsewhere the owner before those it
lends to, and the initialisation of a chunk ahead of its slot's other traffic (R379). -/
def serveKey (s : State) (w : MemWait) : Nat :=
  let o := ownerNow s 0
  if o == ownerOpen then (w.req.label + 255 - s.fabric.lastLabel) % 256 * 2 ^ 40 + classRank s w.req.cls w.req.deadline
  else if initWork s w then 0
  else (if worksFor s w == some o then 1 else 2 ^ 40) + classRank s w.req.cls w.req.deadline

/-- Pages in flight: from the boundary, eight of them, below P0. -/
def inFlight (r : Rotation) (page : Nat) : Bool := r.boundary ≤ page && page ≤ r.boundary + 7 && page < r.pages

/-- A definition's page is being rewritten under the next key version and is not done (R381). -/
def pageBusy (d : Def) (page : Nat) : Bool :=
  match d.rotation with
  | some r => r.walking && inFlight r page && !r.doneInFlight.contains page
  | none => false

/-- A request waits for a page that the walk has in flight. -/
def pageWaits (s : State) (w : MemWait) : Bool :=
  let n := waitBytes w
  let at_ : Option (Def × Nat) := if w.req.window then none
    else if w.req.label < 64 then (inSlot s w.req.label).map (fun x => (x.2, w.req.addr))
    else if w.req.label == 0x42 then (debugTarget s w.req.addr n).bind (fun x => (getDef s x.1).map (fun d => (d, x.2)))
    else none
  match at_ with
  | some (d, off) => (pagesOf off n).any (fun p => pageBusy d (p / 65536))
  | none => false

/-- The place of the request to serve next. -/
def nextServed (s : State) : Option Nat :=
  ((sortBy (fun p => serveKey s p.1) (s.fabric.waiting.zipIdx.filter (fun p =>
    mayServe s p.1 && hasRoomFor s p.1 && !pageWaits s p.1))).head?).map (·.2)

/-- Pages of a slot's range not initialised yet are taken next by the engine, in the class of the request that waits for them
(R379). -/
def initPages (slot off n : Nat) (s : State) : State :=
  match inSlot s slot with
  | none => s
  | some (id, d) =>
    (pagesOf off n).foldl (fun s p =>
      if d.uninit.contains (p / chunkBytes d.grant) && !d.early.contains (p / 65536) then
        charge slot 0 (if d.grant.confidential then 67584 else 65536)
          (setDef s id (fun d => { d with
            early := insNat (p / 65536) d.early, poison := d.poison.filter (fun x => x / 1024 != p / 65536) }))
      else s) s

/-- A request reaches the vault; one of a partition life that has been reset is dropped (R473, log 61). -/
def serveWait (w : MemWait) (s : State) : State :=
  if w.req.label < 64 && (getSlot s w.req.label).loadGen != w.gen then s
  else
    let n := waitBytes w
    let s1 := if w.req.label < 64 && !w.req.window then initPages w.req.label w.req.addr n s
      else if w.req.label == 0x42 then (match debugTarget s w.req.addr n with
        | some (id, off) => (match (getDef s id).bind (fun d => d.slot) with | some sl => initPages sl off n s | none => s)
        | none => s)
      else s
    match w.op with
    | .read => memoryRead w.req s1
    | .write bs => memoryWrite w.req bs s1
    | .debugRead => debugRead w.req.addr w.req.len w.req.found s1
    | .debugWrite bs => debugWrite w.req.addr w.req.found bs s1

/-- The counts of the present carillon slot start again when it changes. -/
def rollSlot (s : State) : State :=
  if s.fabric.slotNo == now s / 128 then s
  else { s with fabric := { s.fabric with
    slotNo := now s / 128, used := 0, ctlUsed := 0, turns := [], netUsed := [], netCtl := [], hostCtl := [], hostTurns := [] } }

/-- What one request takes of the present carillon slot. -/
def noteServed (w : MemWait) (s : State) : State :=
  { s with fabric := { s.fabric with
    used := s.fabric.used + waitBytes w
    ctlUsed := s.fabric.ctlUsed + (if w.req.cls == 3 && worksFor s w == some (ownerNow s 0) then waitBytes w else 0)
    turns := if ownerNow s 0 == ownerOpen then insNat w.req.label s.fabric.turns else s.fabric.turns
    lastLabel := if ownerNow s 0 == ownerOpen then w.req.label else s.fabric.lastLabel } }

/-- Requests are served one by one as long as the present carillon slot may carry one. -/
def serveAll : Nat → State → State
  | 0, s => s
  | n + 1, s =>
    match nextServed s with
    | none => s
    | some i =>
      match s.fabric.waiting[i]? with
      | none => s
      | some w =>
        serveAll n (serveWait w (noteServed w { s with fabric := { s.fabric with waiting := s.fabric.waiting.eraseIdx i } }))

def runFabric (s : State) : State :=
  let s1 := rollSlot s
  serveAll s1.fabric.waiting.length s1

/-- The parapet of the attachment passes a request (R13, R385). -/
def parapetPasses (s : State) (m : MemReq) (n : Nat) : Bool := (reachedAt m n s).isSome

/-- A request enters the fabric once its parapet passes it; a refused one is answered at once (R13). -/
def enterFabric (op : MemOp) (m : MemReq) (s : State) : State :=
  let w : MemWait := { op := op, req := m, gen := (getSlot s m.label).loadGen }
  let n := match op with | .write bs => bs.length | .debugWrite bs => bs.length | _ => m.len
  if parapetPasses s m n then
    runFabric (wakeFor m n { s with fabric := { s.fabric with waiting := s.fabric.waiting ++ [w] } })
  else if m.label == 0x42 then debugDenied m.addr s
  else if m.label < 64 || m.label == 0x40 then parapetDenied m.label m.addr s
  else s

/-! ### The commands -/

/-- MEMORY_READ (R13, R84, R374). -/
def execMemoryRead (m : MemReq) (s : State) : Result :=
  if operating s && m.label == 0x43 && !populated s m.addr m.len then .fault (.noSuchMemory m.addr)
  else .next (whenOp (enterFabric .read m) s)

/-- MEMORY_WRITE (R13, R84, R369, R376, R377). -/
def execMemoryWrite (m : MemReq) (bs : List Byte) (s : State) : Result :=
  if operating s && m.label == 0x43 && !populated s m.addr bs.length then .fault (.noSuchMemory m.addr)
  else .next (whenOp (enterFabric (.write bs) m) s)

/-- DEBUG_ACCESS (R85, R385): a read, or a write of the data given, under label 0x42. -/
def execDebugAccess (m : MemReq) (data : Option (List Byte)) (s : State) : Result :=
  .next (whenOp (fun s => match data with
    | none => enterFabric .debugRead { m with label := 0x42 } s
    | some bs => enterFabric (.debugWrite bs) { m with label := 0x42 } s) s)

/-- PATROL_START: a patrol pass runs on every populated port (R378, R388). -/
def execPatrolStart (s : State) : Result :=
  .next (whenOp (fun s => { s with vault := { s.vault with
    ports := (List.range s.vault.ports.length).map (fun p =>
      let x := nth s.vault.ports p VltPort.reset
      if p < ports s then { x with patrol := true } else x) } }) s)

/-! ### The rekey walk (R381, R382) -/

/-- The boundary moves past every page that is done. -/
def advanceBoundary : Nat → Rotation → Rotation
  | 0, r => r
  | fuel + 1, r =>
    if r.doneInFlight.contains r.boundary then
      advanceBoundary fuel { r with boundary := r.boundary + 1, doneInFlight := r.doneInFlight.filter (· != r.boundary) }
    else r

/-- The lines of a page that the engine's reads find at fault. -/
def walkReads (id page : Nat) (found : List LineFound) (s : State) : State := readLines id (page * 65536) 65536 found s

def rekeyPage (slot page : Nat) (found : List LineFound) (s : State) : State :=
  match inSlot s slot with
  | none => s
  | some (id, d) =>
    match d.rotation with
    | none => s
    | some r =>
      if !r.walking || !inFlight r page || r.doneInFlight.contains page then s
      else
        setDef (walkReads id page found (charge slot 0 (pageTraffic d.grant) s)) id (fun d => { d with rotation := d.rotation.map (fun r =>
          advanceBoundary 8 { r with doneInFlight := insNat page r.doneInFlight }) })

/-- REKEY_PAGE_DONE (R381). -/
def execRekeyPageDone (slot page : Nat) (found : List LineFound) (s : State) : Result :=
  .next (whenOp (rekeyPage slot page found) s)

def rekeyDone (slot : Nat) (s : State) : State :=
  match inSlot s slot with
  | none => s
  | some (id, d) =>
    match d.rotation with
    | none => s
    | some r =>
      if !r.walking || r.boundary < r.pages then s
      else
        let s1 := setDef s id (fun d => { d with rotation := none, keyVersion := r.toVersion, destroyed := r.toVersion - 1 })
        let s2 := setSlot s1 slot (fun x => { x with keyCurrent := x.keyNext, keyNext := none })
        notice r.box 0x02 0x0300 r.seq r.toVersion stOk id (touchPage id s2)

/-- REKEY_WALK_COMPLETE (R382, R396). -/
def execRekeyWalkComplete (slot : Nat) (s : State) : Result := .next (whenOp (rekeyDone slot) s)

end Sys2Proof.Machine
end

