-- ==== Sys2Proof/Machine/Keep.lean ====
section
/-! DEFINITION. The keep: the derivation tree, key rotation, weight packages, attestation, the entropy source, the factory
unlock, SPDM, IDE_KM and TDISP (R390 to R415, R489). -/

namespace Sys2Proof.Machine

/-! ### The derivation tree (R392, R393) -/

/-- The BIND private key under a ROOT. -/
def bindPriv (root : List Byte) : List Byte := toScalar (kdf root "binding" [] 56)
def udsKey (root : List Byte) : List Byte := kdf root "dice uds" [] 48
/-- The DeviceID private key (R400). -/
def devicePriv (root : List Byte) : List Byte := toScalar (kdf (udsKey root) "device id" Config.romDigest 56)

def weightSeal (d : Def) : List Byte := kdf (versionKey d d.keyVersion) "weight seal" [] 32
def partAttest (id : Nat) (d : Def) : List Byte := toScalar (kdf (versionKey d d.keyVersion) "attest" (leBytes 2 id) 56)

/-! ### Measurements and certificates (R400, R401, R404) -/

def tieOffs (s : State) : List Byte :=
  leBytes 1 s.pins.hbmPop.toNat ++ leBytes 1 s.pins.lsoEn.toNat ++ leBytes 1 (bitAt s.pins.host1En 0)

/-- Measurement blocks 1 to 4. -/
def measBlock3 (s : State) : List Byte := leBytes 4 s.keep.imageSvn ++ leBytes 4 s.keep.fuseCount
def measBlock4 (s : State) : List Byte :=
  leBytes 1 (bitAt s.pins.testMode 0) ++ leBytes 1 s.pins.instanceId.toNat ++ tieOffs s ++ Config.engineFuses
def measFixed (s : State) : List Byte := Config.romDigest ++ s.keep.imageDigest ++ measBlock3 s ++ measBlock4 s

def tdiCode : Tdi → Nat
  | .unlocked => 0
  | .locked => 1
  | .run => 2
  | .error => 3

/-- Measurement block 5: the confidential lock and the TDISP state of each VF. -/
def measBlock5 (s : State) : List Byte :=
  leBytes 1 (bitAt s.keep.confLock 0) ++
  (List.range 130).flatMap (fun fn => if vfOf fn == 0 then [] else leBytes 1 (tdiCode (getFn s fn).tdi))

/-- CDI and the alias private key. -/
def aliasPriv (s : State) : List Byte :=
  toScalar (kdf (kdf (udsKey (rootNow s)) "dice cdi" (sha384 (measFixed s)) 48) "alias" [] 56)

/-- What R401 fixes for a subject and its public key. -/
def certOf (subject : String) (key : List Byte) (ca : Option Nat) (usage : String) (tcb : Option TcbInfo)
    (ext : Option (List Byte)) : Cert :=
  { subject := subject, key := key
    serial := ((sha384 key).take 1).map (· &&& 0x7F) ++ ((sha384 key).take 20).drop 1
    notBefore := "20200101000000Z", notAfter := "99991231235959Z", ca := ca, keyUsage := usage, tcb := tcb, ext := ext }

/-- The binding certificate, issued with the DeviceID key. -/
def bindCert (root : List Byte) : List Byte :=
  Config.der (certOf "AMT-64 Binding" (pubKey (bindPriv root)) none "keyAgreement" none none) (devicePriv root)

/-- TcbInfo of the alias certificate. -/
def aliasTcb (s : State) : TcbInfo :=
  { vendor := "", model := "", fwid := s.keep.imageDigest, svn := s.keep.imageSvn, notSecure := s.pins.testMode
    vendorInfo := Config.engineFuses ++ tieOffs s ++ leBytes 1 s.pins.instanceId.toNat }

/-- The alias certificate, issued with the DeviceID key while the keep still holds it. -/
def aliasCert (s : State) : List Byte :=
  Config.der (certOf "AMT-64 Alias" (pubKey (aliasPriv s)) (some 0) "keyCertSign" (some (aliasTcb s)) none)
    (s.keep.deviceKey.getD [])

/-- Step 7 of start-up: the alias key and its certificate, after which the DeviceID private key is erased, before the belfry is
released (R400). -/
def issueAlias (s : State) : State :=
  { s with keep := { s.keep with aliasKey := some (aliasPriv s), aliasCert := aliasCert s, deviceKey := none } }

/-- What the keep derives at start-up (R393, R400). -/
def deriveRoot (s : State) : State :=
  { s with keep := { s.keep with
      root := some rootKey, bindKey := some (bindPriv rootKey), deviceKey := some (devicePriv rootKey)
      bindCert := bindCert rootKey, chainOk := Config.certKey s.flash.deviceCert == pubKey (devicePriv rootKey) } }

/-- What a partition certificate carries; a definition that is not confidential has no TDI, and its state is none, 0xFF (R402; log
88). -/
def partCertBody (s : State) (id : Nat) (d : Def) (nonce : List Byte) : List Byte :=
  let f := getFn s (boundFn d)
  nonce ++ leBytes 8 s.bell.ns.toNat ++
  leBytes 1 (match s.bell.state with | .freerun => 0 | .acquiring => 1 | .locked => 2 | .holdover => 3) ++
  leBytes 1 (bitAt s.bell.everLocked 0) ++ leBytes 2 id ++ leBytes 1 (d.slot.getD 255) ++
  leBytes 4 (match d.slot with | some sl => (getSlot s sl).loadGen.toNat | none => 0) ++ d.grant.tenantLabel ++
  leBytes 2 d.keyVersion ++ leBytes 1 (bitAt d.grant.confidential 0) ++ sha384 d.grant.bytes ++
  sha384 (((capPage s id d).drop 0x10).take 0x1A0) ++ leBytes 1 (if d.grant.confidential then tdiCode f.tdi else 255) ++
  leBytes 1 (bitAt s.keep.confLock 0)

def partCert (s : State) (id : Nat) (d : Def) (nonce : List Byte) : List Byte :=
  Config.der (certOf "AMT-64 Partition" (pubKey (partAttest id d)) none "digitalSignature" none
    (some (partCertBody s id d nonce))) (s.keep.aliasKey.getD [])

/-- The four certificates that ATTEST_GET writes. -/
def attestChain (s : State) (id : Nat) (d : Def) (nonce : List Byte) : List Byte :=
  s.flash.deviceCert ++ s.keep.bindCert ++ s.keep.aliasCert ++ partCert s id d nonce

/-! ### KEY_ROTATE (R396) -/

/-- A known-answer check that fails: a KEY_CHECK event; in the safe state the request is answered `ORPHANED`. -/
def keyCheckFailed (id : Nat) (s : State) : Served :=
  let s1 := detect1 (slotCause s id 0x0705 0) s
  .now (if s1.flt.safe then stOrphaned else stKeyCheckFailed) [] s1

/-- A rotation to a version, with its walk under way or pending. -/
def newRotation (v : Nat) (walking : Bool) (pages : Nat) (b : Box) (r : Req) : Rotation :=
  { toVersion := v, walking := walking, boundary := 0, pages := pages, doneInFlight := [], box := b, seq := r.seq }

def serveKeyRotate (agree : Bool) (b : Box) (r : Req) (s : State) : Served :=
  match getDef s r.defId with
  | none => .now stWrongState [] s
  | some d =>
    let v := d.keyVersion + 1
    if d.state == .scrubbing then .now stWrongState [] s
    else if d.keyVersion == 65535 || d.spent then .now stKeyVersionExhausted [] s
    else if d.rotation.isSome then .now stInUse [] s
    else match d.slot with
      | none =>
        .now stOk (leBytes 2 v ++ [1, 0, 0, 0, 0, 0])
          (setDef s r.defId (fun d => { d with rotation := some (newRotation v false 0 b r) }))
      | some sl =>
        if !agree then keyCheckFailed r.defId s
        else
          .now stOk (leBytes 2 v ++ [0, 0, 0, 0, 0, 0])
            (setSlot (setDef s r.defId (fun d => { d with rotation := some (newRotation v true (walkPages d.grant) b r) })) sl
              (fun x => { x with keyNext := some (memKey d v) }))

def kKeyRotate : MsgKind := ownDefMsg 0 noReserved true

/-- KEY_ROTATE (R396). `agree` is the result of the known-answer check where the definition is resident. -/
def execKeyRotate (b : Box) (r : Req) (agree : Bool) (s : State) : Result :=
  .next (volmi 0x0300 (some kKeyRotate) (whenEntropy 0x0300 agree derived (serveKeyRotate agree)) b r s)

/-! ### WEIGHT_BIND (R411 to R415) -/

/-- The header's fields are in range (R411). -/
def headerOk (h : List Byte) : Bool :=
  fld h 0 1 == 1 && fld h 1 1 ≤ 1 && 1 ≤ fld h 2 2 && fld h 2 2 ≤ 256 && fld h 4 4 == segLen && zeros h 34 5 &&
  zeros h 136 120 &&
  (if fld h 1 1 == 0 then 1 ≤ fld h 8 8 && fld h 8 8 ≤ 2 ^ 40 && fld h 32 2 == 0 else fld h 8 8 == 0)

/-- The destination overlaps the package (R414). -/
def overlaps (a n b m : Nat) : Bool := 0 < n && 0 < m && a < b + m && b < a + n

/-- The key encryption key of a device record (R412). -/
def kekOf (s : State) (h rec : List Byte) : List Byte :=
  (sha384 ([0, 0, 0, 1] ++ ecdh (s.keep.bindKey.getD []) ((h.drop 39).take 97) ++ ascii "AMT64 bind" ++
    (h.drop 16).take 16 ++ rec.take 48)).take 32

/-- The device record that names this part. -/
def myRecord (s : State) (table : List Byte) (count : Nat) : Option (List Byte) :=
  ((List.range count).map (fun k => (table.drop (96 * k)).take 96)).find?
    (fun r => r.take 48 == sha384 (pubKey (s.keep.bindKey.getD [])))

/-- The content key, or the status that refuses it. -/
def unwrapCek (s : State) (d : Def) (p h table : List Byte) : Except Nat (List Byte) :=
  if bit (fld p 18 1) 0 then
    match keyUnwrap (weightSeal d) ((p.drop 24).take 40) with
    | some k => .ok k
    | none => .error stUnwrapFailed
  else match myRecord s table (fld h 2 2) with
    | none => .error stNotAddressed
    | some rec =>
      if !onCurve ((h.drop 39).take 97) then .error stUnwrapFailed
      else match keyUnwrap (kekOf s h rec) ((rec.drop 48).take 40) with
        | some k => .ok k
        | none => .error stUnwrapFailed

/-- The key is installed, or the segments begin (R414, R415). -/
def bindAccepted (id : Nat) (b : Box) (r : Req) (h table cek sealed : List Byte) (s : State) : Served :=
  let p := r.payload
  let slot := fld p 16 2
  let pay := padTo 40 sealed ++ List.replicate 8 0
  if fld h 1 1 == 1 then
    let key := kdf cek "maelic link" ((h.drop 16).take 16) 32
    .now stOk pay (setDef s id (fun d => { d with linkKeys := mput d.linkKeys slot (fld h 32 2, key) }))
  else
    .now stOk pay (setDef s id (fun d => { d with
      linkKeys := mdrop d.linkKeys slot
      bind := some { pkgVa := fld p 0 8, dstVa := fld p 8 8, payloadLen := fld h 8 8, records := fld h 2 2
                     linkSlot := slot, cek := cek, hash := sha384 (h ++ table), box := b, seq := r.seq
                     began := now s, written := 0 } }))

/-- A field of the message is out of range (R413, R414). -/
def bindFieldBad (d : Def) (p : List Byte) : Bool := fld p 0 8 % 4096 != 0 || d.grant.linkKeys ≤ fld p 16 2

/-- The header, with the fields of the message that it bears on, is out of range (R411, R414). -/
def bindHeaderBad (p h : List Byte) : Bool :=
  !headerOk h || (if fld h 1 1 == 1 then fld p 8 8 != 0
    else overlaps (fld p 8 8) (fld h 8 8) (fld p 0 8) (packageLen (fld h 2 2) (fld h 8 8)))

/-- The third row of R414; the header is none where it cannot be read. -/
def bindInUse (d : Def) (p : List Byte) (h : Option (List Byte)) : Bool :=
  let slot := fld p 16 2
  d.qps.any (fun q => q.2.state != .reset && cnLinkKey q.2.conn == slot) || d.bind.isSome ||
  (match h with
   | some h => fld h 1 1 == 1 && d.linkKeys.any (fun k => k.1 != slot && k.2.1 == fld h 32 2)
   | none => false)

/-- The rows of R414 that need the package's contents. -/
def bindKeys (agree : Bool) (id : Nat) (d : Def) (b : Box) (r : Req) (h : List Byte) (s : State) : Served :=
  let p := r.payload
  let count := fld h 2 2
  let len := fld h 8 8
  let weights := fld h 1 1 == 0
  if weights && ((firstDenied s d (fld p 0 8) (packageLen count len) false).isSome ||
      (firstDenied s d (fld p 8 8) len true).isSome) then .now stAccessDenied [] s
  else match readVa s d (fld p 0 8 + 256) (96 * count) with
    | .denied _ => .now stAccessDenied [] s
    | .poisoned _ => .now stPoisoned [] s
    | .ok table =>
      match unwrapCek s d p h table with
      | .error st => .now st [] s
      | .ok cek =>
        if !agree then keyCheckFailed id s
        else bindAccepted id b r h table cek (keyWrap (weightSeal d) cek) s

def serveWeightBind (agree : Bool) (b : Box) (r : Req) (s : State) : Served :=
  let p := r.payload
  match getDef s r.defId with
  | none => .now stWrongState [] s
  | some d =>
    if d.spent || !(d.state == .resident || d.state == .running || d.state == .quiesced) then .now stWrongState [] s
    else if bindFieldBad d p then .now stMalformed [] s
    else match readVa s d (fld p 0 8) 256 with
      | .denied _ => if bindInUse d p none then .now stInUse [] s else .now stAccessDenied [] s
      | .poisoned _ => if bindInUse d p none then .now stInUse [] s else .now stPoisoned [] s
      | .ok h =>
        if bindHeaderBad p h then .now stMalformed [] s
        else if bindInUse d p (some h) then .now stInUse [] s
        else bindKeys agree r.defId d b r h s

def kWeightBind : MsgKind := ownDefMsg 64 (fun p => fld p 18 1 < 2 && zeros p 19 5) false

/-- WEIGHT_BIND (R414). `agree` is the result of the known-answer check of the key in LINK_SLOT. -/
def execWeightBind (b : Box) (r : Req) (agree : Bool) (s : State) : Result :=
  .next (volmi 0x0301 (some kWeightBind) (whenEntropy 0x0301 agree derived (serveWeightBind agree)) b r s)

/-- How the segments of a bind end: a status and a value, or a translation that fails at an address. -/
inductive BindEnd where
  | done (status value : Nat)
  | fault (va : Nat)

/-- Segment `i` of a bind: read, opened, and written only where its tag verifies (R412, R415). -/
def bindSegment (id slot : Nat) (bi : Bind) (i : Nat) (s : State) : Option BindEnd × State :=
  match getDef s id with
  | none => (some (.done stPartitionReset i), s)
  | some d =>
    let n := min segLen (bi.payloadLen - i * segLen)
    let last := segCount bi.payloadLen == i + 1
    match readVa s d (bi.pkgVa + payloadOff bi.records + i * (segLen + 16)) (n + 16) with
    | .denied va => (some (.fault va), s)
    | .poisoned _ => (some (.done stPoisoned i), s)
    | .ok bs =>
      let aad := bi.hash ++ beBytes 8 i ++ [if last then 1 else 0]
      match gcmOpen bi.cek (List.replicate 4 0 ++ beBytes 8 i) aad (bs.take n) (bs.drop n) with
      | none => (some (.done stMalformed i), s)
      | some pt =>
        match firstDenied s d (bi.dstVa + i * segLen) n true with
        | some va => (some (.fault va), s)
        | none =>
          (none, setDef (writeVa id (bi.dstVa + i * segLen) pt (charge slot 0 (charge64 (n + 16) + charge64 n) s)) id
            (fun d => { d with bind := d.bind.map (fun b => { b with written := i + 1 }) }))

/-- The segments from `i` on. -/
def bindSegments (id slot : Nat) (bi : Bind) : Nat → Nat → State → BindEnd × State
  | 0, _, s => (.done stOk bi.payloadLen, s)
  | fuel + 1, i, s =>
    match bindSegment id slot bi i s with
    | (some x, s1) => (x, s1)
    | (none, s1) => bindSegments id slot bi fuel (i + 1) s1

/-- At 128 GB/s a segment takes 8,192 ns. A bind writes the next segment of a definition once its time has come; one that would
end the bind waits for BIND_COMPLETE (R415, log 52). -/
def bindDue (id slot : Nat) (s : State) : State :=
  match (getDef s id).bind (fun d => d.bind) with
  | none => s
  | some bi =>
    if bi.written < segCount bi.payloadLen && bi.began + 8192 * (bi.written + 1) ≤ now s then
      match bindSegment id slot bi bi.written s with
      | (none, s1) => s1
      | (some _, _) => s
    else s

/-- Every running bind. -/
def bindClock (s : State) : State :=
  s.defs.foldl (fun s p => match p.2.slot with
    | some sl => if p.2.bind.isSome then bindDue p.1 sl s else s
    | none => s) s

def bindComplete (slot : Nat) (s : State) : State :=
  match inSlot s slot with
  | none => s
  | some (id, d) =>
    match d.bind with
    | none => s
    | some bi =>
      let r := bindSegments id slot bi (segCount bi.payloadLen - bi.written) bi.written s
      match r.1 with
      | .fault va => translationFault id va r.2
      | .done st v =>
        notice bi.box 0x03 0x0301 bi.seq v st id (setDef r.2 id (fun d => { d with
          bind := none, linkKeys := mdrop d.linkKeys bi.linkSlot }))

/-- BIND_COMPLETE (R415). -/
def execBindComplete (slot : Nat) (s : State) : Result := .next (whenOp (bindComplete slot) s)

/-! ### ATTEST_GET (R402) -/

def serveAttestGet (_ : Box) (r : Req) (s : State) : Served :=
  let p := r.payload
  let va := fld p 32 8
  let len := fld p 40 4
  match getDef s r.defId with
  | none => .now stWrongState [] s
  | some d =>
    if d.spent || !(d.state == .resident || d.state == .running || d.state == .quiescing || d.state == .quiesced) then
      .now stWrongState [] s
    else if va % 64 != 0 || len < 8192 then .now stMalformed [] s
    else if !s.keep.chainOk then .now stWrongState [] s
    else
      let chain := attestChain s r.defId d (p.take 32)
      if (firstDenied s d va (min len chain.length) true).isSome then .now stAccessDenied [] s
      else .now stOk (leBytes 4 chain.length) (writeVa r.defId va (chain.take len) s)

def kAttestGet : MsgKind := ownDefMsg 48 (fun p => zeros p 44 4) false

/-- ATTEST_GET (R402). -/
def execAttestGet (b : Box) (r : Req) (s : State) : Result :=
  .next (volmi 0x0302 (some kAttestGet) (whenEntropy 0x0302 true derived serveAttestGet) b r s)

/-! ### The entropy source (R488) -/

/-- A waiting request is served, if its backlog entry is still there. -/
def serveWaiting (w : Nat × Box × Req × Bool) (s : State) : State :=
  let op := w.1
  let b := w.2.1
  let r := w.2.2.1
  let serve := match op with
    | 0x0100 => servePartDefine
    | 0x0101 => servePartLoad w.2.2.2
    | 0x0107 => servePartScrub
    | 0x0300 => serveKeyRotate w.2.2.2
    | 0x0301 => serveWeightBind w.2.2.2
    | _ => serveAttestGet
  if s.belfry.backlog.any (fun x => x.box == b && x.seq == r.seq && x.opcode == op) then
    match serve b r s with
    | .now st pay t => answerLater b op r.seq r.defId st pay t
    | .later t => t
    | .done t => t
  else s

/-! ### The factory unlock (R489) -/

/-- UNLOCK_CHAL: a fresh nonce. Under the confidential lock the TAP executes no such instruction (R409). -/
def execUnlockChal (s : State) : Result :=
  .next (whenAlive (fun s =>
    if s.keep.confLock then s
    else
      let r := drawKeep s
      emit { r.2 with keep := { r.2.keep with unlockNonce := some r.1 } } (.tap (leBytes 32 r.1.toNat))) s)

/-- The message an unlock token signs. -/
def unlockMessage (nonce : BitVec 256) : List Byte :=
  ascii "AMT64 inject" ++ leBytes 32 nonce.toNat ++ padTo 20 Config.deviceSerial

def unlockGranted (sig : List Byte) (s : State) : Bool :=
  match s.keep.unlockNonce with
  | none => false
  | some n =>
    s.pins.testMode && !s.keep.confLock && !s.keep.loadSeen &&
    sigOk Config.productKey (sha384 (unlockMessage n)) sig

/-- UNLOCK_TOKEN: the unlock lasts until block reset, and is recorded (R512). -/
def execUnlockToken (sig : List Byte) (s : State) : Result :=
  .next (whenAlive (fun s =>
    if unlockGranted sig s then
      appendLog 0x0023 ((padTo 20 Config.deviceSerial).take 16)
        { s with keep := { s.keep with unlocked := true, unlockNonce := none } }
    else s) s)

/-! ### TDIs (R406, R407) -/

/-- The confidential definition bound to a VF, whose TDI the VF is. -/
def tdiDef (s : State) (fn : Nat) : Option (Nat × Def) :=
  match boundTo s fn with
  | some (id, d) => if d.grant.confidential then some (id, d) else none
  | none => none

/-- The third row of R406: `ERROR`, and a `CONTAINED` fault of the resident definition. -/
def tdiFault (fn : Nat) (s : State) : State :=
  let t := (getFn s fn).tdi
  if t == .locked || t == .run then
    let s1 := tdiError fn s
    match tdiDef s fn with
    | some (id, _) => detect1 (slotCause s1 id 0x0B03 0) s1
    | none => s1
  else s

/-- Applies that to every VF of a port that satisfies a test. -/
def tdiFaults (port : Nat) (test : Fn → Bool) (s : State) : State :=
  (List.range 64).foldl (fun s i =>
    let fn := fnId port (i + 1)
    if test (getFn s fn) then tdiFault fn s else s) s

/-- TDISP_CONFIG_WRITE (R406). -/
def execTdispConfigWrite (fn : Nat) (s : State) : Result := .next (whenOp (tdiFault fn) s)

/-- IDE_STREAM_INTEGRITY_FAILURE (R406). -/
def execIdeStreamIntegrityFailure (port stream : Nat) (s : State) : Result :=
  .next (whenOp (tdiFaults port (fun f => f.tdiStream == stream)) s)

/-! ### SPDM (R403, R404) -/

def getSpdm (s : State) (port : Nat) : Spdm :=
  (mfind s.keep.spdm port).getD { stage := 0, sessions := [], opening := [], nextId := 1, updates := [] }
def setSpdm (port : Nat) (f : Spdm → Spdm) (s : State) : State :=
  { s with keep := { s.keep with spdm := mput s.keep.spdm port (f (getSpdm s port)) } }

/-- The port exists: port 1 only with CFG_HOST1_EN (R59). -/
def portExists (s : State) (port : Nat) : Bool := port == 0 || (port == 1 && s.pins.host1En)

/-- An SPDM request in whatever state the block is in (R403, R480, R502). -/
def spdm (fn : Nat) (f : State → State) (s : State) : State :=
  if !alive s || !portExists s (portOf fn) then s
  else if vfOf fn != 0 then emit s (.doe fn "ERROR UnsupportedRequest" [])
  else if s.flt.safe || s.boot.stage == .recovery then emit s (.doe fn "ERROR Unspecified" [])
  else if s.boot.stage != .ready then s
  else f s

/-- A request in its order of negotiation: refused before the stage it needs (log 31). -/
def spdmAfter (q : Doe) (stage : Nat) (f : State → State) (s : State) : State :=
  spdm q.fn (fun s =>
    if (getSpdm s (portOf q.fn)).stage < stage then emit s (.doe q.fn "ERROR UnexpectedRequest" []) else f s) s

/-- A response. One with fresh keep randomness is signed with the alias key (R400, R403). -/
def spdmReply (q : Doe) (name : String) (content : List Byte) (random : Bool) (s : State) : State :=
  if random then
    let r := drawKeep s
    let x := q.body ++ content ++ leBytes 32 r.1.toNat
    emit r.2 (.doe q.fn name (Config.doeBody name (x ++ Config.sign (s.keep.aliasKey.getD []) (sha384 x))))
  else emit s (.doe q.fn name (Config.doeBody name (q.body ++ content)))

/-- The session a request runs in is one that is established. -/
def inSession (s : State) (port : Nat) (session : Option Nat) : Option Nat :=
  match session with
  | none => none
  | some i => if (getSpdm s port).sessions.contains i then some i else none

def spdmInSession (q : Doe) (f : Nat → State → State) (s : State) : State :=
  spdm q.fn (fun s => match inSession s (portOf q.fn) q.session with
    | none => emit s (.doe q.fn "ERROR UnexpectedRequest" [])
    | some i => f i s) s

/-- GET_VERSION (R403). -/
def execGetVersion (q : Doe) (s : State) : Result :=
  .next (spdm q.fn (fun s => spdmReply q "VERSION" [] false (setSpdm (portOf q.fn) (fun x => { x with stage := 1 }) s)) s)
/-- GET_CAPABILITIES (R403). -/
def execGetCapabilities (q : Doe) (s : State) : Result :=
  .next (spdmAfter q 1 (fun s =>
    spdmReply q "CAPABILITIES" [] false (setSpdm (portOf q.fn) (fun x => { x with stage := max x.stage 2 }) s)) s)
/-- NEGOTIATE_ALGORITHMS (R403). -/
def execNegotiateAlgorithms (q : Doe) (s : State) : Result :=
  .next (spdmAfter q 2 (fun s =>
    spdmReply q "ALGORITHMS" [] false (setSpdm (portOf q.fn) (fun x => { x with stage := 3 }) s)) s)
/-- The chain of slot 0: the digest of the Hyore root CA, then the certificates from the product CA to the alias certificate
(R403). -/
def spdmChain (s : State) : List Byte := Config.rootHash ++ Config.productCert ++ s.flash.deviceCert ++ s.keep.aliasCert

/-- A request that names a certificate slot: only slot 0 holds a chain (R403). -/
def ofSlotZero (q : Doe) (f : State → State) (s : State) : State :=
  if fld q.body 0 1 % 16 == 0 then f s else emit s (.doe q.fn "ERROR InvalidRequest" [])

/-- GET_DIGESTS (R403). -/
def execGetDigests (q : Doe) (s : State) : Result :=
  .next (spdmAfter q 3 (spdmReply q "DIGESTS" (sha384 (spdmChain s)) false) s)
/-- GET_CERTIFICATE: slot 0, from the product CA to the alias certificate, or ERROR Unspecified where the stored DeviceID
certificate is not the part's own (R400, R403). -/
def execGetCertificate (q : Doe) (s : State) : Result :=
  .next (spdmAfter q 3 (ofSlotZero q (fun s =>
    if s.keep.chainOk then spdmReply q "CERTIFICATE" (spdmChain s) false s
    else emit s (.doe q.fn "ERROR Unspecified" []))) s)
/-- CHALLENGE (R403). -/
def execChallenge (q : Doe) (s : State) : Result :=
  .next (spdmAfter q 3 (ofSlotZero q (spdmReply q "CHALLENGE_AUTH" (sha384 (spdmChain s)) true)) s)
/-- GET_MEASUREMENTS: blocks 1 to 5 (R404). -/
def execGetMeasurements (q : Doe) (s : State) : Result :=
  .next (spdmAfter q 3 (spdmReply q "MEASUREMENTS" (measFixed s ++ measBlock5 s) true) s)
/-- KEY_EXCHANGE: at most four sessions per PF (R403). -/
def execKeyExchange (q : Doe) (s : State) : Result :=
  .next (spdmAfter q 3 (fun s =>
    let x := getSpdm s (portOf q.fn)
    if 4 ≤ x.sessions.length + x.opening.length then emit s (.doe q.fn "ERROR SessionLimitExceeded" [])
    else
      spdmReply q "KEY_EXCHANGE_RSP" (leBytes 4 x.nextId) true (setSpdm (portOf q.fn)
        (fun x => { x with opening := x.opening ++ [x.nextId], nextId := x.nextId + 1 }) s)) s)
/-- FINISH: the session is established (R403). -/
def execFinish (q : Doe) (s : State) : Result :=
  .next (spdm q.fn (fun s =>
    let x := getSpdm s (portOf q.fn)
    match q.session with
    | none => emit s (.doe q.fn "ERROR UnexpectedRequest" [])
    | some i =>
      if x.opening.contains i then
        spdmReply q "FINISH_RSP" [] false (setSpdm (portOf q.fn)
          (fun x => { x with opening := x.opening.filter (· != i), sessions := x.sessions ++ [i] }) s)
      else emit s (.doe q.fn "ERROR UnexpectedRequest" [])) s)
/-- HEARTBEAT in a session (R403). -/
def execSpdmHeartbeat (q : Doe) (s : State) : Result :=
  .next (spdmInSession q (fun _ s => spdmReply q "HEARTBEAT_ACK" [] false s) s)
/-- KEY_UPDATE in a session: its keys are replaced (R403). -/
def execKeyUpdate (q : Doe) (s : State) : Result :=
  .next (spdmInSession q (fun i s => spdmReply q "KEY_UPDATE_ACK" [] false (setSpdm (portOf q.fn) (fun x => { x with
    updates := mput x.updates i ((mfind x.updates i).getD 0 + 1) }) s)) s)

/-- Sessions end: their TDIs enter `ERROR` (R403, R406). -/
def endSessions (port : Nat) (ended : List Nat) (s : State) : State :=
  tdiFaults port (fun f => match f.tdiSession with | some (p, i) => p == port && ended.contains i | none => false)
    (setSpdm port (fun x => { x with
      sessions := x.sessions.filter (fun i => !ended.contains i), opening := x.opening.filter (fun i => !ended.contains i)
      updates := x.updates.filter (fun p => !ended.contains p.1) }) s)

/-- END_SESSION (R403, R406). -/
def execEndSession (q : Doe) (s : State) : Result :=
  .next (spdmInSession q (fun i s => endSessions (portOf q.fn) [i] (spdmReply q "END_SESSION_ACK" [] false s)) s)

/-! ### IDE_KM (R405) -/

def pfOf (port : Nat) : Nat := fnId port 0
def streamKey (port stream : Nat) : Nat := port * 256 + stream

/-- An IDE_KM request inside a session. -/
def ideKm (q : IdeReq) (f : State → State) (s : State) : State :=
  spdm (pfOf q.port) (fun s => match inSession s q.port q.session with
    | none => emit s (.doe (pfOf q.port) "ERROR UnsupportedRequest" [])
    | some _ => f s) s

def ideReply (q : IdeReq) (name : String) (s : State) : State :=
  emit s (.doe (pfOf q.port) name (leBytes 1 q.stream ++ leBytes 1 q.keySet ++ leBytes 1 q.sub ++ leBytes 1 (bitAt q.tx 0)))

/-- QUERY (R405). -/
def execQuery (q : IdeReq) (s : State) : Result := .next (ideKm q (ideReply q "QUERY_RESP") s)

/-- Streams of a port that hold a key. -/
def streamsOf (s : State) (port : Nat) : Nat :=
  (s.keep.streams.filter (fun p => p.1 / 256 == port && !p.2.keys.isEmpty)).length

/-- KEY_PROG: the key goes with its IV to the controller's IDE key port and is stored nowhere else (R63); at most eight streams
a port (R405). -/
def keyProg (q : IdeReq) (s : State) : State :=
  let k := streamKey q.port q.stream
  let st := (mfind s.keep.streams k).getD { keys := [], go := none, covers := [] }
  if 2 < q.sub || (st.keys.isEmpty && 8 ≤ streamsOf s q.port) then ideReply q "KP_ACK refused" s
  else
    let key := (q.keySet, q.sub, q.tx)
    let st1 := { st with keys := (st.keys.filter (· != key)) ++ [key], covers := q.covers }
    ideReply q "KP_ACK" (emit { s with keep := { s.keep with streams := mput s.keep.streams k st1 } }
      (.ideKey q.port q.stream q.keySet q.sub q.tx q.key q.iv))

def execKeyProg (q : IdeReq) (s : State) : Result := .next (ideKm q (keyProg q) s)

/-- K_SET_GO: the stream uses a key set that has been programmed, once its known-answer check agrees; the set in use before is
destroyed. Where the check fails a KEY_CHECK event is recorded and the new set is discarded (R395, R405). -/
def kSetGo (q : IdeReq) (s : State) : State :=
  let k := streamKey q.port q.stream
  match mfind s.keep.streams k with
  | none => ideReply q "K_GOSTOP_ACK refused" s
  | some st =>
    let without (set : Option Nat) := st.keys.filter (fun x => some x.1 != set)
    if st.keys.any (fun x => x.1 == q.keySet) then
      if q.agree then
        ideReply q "K_GOSTOP_ACK" { s with keep := { s.keep with
          streams := mput s.keep.streams k { st with
            go := some q.keySet, keys := if st.go == some q.keySet then st.keys else without st.go } } }
      else ideReply q "K_GOSTOP_ACK refused" (detect1 (blockCause 0x0705 0) { s with keep := { s.keep with
        streams := mput s.keep.streams k (if st.go == some q.keySet then st else { st with keys := without (some q.keySet) }) } })
    else ideReply q "K_GOSTOP_ACK refused" s

def execKSetGo (q : IdeReq) (s : State) : Result := .next (ideKm q (kSetGo q) s)

/-- K_SET_STOP: the key set is invalid from here on, and the TDIs of the stream enter `ERROR` (R406). -/
def kSetStop (q : IdeReq) (s : State) : State :=
  let k := streamKey q.port q.stream
  match mfind s.keep.streams k with
  | none => ideReply q "K_GOSTOP_ACK refused" s
  | some st =>
    let st1 := { st with keys := st.keys.filter (fun x => x.1 != q.keySet)
                         go := if st.go == some q.keySet then none else st.go }
    tdiFaults q.port (fun f => f.tdiStream == q.stream)
      (ideReply q "K_GOSTOP_ACK" { s with keep := { s.keep with streams := mput s.keep.streams k st1 } })

def execKSetStop (q : IdeReq) (s : State) : Result := .next (ideKm q (kSetStop q) s)

/-! ### TDISP (R406, R407) -/

def tdiFn (q : TdiReq) : Nat := fnId q.port q.vf

/-- A TDISP answer, naming the VF. -/
def tdispReply (q : TdiReq) (name : String) (content : List Byte) (s : State) : State :=
  emit s (.doe (pfOf q.port) name (leBytes 1 q.vf ++ content))

/-- A TDISP request inside a session, about a VF that is a TDI. -/
def tdisp (q : TdiReq) (f : Nat → State → State) (s : State) : State :=
  spdm (pfOf q.port) (fun s => match inSession s q.port q.session with
    | none => emit s (.doe (pfOf q.port) "ERROR UnsupportedRequest" [])
    | some i => f i s) s

/-- The VF is a TDI, or has left its definition while it was one. -/
def isTdi (s : State) (fn : Nat) : Bool := (tdiDef s fn).isSome || (getFn s fn).tdi != .unlocked

/-- The session may act on the TDI: only the one that sent the lock may (R406, log 88). -/
def mayAct (s : State) (q : TdiReq) (i : Nat) : Bool :=
  match (getFn s (tdiFn q)).tdiSession with
  | none => true
  | some (p, j) => p == q.port && j == i

/-- GET_TDISP_VERSION (R406). -/
def execGetTdispVersion (q : TdiReq) (s : State) : Result :=
  .next (tdisp q (fun _ => tdispReply q "TDISP_VERSION" [0x10]) s)
/-- GET_TDISP_CAPABILITIES (R406). -/
def execGetTdispCapabilities (q : TdiReq) (s : State) : Result :=
  .next (tdisp q (fun _ => tdispReply q "TDISP_CAPABILITIES" (Config.doeBody "TDISP_CAPABILITIES" [])) s)

/-- A selective stream in GO that covers a VF. -/
def coveringStream (s : State) (port vf : Nat) : Option Nat :=
  (s.keep.streams.find? (fun p => p.1 / 256 == port && p.2.go.isSome && p.2.covers.contains vf)).map (fun p => p.1 % 256)

/-- LOCK_INTERFACE_REQUEST: rows 1 and 2 of R406. -/
def lockInterface (q : TdiReq) (i : Nat) (s : State) : State :=
  let fn := tdiFn q
  match tdiDef s fn, coveringStream s q.port q.vf with
  | some (_, d), some st =>
    if (getFn s fn).tdi == .unlocked && (d.state == .resident || d.state == .quiesced) && d.scrubbed then
      let r := drawKeep s
      tdispReply q "LOCK_INTERFACE_RESPONSE" (leBytes 32 r.1.toNat) (setFn r.2 fn (fun f => { f with
        tdi := .locked, tdiSession := some (q.port, i), tdiNonce := r.1, tdiStream := st }))
    else tdispReply q "TDISP_ERROR" [] s
  | _, _ => tdispReply q "TDISP_ERROR" [] s

def execLockInterfaceRequest (q : TdiReq) (s : State) : Result := .next (tdisp q (lockInterface q) s)

/-- The ranges that a VF's BAR0 shows, first and last byte of each (R125, R406, R524): the capability page, the mailbox, the fault
view, and the pages of the control page and of the ring groups. -/
def barRanges : List (Nat × Nat) :=
  [(0x00000, 0x00FFF), (0x01000, 0x01FFF), (0x02000, 0x02FFF)] ++
  (List.range 240).map (fun g => (0x10000 + g * 0x1000, 0x10FFF + g * 0x1000))

/-- The device-specific part of the report (R406). -/
def reportBody (id : Nat) (d : Def) : List Byte :=
  leBytes 2 id ++ sha384 d.grant.tenantLabel ++ leBytes 2 d.keyVersion ++ sha384 d.grant.bytes

/-- GET_DEVICE_INTERFACE_REPORT: only for the session that sent the lock (R406). -/
def interfaceReport (q : TdiReq) (i : Nat) (s : State) : State :=
  let f := getFn s (tdiFn q)
  match tdiDef s (tdiFn q) with
  | some (id, d) =>
    if (f.tdi == .locked || f.tdi == .run) && f.tdiSession == some (q.port, i) then
      tdispReply q "DEVICE_INTERFACE_REPORT" (Config.doeBody "REPORT" (leBytes 2 q.vf ++
        barRanges.flatMap (fun r => leBytes 4 r.1 ++ leBytes 4 r.2)) ++ reportBody id d) s
    else tdispReply q "TDISP_ERROR" [] s
  | none => tdispReply q "TDISP_ERROR" [] s

def execGetDeviceInterfaceReport (q : TdiReq) (s : State) : Result := .next (tdisp q (interfaceReport q) s)

/-- GET_DEVICE_INTERFACE_STATE (R406). -/
def execGetDeviceInterfaceState (q : TdiReq) (s : State) : Result :=
  .next (tdisp q (fun _ s =>
    if isTdi s (tdiFn q) then tdispReply q "DEVICE_INTERFACE_STATE" (leBytes 1 (tdiCode (getFn s (tdiFn q)).tdi)) s
    else tdispReply q "TDISP_ERROR" [] s) s)

/-- START_INTERFACE_REQUEST: `RUN` with the start nonce (R406). -/
def startInterface (q : TdiReq) (i : Nat) (s : State) : State :=
  let f := getFn s (tdiFn q)
  if f.tdi == .locked && f.tdiSession == some (q.port, i) && f.tdiNonce == q.nonce then
    tdispReply q "START_INTERFACE_RESPONSE" [] (setFn s (tdiFn q) (fun f => { f with tdi := .run }))
  else tdispReply q "TDISP_ERROR" [] s

def execStartInterfaceRequest (q : TdiReq) (s : State) : Result := .next (tdisp q (startInterface q) s)

/-- What STOP_INTERFACE_REQUEST does to the definition (R406). -/
def stopDef (id : Nat) (d : Def) (s : State) : State :=
  match d.state with
  | .running => beginQuiesce id true 10000 none true false s
  | .quiescing => setDef s id (fun d => { d with quiesce := d.quiesce.map (fun q => { q with thenReset := true }) })
  | .resident | .quiesced | .faulted =>
    touchPage id (endBind id stPartitionReset (resetEffects id (setDef s id (fun d => { d with state := .resident }))))
  | .scrubbing | .defined => s

/-- STOP_INTERFACE_REQUEST (R406). -/
def stopInterface (q : TdiReq) (i : Nat) (s : State) : State :=
  let fn := tdiFn q
  if (getFn s fn).tdi != .unlocked && mayAct s q i then
    let s1 := setFn s fn (fun f => { f with tdi := .unlocked, tdiSession := none, tdiNonce := 0 })
    tdispReply q "STOP_INTERFACE_RESPONSE" [] (match tdiDef s1 fn with
      | some (id, d) => stopDef id d s1
      | none => s1)
  else tdispReply q "TDISP_ERROR" [] s

def execStopInterfaceRequest (q : TdiReq) (s : State) : Result := .next (tdisp q (stopInterface q) s)

end Sys2Proof.Machine
end

