-- ==== Sys2Proof/Machine/Belfry.lean ====
section
/-! DEFINITION. The belfry: sessions, telemetry, the lifetime account, firmware recovery, fault injection, restarts (R429 to
R442, R490, R498 to R503, R515, R516). -/

namespace Sys2Proof.Machine

/-! ### HELLO and HEARTBEAT (R431, R432) -/

/-- A message about no definition. -/
def plainMsg (len : Nat) (resv : List Byte → Bool) (pf own i3c : Bool) : MsgKind :=
  { lenOk := fun n => n == len, reservedOk := resv, aboutDef := false, fromPf := pf, fromOwn := own, fromI3c := i3c
    orphanRefused := false }

/-- LAPSE_ACTION is 0 on the PF and under minor 0 (R423, R432). -/
def helloReserved (b : Box) (p : List Byte) : Bool :=
  zeros p 3 1 && zeros p 8 8 && fld p 2 1 ≤ 1 && (fld p 2 1 == 0 || (b != .pf && fld p 1 1 != 0))

def kHello (b : Box) : MsgKind := plainMsg 16 (helloReserved b) true true false

/-- Bit s set when slot s holds a definition. -/
def residentBits (s : State) : Nat := ((List.range 64).map (fun i => bitAt (inSlot s i).isSome i)).sum

/-- The 48-byte answer of HELLO. -/
def helloAnswer (b : Box) (prev : Nat) (s : State) : List Byte :=
  let m := getBox s b
  let pf := b == .pf
  let bound := match b with
    | .part fn => (match boundTo s fn with | some p => p.1 | none => 0)
    | _ => 0
  [3] ++ leBytes 1 m.minor ++ [0, 0] ++ leBytes 4 m.hellos.toNat ++ leBytes 4 s.belfry.orphans.toNat ++
  leBytes 4 s.belfry.restarts.toNat ++ leBytes 2 s.car.live.gen ++ leBytes 2 (if pf then s.defs.length else bound) ++
  leBytes 8 (if pf then residentBits s else 0) ++
  leBytes 4 (m.heldNotices.length + (m.noticeTail - m.noticeHead).toNat) ++ leBytes 8 s.bell.ns.toNat ++ leBytes 4 prev ++
  List.replicate 4 0

/-- An answer whose header carries the supported version 3.1 (R432). -/
def answerVersion (b : Box) (r : Req) (s : State) : State :=
  deliver b (volmiMsg 1 0x0001 r.seq r.defId 1 stVersionUnsupported [])
    (signedBy 1 0x0001 r.seq r.defId 1 stVersionUnsupported [] s)

def serveHello (b : Box) (r : Req) (s : State) : Served :=
  let p := r.payload
  if fld p 0 1 != 3 then .done (answerVersion b r s)
  else
    let m := getBox s b
    let s1 := setBox s b (fun m => { m with
      minor := min 1 (fld p 1 1)
      session := some { driverId := fld p 4 4, lapseQuiesce := fld p 2 1 == 1, beatAt := now s }
      hellos := m.hellos + 1, prevDriver := fld p 4 4 })
    let s2 := if b == .pf && s.belfry.state == .orphaned then
        { s1 with belfry := { s1.belfry with state := .attached, pfExpired := false } }
      else s1
    .now stOk (helloAnswer b m.prevDriver s2) (drainNotices 257 b s2)

/-- HELLO (R423, R432, R434). -/
def execHello (b : Box) (r : Req) (s : State) : Result := .next (volmi 0x0001 (some (kHello b)) serveHello b r s)

def kHeartbeat : MsgKind := plainMsg 0 noReserved true true false

/-- HEARTBEAT: on the PF and partition mailboxes the mailbox hardware answers it (R431). -/
def execHeartbeat (b : Box) (r : Req) (s : State) : Result :=
  .next (volmi 0x0002 (some kHeartbeat) (fun _ _ s => .now stAccessDenied [] s) b r s)

/-! ### TELEMETRY_GET (R429) -/

def telKind (r : Req) : Nat := fld r.payload 0 1

def kTelemetry (r : Req) : MsgKind :=
  let k := telKind r
  { lenOk := fun n => n == 8, reservedOk := fun p => zeros p 2 6, aboutDef := k == 0 || k == 3, fromPf := true
    fromOwn := false, fromI3c := k == 2, orphanRefused := true }

/-- The sums of R314's counts over a definition's QPs. -/
def qpSums (d : Def) : List Byte :=
  let sum (f : QpCounts → Nat) : List Byte := leBytes 8 ((d.qps.map (fun q => f q.2.counts)).sum)
  sum (·.malformed) ++ sum (·.crcFail) ++ sum (·.authFail) ++ sum (·.mismatch) ++ sum (·.duplicate) ++
  sum (·.outOfWindow) ++ sum (·.retransmitted)

def serveTelemetry (_ : Box) (r : Req) (s : State) : Served :=
  let port := fld r.payload 1 1
  match telKind r with
  | 0 => match getDef s r.defId with
    | none => .now stWrongState [] s
    | some d => .now stOk (capPage s r.defId d) s
  | 1 => if 8 ≤ port then .now stMalformed [] s
    else .now stOk ((nth s.xpt.mac port []).flatMap (fun w => leBytes 8 w.toNat)) s
  | 2 => .now stOk (powerRecord s) s
  | 3 => match getDef s r.defId with
    | none => .now stWrongState [] s
    | some d =>
      if d.grant.confidential then .now stAccessDenied [] s
      else match d.slot with
        | none => .now stWrongState [] s
        | some sl => .now stOk (leBytes 8 (getSlot s sl).squash.toNat ++ qpSums d) s
  | _ => .now stMalformed [] s

def telemetry (b : Box) (r : Req) (s : State) : State := volmi 0x0500 (some (kTelemetry r)) serveTelemetry b r s

/-- TELEMETRY_GET with KIND 0. A request of another KIND is another row's. -/
def execTelemetryGetCapPage (b : Box) (r : Req) (s : State) : Result :=
  .next (if telKind r == 0 then telemetry b r s else s)
/-- TELEMETRY_GET with KIND 1. -/
def execTelemetryGetMacTotals (b : Box) (r : Req) (s : State) : Result :=
  .next (if telKind r == 1 then telemetry b r s else s)
/-- TELEMETRY_GET with KIND 2 (R462). -/
def execTelemetryGetPower (b : Box) (r : Req) (s : State) : Result :=
  .next (if telKind r == 2 then telemetry b r s else s)
/-- TELEMETRY_GET with KIND 3. -/
def execTelemetryGetSlotCounts (b : Box) (r : Req) (s : State) : Result :=
  .next (if telKind r == 3 then telemetry b r s else s)

/-! ### LIFETIME_GET (R515 to R517) -/

/-- The 64-byte answer. -/
def lifetimeAnswer (a : Account) (inRecord : Bool) (s : State) : List Byte :=
  leBytes 8 a.peakNs ++ leBytes 8 a.hotNs ++ leBytes 4 a.powerOnS ++ leBytes 4 a.boots ++ leBytes 2 a.safeCount ++
  leBytes 2 a.tamperCount ++ leBytes 2 a.fenceCount ++ leBytes 1 s.boot.fuseShown ++
  leBytes 1 (bitAt inRecord 0 + bitAt s.flash.worn 1) ++ leBytes 4 (erasesMax s.flash) ++ List.replicate 4 0 ++
  leBytes 8 s.life.cpAt.toNat ++ leBytes 8 s.life.seq ++ List.replicate 8 0

def serveLifetime (_ : Box) (_ : Req) (s : State) : Served :=
  if s.flash.worn then .now stLogWorn (lifetimeAnswer (accNow s) false s) s
  else if s.life.writing then .now stOk (lifetimeAnswer (accNow s) false s) s
  else
    let s1 := if s.life.cpClk + 20000000000 < s.clk || s.life.cpSeq == 0 then checkpoint s else s
    if s1.flash.worn then .now stLogWorn (lifetimeAnswer (accNow s1) false s1) s1
    else .now stOk (lifetimeAnswer (newestAcc s1.flash) true s1) s1

def kLifetime : MsgKind := plainMsg 0 noReserved true false true

/-- LIFETIME_GET (R516). -/
def execLifetimeGet (b : Box) (r : Req) (s : State) : Result := .next (volmi 0x0501 (some kLifetime) serveLifetime b r s)

/-- CHECKPOINT_TIMER (R515). After a reset with the safe state or the tamper latch held the log takes no record (R495). -/
def execCheckpointTimer (s : State) : Result :=
  .next (whenAlive (fun s => if s.boot.held then s else checkpoint s) s)

/-- SECTOR_ERASE_DONE (R511). -/
def execSectorEraseDone (s : State) : Result :=
  .next (whenAlive (fun s => { s with flash := { s.flash with nextErased := true } }) s)

/-! ### Images (R498, R499) -/

def imgLen (d : List Byte) : Nat := fld d 8 4
def imgSvn (d : List Byte) : Nat := fld d 12 4
def imgSections (d : List Byte) : Nat := fld d 6 2

/-- Type, offset and length of a section. -/
def imgSection (d : List Byte) (i : Nat) : Nat × Nat × Nat :=
  (fld d (64 + 32 * i) 1, fld d (68 + 32 * i) 4, fld d (72 + 32 * i) 4)

def sectionOk (d : List Byte) (i : Nat) : Bool :=
  let x := imgSection d i
  1 ≤ x.1 && x.1 ≤ 4 && x.2.1 % 4096 == 0 && 4096 ≤ x.2.1 && x.2.1 + x.2.2 ≤ imgLen d - 96 &&
  zeros d (65 + 32 * i) 3 && zeros d (76 + 32 * i) 20

/-- The first check of R499. -/
def imageHeaderOk (d : List Byte) : Bool :=
  let n := imgSections d
  let l := (List.range n).map (imgSection d)
  d.take 4 == ascii "AMTF" && fld d 4 2 == 1 && 3 ≤ n && n ≤ 16 && 4096 ≤ imgLen d && imgLen d ≤ 33554432 &&
  imgLen d % 4 == 0 && imgLen d ≤ d.length && imgSvn d ≤ 64 && zeros d 26 38 && zeros d (64 + 32 * n) (4032 - 32 * n) &&
  (List.range n).all (sectionOk d) && [1, 2, 3].all (fun t => (l.filter (fun x => x.1 == t)).length == 1) &&
  (List.range n).all (fun i => (List.range i).all (fun j =>
    !overlaps (nth l i (0, 0, 0)).2.1 (nth l i (0, 0, 0)).2.2 (nth l j (0, 0, 0)).2.1 (nth l j (0, 0, 0)).2.2))

/-- The reason for which an image is refused, or 0 (R492, R499). -/
def imageReason (d : List Byte) (fuses : Nat) : Nat :=
  let n := imgLen d
  if !imageHeaderOk d then 0x04
  else if fld d 24 2 != 0xA640 || Config.romRevision < fld d 20 4 then 0x05
  else if !sigOk Config.imageKey (sha384 (d.take (n - 96))) ((d.take n).drop (n - 96)) then 0x06
  else if imgSvn d < fuses then 0x07
  else 0

/-! ### FW_RECOVER (R430, R502, R503) -/

def recOp (r : Req) : Nat := fld r.payload 0 1

def kRecover (r : Req) : MsgKind :=
  { lenOk := fun n => n == (if recOp r == 1 then 16 + fld r.payload 8 4 else 16)
    reservedOk := fun p => zeros p 1 3 && zeros p 12 4, aboutDef := false, fromPf := true, fromOwn := false, fromI3c := true
    orphanRefused := true }

/-- A transfer runs: receiving, verifying or writing. -/
def transferring (x : Option Xfer) : Bool := match x with | some x => x.phase == 1 || x.phase == 2 || x.phase == 3 | none => false

def xferBox (x : Option Xfer) (b : Box) : Bool := match x with | some x => x.box == b | none => true

/-- An earlier transfer is abandoned. One whose image is being written leaves it cut short, as a power failure would (R430, R503;
log 32). -/
def abandonXfer (s : State) : State :=
  match s.belfry.xfer with
  | some x =>
    if x.phase == 3 then
      let s1 := { s with flash := { s.flash with image := [] }, life := { s.life with writing := false } }
      if s1.life.due then checkpoint s1 else s1
    else s
  | none => s

def recBegin (b : Box) (r : Req) (s : State) : Served :=
  let len := fld r.payload 8 4
  let x := s.belfry.xfer
  if len < 4096 || 33554432 < len then .now stMalformed [] s
  else if transferring x && !xferBox x b then .now stInUse [] s
  else .now stOk [] { abandonXfer s with belfry := { s.belfry with xfer := some { len := len, data := [], phase := 1, box := b } } }

def recData (b : Box) (r : Req) (s : State) : Served :=
  let off := fld r.payload 4 4
  let len := fld r.payload 8 4
  match s.belfry.xfer with
  | none => .now stMalformed [] s
  | some x =>
    if x.phase != 1 || x.box != b || off != x.data.length || len % 4 != 0 || len < 4 || 4096 < len ||
        (b == .i3c && 976 < len) || x.len < off + len then .now stMalformed [] s
    else .now stOk [] { s with belfry := { s.belfry with
      xfer := some { x with data := x.data ++ padTo len (r.payload.drop 16) } } }

def recCommit (b : Box) (s : State) : Served :=
  match s.belfry.xfer with
  | none => .now stMalformed [] s
  | some x =>
    if x.phase != 1 || x.box != b || x.data.length != x.len then .now stMalformed [] s
    else .now stOk [] { s with belfry := { s.belfry with xfer := some { x with phase := 2 } } }

def recStatus (s : State) : Served :=
  let x := (s.belfry.xfer).getD { len := 0, data := [], phase := 0, box := .pf }
  .now (if x.phase == 5 then stImageRejected else stOk) (leBytes 1 x.phase ++ [0, 0, 0] ++ leBytes 4 x.data.length) s

def serveRecover (b : Box) (r : Req) (s : State) : Served :=
  match recOp r with
  | 0 => recBegin b r s
  | 1 => recData b r s
  | 2 => recCommit b s
  | 3 => recStatus s
  | _ => .now stMalformed [] s

def recover (b : Box) (r : Req) (s : State) : State := volmi 0x0502 (some (kRecover r)) serveRecover b r s

/-- FW_RECOVER with OP 0. A request of another OP is another row's. -/
def execFwRecoverBegin (b : Box) (r : Req) (s : State) : Result := .next (if recOp r == 0 then recover b r s else s)
/-- FW_RECOVER with OP 1. -/
def execFwRecoverData (b : Box) (r : Req) (s : State) : Result := .next (if recOp r == 1 then recover b r s else s)
/-- FW_RECOVER with OP 2. -/
def execFwRecoverCommit (b : Box) (r : Req) (s : State) : Result := .next (if recOp r == 2 then recover b r s else s)
/-- FW_RECOVER with OP 3. -/
def execFwRecoverStatus (b : Box) (r : Req) (s : State) : Result := .next (if recOp r == 3 then recover b r s else s)

/-- The keep runs: in service or in recovery, outside the safe state. -/
def whenServing (f : State → State) (s : State) : State :=
  if alive s && !s.flt.safe && (s.boot.stage == .ready || s.boot.stage == .recovery) then f s else s

/-- FW_IMAGE_VERIFIED: the committed image passes R499 and its write begins, or it is rejected. -/
def imageVerified (s : State) : State :=
  match s.belfry.xfer with
  | none => s
  | some x =>
    if x.phase != 2 then s
    else if imgLen x.data == x.len && imageReason x.data s.keep.fuseCount == 0 then
      { s with belfry := { s.belfry with xfer := some { x with phase := 3 } }, life := { s.life with writing := true } }
    else { s with belfry := { s.belfry with xfer := some { x with phase := 5 } } }

def execFwImageVerified (s : State) : Result := .next (whenServing imageVerified s)

/-- FW_IMAGE_WRITTEN: the image has been read back. In recovery start-up resumes at step 4 (R502). -/
def imageWritten (readBack : Bool) (s : State) : State :=
  match s.belfry.xfer with
  | none => s
  | some x =>
    if x.phase != 3 then s
    else
      let s1 := { s with
        belfry := { s.belfry with xfer := some { x with phase := if readBack then 4 else 5 } }
        flash := { s.flash with image := if readBack then x.data else [] }
        life := { s.life with writing := false } }
      let s2 := if s1.life.due then checkpoint s1 else s1
      if readBack && s2.boot.stage == .recovery then { s2 with boot := { s2.boot with stage := .imageLoad, reason := 0 } }
      else s2

def execFwImageWritten (readBack : Bool) (s : State) : Result := .next (whenServing (imageWritten readBack) s)

/-! ### Fault injection (R489, R490) -/

/-- Codes of R488 that can be injected. -/
def injectable (s : State) (code : Nat) : Bool :=
  ((classOf s (blockCause code 0)).isSome || code == 0x0E00) && code != 0x0101 && code != 0x0102

/-- Codes that are always a slot's. -/
def slotCodes : List Nat :=
  [0x0500, 0x0501, 0x0701, 0x0702, 0x0703, 0x0800, 0x0801, 0x0802, 0x0804, 0x0805, 0x0900, 0x0901, 0x0902, 0x0903,
   0x0B00, 0x0B01, 0x0B02, 0x0B03, 0x0C01, 0x0E00]

def serveInject (_ : Box) (r : Req) (s : State) : Served :=
  let p := r.payload
  let code := fld p 0 2
  let sl := fld p 2 1
  let holds := sl < 64 && (inSlot s sl).isSome
  if !injectable s code || (64 ≤ sl && sl != 0xFF) || fld p 3 1 == 0 || 10000000 < fld p 4 4 then .now stMalformed [] s
  else if slotCodes.contains code && !holds then .now stWrongState [] s
  else if s.belfry.inject.isSome then .now stInUse [] s
  else
    let x : Inject := { code := code, slot := if sl == 0xFF then none else some sl, count := fld p 3 1, delayUs := fld p 4 4
                        detail := BitVec.ofNat 64 (fld p 8 8) }
    .now stOk [] { s with belfry := { s.belfry with inject := some x } }

/-- Without the unlock the opcode is unassigned (R427). -/
def kInject (s : State) : Option MsgKind := if s.keep.unlocked then some (plainMsg 16 noReserved true false false) else none

/-- FAULT_INJECT (R490). -/
def execFaultInject (b : Box) (r : Req) (s : State) : Result := .next (volmi 0x05FF (kInject s) serveInject b r s)

/-- FAULT_INJECT_FIRE: the owning unit acts once on the injected cause. -/
def injectFire (s : State) : State :=
  match s.belfry.inject with
  | none => s
  | some x =>
    let s1 := { s with belfry := { s.belfry with inject := if x.count ≤ 1 then none else some { x with count := x.count - 1 } } }
    detect1 { code := x.code, slot := x.slot, owner := none, detail := x.detail, injected := true
              loadGen := match x.slot with | some sl => (getSlot s sl).loadGen.toNat | none => 0 } s1

def execFaultInjectFire (s : State) : Result := .next (whenOp injectFire s)

/-! ### Sessions that end (R433, R434) -/

/-- The belfry runs firmware. -/
def firmwareRuns (s : State) : Bool := s.belfry.state == .attached || s.belfry.state == .orphaned

/-- The lapse action QUIESCE on a function's definition (R433). -/
def lapseAction (fn : Nat) (s : State) : State :=
  match boundTo s fn with
  | none => s
  | some (id, d) =>
    if d.spent then s
    else if d.state == .running then beginQuiesce id true 10000 none false true s
    else if d.state == .resident then
      notice .pf 0x05 0 0 0 stOk id (quiesceBind id (touchPage id (setDef s id (fun d => { d with state := .quiesced }))))
    else s

/-- VF_SESSION_LAPSE: firmware that does not run acts once it does. -/
def sessionLapse (fn : Nat) (s : State) : State :=
  match (getFn s fn).mbox.session, boundTo s fn with
  | some x, some (id, _) =>
    let s1 := setFn s fn (fun f => { f with mbox := { f.mbox with session := none } })
    let s2 := notice .pf 0x04 0 0 0 stOk id s1
    if !x.lapseQuiesce then s2
    else if firmwareRuns s2 then lapseAction fn s2
    else if s2.belfry.state == .restarting then
      { s2 with belfry := { s2.belfry with lapsed := s2.belfry.lapsed ++ [fn] } }
    else s2
  | _, _ => s

def execVfSessionLapse (fn : Nat) (s : State) : Result := .next (whenOp (sessionLapse fn) s)

/-- The PF's session ends and an `ATTACHED` belfry becomes `ORPHANED` (R434, R440). -/
def pfLost (s : State) : State :=
  let s1 := setBox s .pf (fun m => { m with session := none })
  match s.belfry.state with
  | .attached => { s1 with belfry := { s1.belfry with state := .orphaned, orphans := satAdd s1.belfry.orphans 1 } }
  | .restarting => { s1 with belfry := { s1.belfry with pfExpired := true } }
  | _ => s1

/-- PF_HEARTBEAT_TIMEOUT (R434). -/
def execPfHeartbeatTimeout (s : State) : Result :=
  .next (whenOp (fun s => if (getBox s .pf).session.isSome then pfLost s else s) s)

/-! ### Restarts (R439 to R442) -/

/-- Firmware runs or is being restarted. -/
def restartable (s : State) : Bool := firmwareRuns s || s.belfry.state == .restarting

/-- WATCHDOG_EXPIRY (R439, R442). -/
def execWatchdogExpiry (s : State) : Result := .next (whenOp (fun s => if restartable s then belfryRestart s else s) s)
/-- FIRMWARE_SELF_RESTART (R439). -/
def execFirmwareSelfRestart (s : State) : Result := .next (whenOp (fun s => if restartable s then belfryRestart s else s) s)

/-- One request of the backlog at the end of a restart: a quiesce whose work goes on waits on; one that ended meanwhile gets
its answer; anything else was not committed. -/
def answerRestarted (w : Waiting) (s : State) : State :=
  match w.ended with
  | some st => answerLater w.box w.opcode w.seq w.defId st [] s
  | none =>
    if w.opcode == 0x0104 then s
    else
      let s1 := { s with
        fns := s.fns.map (fun p => (p.1, { p.2 with unload := match p.2.unload with
          | some (b, r) => if b == w.box && r.seq == w.seq && w.opcode == 0x0102 then none else some (b, r)
          | none => none })) }
      answerLater w.box w.opcode w.seq w.defId stBelfryRestarted [] s1

/-- BELFRY_RESTART_COMPLETE. -/
def restartComplete (s : State) : State :=
  if s.belfry.state != .restarting then s
  else
    let b := s.belfry
    let lost := b.pfExpired && b.before == .attached
    let s1 := { s with belfry := { b with
      state := if b.pfExpired then .orphaned else b.before, pfExpired := false, lapsed := []
      orphans := if lost then satAdd b.orphans 1 else b.orphans } }
    let s2 := b.backlog.foldl (fun t w => answerRestarted w t) s1
    b.lapsed.foldl (fun t fn => lapseAction fn t) s2

def execBelfryRestartComplete (s : State) : Result := .next (whenOp restartComplete s)

/-- BELFRY_MEM_ECC: an uncorrectable error restarts the belfry (R488). -/
def execBelfryMemEcc (uncorrectable : Bool) (s : State) : Result :=
  .next (whenAlive (detect1 (blockCause 0x0202 (if uncorrectable then 1 else 0))) s)

end Sys2Proof.Machine
end

