-- ==== Sys2Proof/Machine/Startup.lean ====
section
/-! DEFINITION. Power, reset, the discrete pins, the start-up sequence, the entropy source and the I3C commands (R20, R30 to
R42, R68, R398, R484, R488, R491 to R504). -/

namespace Sys2Proof.Machine

/-! ### What a reset leaves (R20, R38, R482) -/

/-- FLT's values that are held while the safe state or the tamper latch is set. -/
def heldFlt (f : Flt) : Flt :=
  if f.safe || f.tampered then
    { Flt.reset with safe := f.safe, tampered := f.tampered, injected := f.injected, firstCode := f.firstCode
                     later := f.later, safeAt := f.safeAt }
  else Flt.reset

/-- An image whose write was cut short is left partly written (R503). -/
def cutImage (s : State) : Flash := { s.flash with image := if s.life.writing then [] else s.flash.image }

/-- What no loss of state reaches: the flash, the fuses, the host's memory, and the model's own counts (log 4). -/
def outliving (s : State) : State :=
  { State.reset with
    keep := { Keep.reset with fuseCount := s.keep.fuseCount, draws := s.keep.draws }
    flash := cutImage s, host := s.host, clk := s.clk, freeCtr := s.freeCtr, outs := s.outs, pending := s.pending }

/-- Block reset: everything is lost but the held values, the confidential lock (R409) and the pins. -/
def blockReset (s : State) : State :=
  let t := outliving s
  { t with
    pins := { Pins.reset with
      tamperN := s.pins.tamperN, throttleN := s.pins.throttleN, errInN := s.pins.errInN, pmbAlertN := s.pins.pmbAlertN
      ptpLocked := s.pins.ptpLocked, ptpTai := s.pins.ptpTai, ptpPps := s.pins.ptpPps, link0Up := s.pins.link0Up, link1Up := s.pins.link1Up }
    flt := heldFlt s.flt
    keep := { t.keep with confLock := s.keep.confLock, fuseLatch := s.keep.fuseLatch, tamperOwed := s.keep.tamperOwed } }

/-- POWER_UP: the filtered levels start as R33 states and RESET_N starts low. -/
def execPowerUp (s : State) : Result := .next (if s.pins.powered then s else outliving s)

/-- POWER_REMOVAL (R38, R399). -/
def execPowerRemoval (s : State) : Result :=
  .next (if s.pins.powered then { outliving s with pins := { Pins.reset with powered := false } } else s)

/-- RESET_N_ASSERT (R20, R35). -/
def execResetNAssert (s : State) : Result := .next (if alive s then blockReset s else s)

/-! ### The inputs (R34 to R37, R39) -/

def whenPowered (f : State → State) (s : State) : State := if s.pins.powered then f s else s

/-- The asserted edges that fall in this fabric clock with the one acted on: those next in the queue (R39; log 79). -/
def edgeNow (i : Instr) (s : State) : Bool :=
  (s.pending.takeWhile (fun x => [Instr.resetNAssert, .tamperNAssert, .errInNAssert, .throttleNAssert].contains x)).contains i

/-- THROTTLE_N has no effect in the safe state, nor in the clock in which an edge of RESET_N, TAMPER_N or ERR_IN_N comes before
it and stops the domes (R39; log 79). -/
def throttleActs (s : State) : Bool :=
  !s.flt.safe && !(alive s && (edgeNow .resetNAssert s || (edgeNow .tamperNAssert s && !s.flt.tampered) ||
    edgeNow .errInNAssert s))

/-- The dome clock follows what the input says. -/
def setThrottle (s : State) : State := setClock { s with power := { s.power with throttle := throttleInput s } }

/-- The dome clock follows THROTTLE_N while the pin acts (R39). -/
def throttleClock (s : State) : State := if throttleActs s then setThrottle s else s

/-- THROTTLE_N_ASSERT. While FLT.CHATTER is set for it, the assertion lasts until the raw input has been high for 1 ms
(R36). -/
def execThrottleNAssert (s : State) : Result :=
  .next (whenPowered (fun s => throttleClock { s with pins := { s.pins with
    throttleN := false, chatterThrottle := s.pins.chatterThrottle || s.flt.chatter.getLsbD 1 } }) s)
/-- THROTTLE_N_DEASSERT. -/
def execThrottleNDeassert (s : State) : Result :=
  .next (whenPowered (fun s => throttleClock { s with pins := { s.pins with throttleN := true } }) s)
/-- THROTTLE_CHATTER_RELEASE (R36): the raw input has been high for 1 ms, so the filtered level is high too. -/
def execThrottleChatterRelease (s : State) : Result :=
  .next (whenAlive (fun s => throttleClock { s with pins := { s.pins with throttleN := true, chatterThrottle := false } }) s)

/-- INPUT_CHATTER: bit `input` of FLT.CHATTER (R34, R482). -/
def inputChatter (input : Nat) (s : State) : State :=
  let s1 := detect1 (blockCause 0x0100 (BitVec.ofNat 64 input))
    { s with flt := { s.flt with chatter := s.flt.chatter ||| BitVec.ofNat 13 (2 ^ input) } }
  if input == 1 then throttleClock { s1 with pins := { s1.pins with chatterThrottle := true } } else s1

def execInputChatter (input : Nat) (s : State) : Result := .next (whenAlive (inputChatter input) s)

/-! ### Tamper (R37, R398) -/

/-- Steps 1 to 5 of R398. -/
def destroyKeys (s : State) : State :=
  let s1 := clearKeyEntries s
  { s1 with
    defs := s1.defs.map (fun p => (p.1, { p.2 with linkKeys := [], tenant := [] }))
    belfry := { s1.belfry with backlog := s1.belfry.backlog.filter (fun w =>
      !s1.keep.waits.any (fun x => x.1 == w.opcode && x.2.1 == w.box && x.2.2.1.seq == w.seq)) }
    keep := { s1.keep with
      root := none, bindKey := none, deviceKey := none, aliasKey := none, bindCert := [], aliasCert := []
      bootNonce := 0, chainOk := false, spdm := [], waits := [], unlockNonce := none
      fuseLatch := true } }

/-- The first assertion with RESET_N high: the keys, the log record, then the safe state. -/
def tamper (s : State) : State :=
  let s1 := destroyKeys { s with flt := { s.flt with tampered := true } }
  let s2 := { s1 with
    life := { s1.life with acc := { s1.life.acc with tamperCount := satN 16 s1.life.acc.tamperCount 1 } }
    boot := if s1.boot.stage == .ready || s1.boot.stage == .recovery then s1.boot
      else { s1.boot with stage := .stopped, reason := 0x03 } }
  detect1 (blockCause 0x0102 0) (if s2.boot.held then s2 else appendLog 0x0021 [] s2)

/-- TAMPER_N_ASSERT: only the first one counts. While RESET_N is low it sets the two latches (R37). -/
def tamperAssert (s : State) : State :=
  let s1 := { s with pins := { s.pins with tamperN := false } }
  if s.flt.tampered then s1
  else if s.pins.resetN then tamper s1
  else { s1 with flt := { s1.flt with tampered := true }, keep := { s1.keep with fuseLatch := true, tamperOwed := true } }

/-- RESET_N comes before every other edge of the clock, and TAMPER_N before ERR_IN_N (R39). -/
def resetFirst (s : State) : State := if edgeNow .resetNAssert s && alive s then blockReset s else s
def tamperFirst (s : State) : State := if edgeNow .tamperNAssert s then tamperAssert (resetFirst s) else resetFirst s

def execTamperNAssert (s : State) : Result := .next (whenPowered (fun s => tamperAssert (resetFirst s)) s)

/-- ERR_IN_N_ASSERT (R35). While RESET_N is low only its level counts (R37). -/
def execErrInNAssert (s : State) : Result :=
  .next (whenPowered (fun s =>
    let s0 := tamperFirst s
    let s1 := { s0 with pins := { s0.pins with errInN := false } }
    if s0.pins.resetN then detect1 (blockCause 0x0101 0) s1 else s1) s)

/-! ### Start-up (R493 to R497, R500, R501) -/

/-- The board configuration block passes its check (R496). -/
def bcbOk (b : List Byte) : Bool :=
  b.length == 64 && fld b 0 1 == 1 && fld b 1 1 ≤ 4 && (List.range 4).all (fun i => fld b (2 + i) 1 < 128) &&
  fld b 6 1 < 4 && fld b 7 1 < 2 && zeros b 8 48 && fld b 56 8 == (crc64 0 (b.take 56)).toNat

/-- The block, checked on belfry lane 0 (R358), or its defaults: no converters, severity zero, CONF_LOCK. -/
def readBcb (s0 : State) : State :=
  let b := s0.flash.bcb
  let s := { s0 with crc0 := (CrcCtx.init 3 true 0).feed (b.take 56) }
  if bcbOk b then
    { s with boot := { s.boot with convs := fld b 1 1, bcbDefaulted := false }
             keep := { s.keep with severity := BitVec.ofNat 8 (fld b 6 1), confLock := s.keep.confLock || bit (fld b 7 1) 0 } }
  else
    { s with boot := { s.boot with convs := 0, bcbDefaulted := true }
             keep := { s.keep with severity := 0, confLock := true } }

/-- Sequence number of the newest record, and the accounts of the newest CHECKPOINT (R497, R515). -/
def readLog (s : State) : State :=
  { s with life := { s.life with
      seq := ((s.flash.log.filter LogRec.ok).map (·.seq)).foldl max 0, acc := newestAcc s.flash, powerClk := s.clk } }

def stopAt (reason : Nat) (s : State) : State := { s with boot := { s.boot with stage := .stopped, reason := reason } }

/-- Step 2 of R493: fuses, BOOT_NONCE and the keys, CFG_HBM_POP, SFDP, the board configuration block, and the CHECKPOINT that
counts this start-up. -/
def stepTwo (s : State) : State :=
  let r := drawKeep s
  let s1 := deriveRoot { r.2 with
    keep := { r.2.keep with bootNonce := r.1 }
    boot := { r.2.boot with fuseShown := r.2.keep.fuseCount } }
  if s1.pins.hbmPop == 3 then stopAt 0x01 s1
  else if !s1.boot.sfdpOk then stopAt 0x02 s1
  else
    let s2 := readLog (readBcb s1)
    checkpoint { s2 with
      life := { s2.life with acc := { s2.life.acc with boots := satN 32 s2.life.acc.boots 1 } }
      boot := { s2.boot with stage := .training } }

/-- The straps and tie-offs are sampled, and the filtered inputs stand at the levels found (R32, R33, R41; log 80). -/
def sampleStraps (st : Straps) (s : State) : State :=
  { s with
    pins := { s.pins with
      resetN := true, testMode := st.testMode, instanceId := st.instanceId, hbmPop := st.hbmPop, lsoEn := st.lsoEn
      host1En := st.host1En, errInN := st.errInN, pmbAlertN := st.pmbAlertN, ptpPps := st.ptpPps }
    boot := { s.boot with octal := st.octal, sfdpOk := st.sfdpOk, stage := .keepRom }
    keep := { s.keep with entropyOk := st.entropyOk } }

/-- Start-up stops at step 1 with the safe state or the tamper latch held (R495). -/
def heldStart (s : State) : State :=
  let s1 := indicate { s with boot := { s.boot with
    held := true, stage := .stopped, reason := if s.flt.tampered then 0x03 else 0x08 } }
  if s1.keep.tamperOwed then
    let s2 := readLog s1
    let s3 := appendLog 0x0021 [] s2
    { s3 with keep := { s3.keep with tamperOwed := false } }
  else s1

/-- RESET_N_DEASSERT: step 1, the inputs asserted at that moment (R37), and step 2, which waits for the entropy source. -/
def resetDeassert (st : Straps) (s : State) : State :=
  let s0 := sampleStraps st s
  let s1 := if s0.flt.safe then setClock s0 else setThrottle s0
  if s1.flt.safe || s1.flt.tampered then heldStart s1
  else if !s1.pins.errInN then detect1 (blockCause 0x0101 0) s1
  else if st.entropyOk then stepTwo s1
  else detect1 (blockCause 0x0D00 0) s1

def execResetNDeassert (st : Straps) (s : State) : Result :=
  .next (if s.pins.powered && !s.pins.resetN then resetDeassert st s else s)

/-- ENTROPY_FAIL: key derivations wait from here on (R488). -/
def execEntropyFail (s : State) : Result :=
  .next (whenAlive (fun s => detect1 (blockCause 0x0D00 0) { s with keep := { s.keep with entropyOk := false } }) s)

/-- ENTROPY_SOURCE_RECOVERED: the waiting derivations proceed, those of step 2 among them (R488, R493). -/
def execEntropySourceRecovered (s : State) : Result :=
  .next (whenAlive (fun s =>
    let s1 := { s with keep := { s.keep with entropyOk := true, waits := [] } }
    if operating s then s.keep.waits.foldl (fun t w => serveWaiting w t) s1
    else if s.boot.stage == .keepRom && !s.keep.entropyOk then stepTwo s1
    else s1) s)

/-- Training finds the populated stacks present, equal and of a supported capacity (R42, R56). -/
def stacksOk (s : State) (o : StartUp) : Bool :=
  match (o.stackGib.take (ports s)).head? with
  | some (some g) => 24 ≤ g && g ≤ 96 && (o.stackGib.take (ports s)).all (· == some g)
  | _ => false

/-- Step 3: training, the stacks' on-die ECC (R57), the block reserve under its key, and the engine self-test with its fences
(R501). -/
def trained (o : StartUp) (s : State) : State :=
  let s1 := { s with
    boot := { s.boot with pinRate := o.pinRate, selfTest := o.selfTestFailed
                          stackGib := match o.stackGib.head? with | some (some g) => g | _ => 0
                          onDieEcc := List.range (ports s) }
    vault := { s.vault with blockKey := some (blockKeyNow s) }
    domes := { s.domes with fenced := s.domes.fenced ||| o.selfTestFailed } }
  if o.selfTestFailed == 0 then s1 else appendLog 0x0012 (leBytes 2 o.selfTestFailed.toNat) s1

/-- Fuse steps for an image whose security version is above the count (R500). -/
def blowFuses (svn : Nat) (s : State) : State :=
  if s.keep.fuseCount < svn then
    appendLog 0x0011 (leBytes 1 svn)
      { s with keep := { s.keep with fuseCount := svn }, boot := { s.boot with fuseShown := svn } }
  else s

/-- IMAGE_LOADED, where the image differs from the one last recorded (R503) in a record that passes its check (R358, R515). -/
def recordImage (d : List Byte) (s : State) : State :=
  let pay := leBytes 1 (imgSvn d) ++ leBytes 4 (fld d 16 4)
  match (s.flash.log.filter (fun r => r.kind == 0x0010 && r.ok)).getLast? with
  | some r => if r.payload.take 5 == pay then s else appendLog 0x0010 pay s
  | none => appendLog 0x0010 pay s

/-- The egress schedulers' overhead is programmed over their control ports (R52). -/
def programSchedulers (s : State) : State :=
  (List.range 8).foldl (fun s p => emit s (.overhead p 20)) { s with car := { s.car with overhead := some 20 } }

/-- Steps 4 to 8: the image is verified and measured and the belfry released, or start-up stops in `RECOVERY` (R502). -/
def loadImage (s : State) : State :=
  let d := s.flash.image
  let why := imageReason d s.keep.fuseCount
  if why != 0 then
    { s with boot := { s.boot with stage := .recovery, reason := why, imageSvn := 0, fwVersion := 0 }
             belfry := { s.belfry with state := .recovery } }
  else
    let s1 := programSchedulers (recordImage d (blowFuses (imgSvn d) s))
    issueAlias { s1 with
      boot := { s1.boot with stage := .ready, reason := 0, imageSvn := imgSvn d, fwVersion := BitVec.ofNat 32 (fld d 16 4) }
      keep := { s1.keep with imageDigest := sha384 (d.take (imgLen d)), imageSvn := imgSvn d }
      belfry := { s1.belfry with state := .orphaned } }

/-- START_UP_COMPLETE: steps 3 to 8, or steps 4 to 8 after a recovery. -/
def startUp (o : StartUp) (s : State) : State :=
  match s.boot.stage with
  | .training => if stacksOk s o then setClock (loadImage (trained o s)) else stopAt 0x01 s
  | .imageLoad => setClock (loadImage s)
  | _ => s

def execStartUpComplete (o : StartUp) (s : State) : Result :=
  .next (whenAlive (fun s => if s.flt.safe then s else startUp o s) s)

/-! ### The TAP (R71)

No command of the table shifts the TAP. What it would show is given here (log 65). -/

/-- The TAP's instructions. -/
inductive TapInstr where
  | bypass | idcode | boundaryScan | debug
  deriving DecidableEq, Repr

/-- IDCODE of IEEE 1149.1: the stepping as version, the part number, the manufacturer code and a one. -/
def tapIdcode : BitVec 32 := BitVec.ofNat 32
  (Config.stepping.toNat % 16 * 2 ^ 28 + 0xA640 * 2 ^ 12 + Config.jedecMfr.toNat * 2 + 1)

/-- The instructions that the TAP executes: under the confidential lock only `BYPASS` and `IDCODE`. -/
def tapExecutes (s : State) (i : TapInstr) : Bool :=
  match i with
  | .bypass | .idcode => true
  | .boundaryScan | .debug => !s.keep.confLock

/-- TDO is driven only out of reset and with TRST_N high. -/
def tdoDriven (s : State) (trstN : Bool) : Bool := trstN && alive s

/-- The levels of the discrete pins that boundary scan captures, the inputs' first (R30, R71). -/
def pinLevels (s : State) : List Bool :=
  [s.pins.resetN, s.pins.tamperN, s.pins.throttleN, s.pins.errInN, s.pins.pmbAlertN, s.pins.ptpPps, s.pins.ptpLocked,
    s.pins.ptpTai, s.pins.testMode, !s.pins.faultNLow] ++ (List.range 4).map (fun k => s.pins.instanceId.getLsbD k)

/-- The data register that an instruction selects, as bits shifted out: one bit for `BYPASS`, 32 for `IDCODE`, and for boundary
scan the register that holds a cell of each port, whose length and whose order of cells the manual does not give (log 65). The
debug access answers by the row DEBUG_ACCESS, and shows none here. An instruction that the lock withholds acts as `BYPASS`. -/
def tapShows (s : State) (trstN : Bool) (i : TapInstr) : Option (Nat × Nat) :=
  if !tdoDriven s trstN then none
  else match i with
    | .idcode => some (32, tapIdcode.toNat)
    | .bypass => some (1, 0)
    | .boundaryScan => if tapExecutes s i then some (Config.scanLength, Config.scanCells (pinLevels s)) else some (1, 0)
    | .debug => if tapExecutes s i then none else some (1, 0)

/-! ### The I3C target (R68, R69, R484) -/

/-- The 48-bit provisioned ID, highest byte first as the bus carries it. -/
def i3cPid (s : State) : List Byte :=
  beBytes 6 (Config.mipiMfr.toNat * 2 ^ 33 + 0xA640 * 2 ^ 16 + s.pins.instanceId.toNat * 2 ^ 12 + Config.stepping.toNat)

/-- ENTDAA: with two equal IDs on the bus the result is undefined, and the address is a free value (R69, log 4). -/
def entdaa (dyn : BitVec 7) (equalId : Bool) (s : State) : State :=
  if s.belfry.i3cAddr.isSome then s
  else
    let r := drawFree s
    let s1 := if equalId then r.2 else s
    let addr : BitVec 7 := if equalId then r.1.truncate 7 else dyn
    emit { s1 with belfry := { s1.belfry with i3cAddr := some addr } }
      (.i3c (i3cPid s ++ [Config.i3cBcr, Config.i3cDcr]))

def execEntdaa (dyn : BitVec 7) (equalId : Bool) (s : State) : Result := .next (whenAlive (entdaa dyn equalId) s)
/-- RSTDAA: the address goes, and the enable of in-band interrupts stays (R68, log 93). -/
def execRstdaa (s : State) : Result :=
  .next (whenAlive (fun s => { s with belfry := { s.belfry with i3cAddr := none } }) s)

/-- A direct command reaches only a target that has its address. -/
def whenAddressed (f : State → State) (s : State) : State := if alive s && s.belfry.i3cAddr.isSome then f s else s

/-- GETPID. -/
def execGetpid (s : State) : Result := .next (whenAddressed (fun s => emit s (.i3c (i3cPid s))) s)
/-- GETBCR. -/
def execGetbcr (s : State) : Result := .next (whenAddressed (fun s => emit s (.i3c [Config.i3cBcr])) s)
/-- GETDCR. -/
def execGetdcr (s : State) : Result := .next (whenAddressed (fun s => emit s (.i3c [Config.i3cDcr])) s)
/-- GETSTATUS: bit 8 is the safe state; the manual gives no other bit, so they are free values (log 4). -/
def execGetstatus (s : State) : Result :=
  .next (whenAddressed (fun s =>
    let r := drawFree s
    let hi : Byte := (r.1.truncate 8 &&& 0xFE) ||| (if s.flt.safe then 1 else 0)
    emit r.2 (.i3c [hi, (r.1 >>> 8).truncate 8])) s)
/-- ENEC. -/
def execEnec (s : State) : Result := .next (whenAlive (fun s => { s with belfry := { s.belfry with ibiEn := true } }) s)
/-- DISEC. -/
def execDisec (s : State) : Result := .next (whenAlive (fun s => { s with belfry := { s.belfry with ibiEn := false } }) s)

end Sys2Proof.Machine
end

