-- ==== Sys2Proof/Machine/BellTime.lean ====
section
/-! DEFINITION. The bell's states, the carillon messages and the buttress's windows (R64 to R104). -/

namespace Sys2Proof.Machine

/-! ### The start of a window (R102, R456) -/

/-- F on each network port for the definition in a slot. -/
def framesNow (s : State) (slot : Nat) : List Nat :=
  match inSlot s slot with
  | none => []
  | some (_, d) => (List.range 8).map (largestFrame d)

/-- The allowances and the counts of every slot start again. -/
def windowStart (s : State) : State :=
  { s with
    slots := s.slots.map (fun p => (p.1, { p.2 with
      served := [], prevMem := (mfind p.2.served 0).getD 0, energy := 0, held := false, slack := []
      frameAt := framesNow s p.1 }))
    car := { s.car with
      window := now s / 1048576
      switchedIn := if s.car.switchedIn == some (now s / 1048576) then s.car.switchedIn else none } }

/-! ### The bell (R65, R66, R74, R75) -/

/-- The largest second count whose nanoseconds fit in 64 bits (R65). -/
def todMax : Nat := 18446744073

/-- The time port counts as locked (R65, R74). -/
def portLocked (s : State) : Bool := s.pins.ptpTai && s.pins.ptpLocked && s.bell.todOk && s.bell.ppsSeen

/-- The rate after a correction: within 100 ppm of the nominal rate (R75). -/
def slewed (e : Int) (rate : Nat) : Nat :=
  let nominal : Int := 2 ^ 39
  let lim : Int := 2 ^ 39 / 10000
  (max (nominal - lim) (min (nominal + lim) (nominal + Config.slew e rate))).toNat

/-- The phase error at an edge: the bell time of the edge, 1,000 ns before its acceptance, less PTP_TOD (R66, R74). -/
def phaseError (s : State) (tod : BitVec 48) : Int := (now s : Int) - 1000 - (tod.toNat * 1000000000 : Nat)

/-- PHASE_ERR saturates (R80). -/
def satErr (e : Int) : Int := max (-(2 ^ 31 - 1)) (min (2 ^ 31 - 1) e)

def enterLocked (b : Bell) : Bell :=
  { b with state := .locked, everLocked := true, alignLost := false, lockCount := satAdd b.lockCount 1, good := 0, bad := 0 }

def enterAcquiring (b : Bell) : Bell := { b with state := .acquiring, good := 0, bad := 0 }

/-- The time port is unlocked: the rate is frozen at its last value. -/
def enterHoldover (b : Bell) : Bell :=
  if b.state == .acquiring || b.state == .locked then { b with state := .holdover, good := 0, bad := 0 } else b

/-- One edge with the time port locked, at a phase error. -/
def edge (e : Int) (tod : BitVec 48) (b : Bell) : Bell :=
  match b.state with
  | .freerun => enterAcquiring { b with ns := BitVec.ofNat 64 (tod.toNat * 1000000000 + 1000), fine := 0 }
  | .acquiring =>
    let n := if e.natAbs ≤ 24 then b.good + 1 else 0
    if 4 ≤ n then enterLocked { b with rate := slewed e b.rate } else { b with rate := slewed e b.rate, good := n }
  | .locked =>
    let n := if 64 < e.natAbs then b.bad + 1 else 0
    if 2 ≤ n then enterAcquiring { b with rate := slewed e b.rate } else { b with rate := slewed e b.rate, bad := n }
  | .holdover => enterAcquiring { b with rate := slewed e b.rate }

/-- PPS_EDGE: a filtered rising edge with the seconds that PTP_TOD shows for it. The step out of `FREERUN` starts the window of
R102 in which the bell then stands. -/
def ppsEdge (tod : BitVec 48) (s : State) : State :=
  let e := phaseError s tod
  let b := { s.bell with ppsSeen := true, todOk := decide (tod.toNat ≤ todMax), phaseErr := satErr e }
  let s1 := { s with bell := b, pins := { s.pins with ptpPps := true } }
  let s2 := { s1 with bell := if portLocked s1 then edge e tod b else enterHoldover b }
  if s.bell.state == .freerun && portLocked s1 then windowStart s2 else s2

def execPpsEdge (tod : BitVec 48) (s : State) : Result := .next (whenAlive (ppsEdge tod) s)

/-- New levels of PTP_TAI and PTP_LOCKED with the PTP_TOD seen. -/
def timePort (tai locked : Bool) (tod : BitVec 48) (s : State) : State :=
  { s with pins := { s.pins with ptpTai := tai, ptpLocked := locked }
           bell := { s.bell with todOk := decide (tod.toNat ≤ todMax) } }

/-- What the time port's state makes of the bell's: unlocked is `HOLDOVER`, locked again is `ACQUIRING` (R74). -/
def followPort (s : State) : State :=
  if !portLocked s then { s with bell := enterHoldover s.bell }
  else if s.bell.state == .holdover then { s with bell := enterAcquiring s.bell }
  else s

/-- TIME_PORT_UNLOCK (R65). While RESET_N is low only the levels move. -/
def execTimePortUnlock (tai locked : Bool) (tod : BitVec 48) (s : State) : Result :=
  .next (whenPowered (fun s => followPort (timePort tai locked tod s)) s)

/-- PPS_TIMEOUT: no edge for 1.5 s. -/
def execPpsTimeout (s : State) : Result :=
  .next (whenAlive (fun s => { s with bell := enterHoldover { s.bell with ppsSeen := false } }) s)

/-- TIME_PORT_LOCK: the levels rise while edges arrive. -/
def execTimePortLock (tod : BitVec 48) (s : State) : Result :=
  .next (whenPowered (fun s => followPort (timePort true true tod s)) s)

/-- HOLDOVER_TIMEOUT: 10 s in `HOLDOVER`. -/
def execHoldoverTimeout (s : State) : Result :=
  .next (whenAlive (fun s =>
    if s.bell.state == .holdover then
      detect1 (blockCause 0x0300 0) { s with bell := { s.bell with alignLost := true } }
    else s) s)

/-! ### Tables (R86, R87, R89) -/

/-- An entry from its 32 bytes. -/
def parseEntry (e : List Byte) : CarEntry :=
  { mem := fld e 0 1, noLendMem := bit (fld e 1 1) 0, noLendHost := bit (fld e 1 1) 1, host := fldList e 2 1 2
    net := fldList e 4 1 8, dome := fldList e 12 1 16, reservedSet := !(fld e 1 1 < 4 && zeros e 28 4) }

def ownerOk (o : Nat) : Bool := o < 64 || o == ownerOpen || o == ownerEmpty

def entryOk (e : CarEntry) : Bool := (List.range 27).all (fun res => ownerOk (e.owner res)) && !e.reservedSet

/-- R89, for a table whose 16 chunks have arrived. -/
def tableOk (t : Table) : Bool :=
  t.chunks.all (fun c => c.2.all entryOk) && 16 ≤ openCount t 0 &&
  (List.range 16).all (fun d => ownersOf t (11 + d) ≤ 4)

/-! ### CARILLON_STAGE (R91) -/

def carMsg (len : Nat) (resv : List Byte → Bool) : MsgKind :=
  { lenOk := fun n => n == len, reservedOk := resv, aboutDef := false, fromPf := true, fromOwn := false, fromI3c := false
    orphanRefused := true }

/-- The staged table with one chunk put in. An entry lost to TABLE_ECC stays `EMPTY` when its chunk is sent again (R91, R488;
log 66). -/
def stageChunk (t : Option Table) (gen chunk : Nat) (bs : List Byte) : Table :=
  let base : Table := match t with
    | some x => if x.gen == gen then x else { gen := gen, chunks := [], empties := [] }
    | none => { gen := gen, chunks := [], empties := [] }
  { base with chunks := mput base.chunks chunk ((List.range 64).map (fun i => parseEntry ((bs.drop (i * 32)).take 32))) }

/-- The mask of an owner byte in a gate list: the owner's bit, all 64 bits for `OPEN`, none for `EMPTY` (R53, R91). -/
def gateMask (o : Nat) : Word :=
  if o == ownerOpen then BitVec.allOnes 64 else if o < 64 then BitVec.ofNat 64 (2 ^ o) else 0

/-- A port's gate list: one mask for each of the 1,024 entries. -/
def gateMasks (t : Table) (port : Nat) : List Word := (List.range 1024).map (fun i => gateMask (ownerAt t i (3 + port)))

/-- The pending gate lists are written on all eight ports (R53, R91). -/
def writeGates (t : Table) (s : State) : State :=
  (List.range 8).foldl (fun s p => emit s (.gateList p t.gen (gateMasks t p)))
    { s with car := { s.car with schedGen := some t.gen } }

def serveStage (_ : Box) (r : Req) (s : State) : Served :=
  let gen := fld r.payload 0 2
  let chunk := fld r.payload 2 1
  if s.car.armed then .now stCarillonArmed [] s
  else if gen == 0 || gen == s.car.live.gen || 15 < chunk then .now stMalformed [] s
  else
    let t := stageChunk s.car.staged gen chunk (r.payload.drop 8)
    if t.chunks.length < 16 then .now stOk [] { s with car := { s.car with staged := some t, complete := false } }
    else if tableOk t then .now stOk [] (writeGates t { s with car := { s.car with staged := some t, complete := true } })
    else .now stMalformed [] { s with car := { s.car with staged := none, complete := false } }

def kStage : MsgKind := carMsg 2056 (fun p => zeros p 3 5)

/-- CARILLON_STAGE. -/
def execCarillonStage (b : Box) (r : Req) (s : State) : Result := .next (volmi 0x0200 (some kStage) serveStage b r s)

/-! ### CARILLON_ARM (R92, R93, R54) -/

/-- 8 frames. -/
def lead : Nat := 1048576

def refuseArm (st : Nat) (s : State) : Served := .now st [] { s with car := { s.car with refused := true } }

/-- T goes to the schedulers in port order up to the first that does not accept it; what was written is withdrawn and an
earlier arm's time is written again. -/
def offerTime (t : Nat) (accept : BitVec 8) (s : State) : Bool × State :=
  let ok := accept == 0xFF
  let n := ((List.range 8).takeWhile (fun p => accept.getLsbD p)).length
  let s1 := (List.range n).foldl (fun s p => emit s (.switchTime p (BitVec.ofNat 64 t))) s
  if ok then (true, s1)
  else
    (false, (List.range n).foldl (fun s p =>
      let s2 := emit s (.withdraw p)
      if s.car.armed then emit s2 (.switchTime p s.car.armTime) else s2) s1)

/-- Every definition in a slot gets its request from the staged table. -/
def stagedGivesAll (s : State) : Bool :=
  match s.car.staged with
  | none => false
  | some t => s.defs.all (fun p => match p.2.slot with | some sl => tableGives t p.2.grant sl | none => true)

def timeLocked (s : State) : Bool :=
  s.bell.everLocked && (s.bell.state == .locked || (s.bell.state == .holdover && !s.bell.alignLost))

/-- Too close to the armed time to change it. A re-arm so late is answered `ARM_TOO_LATE` before the rows of R92 are tested
(R93, log 66). -/
def tooClose (s : State) : Bool := s.car.armed && s.car.armTime.toNat < now s + lead

def serveArm (accept : BitVec 8) (_ : Box) (r : Req) (s : State) : Served :=
  let gen := fld r.payload 0 2
  let t := fld r.payload 8 8
  if tooClose s then refuseArm stArmTooLate s
  else if !timeLocked s then refuseArm stTimeUnlocked s
  else if !(s.car.complete && (match s.car.staged with | some x => x.gen == gen | none => false)) then refuseArm stMalformed s
  else if t % 131072 != 0 || now s + 60000000000 < t then refuseArm stMalformed s
  else if t < now s + lead then refuseArm stArmTooLate s
  else if !stagedGivesAll s then refuseArm stGrantShortfall s
  else
    let r := offerTime t accept s
    if !r.1 then refuseArm stArmTooLate r.2
    else .now stOk (leBytes 8 t) { r.2 with car := { r.2.car with
      armed := true, armTime := BitVec.ofNat 64 t, refused := false, schedTime := some (BitVec.ofNat 64 t) } }

/-- A disarm (R93). With nothing armed it is accepted, before EVER_LOCKED too, and as every accepted CARILLON_ARM clears
ARM_REFUSED (R77, R96; log 66). -/
def serveDisarm (_ : Box) (_ : Req) (s : State) : Served :=
  if !s.car.armed then .now stOk (leBytes 8 0) { s with car := { s.car with refused := false } }
  else if tooClose s then refuseArm stArmTooLate s
  else
    let s1 := (List.range 8).foldl (fun s p => emit s (.withdraw p)) s
    .now stOk (leBytes 8 0) { s1 with car := { s1.car with armed := false, armTime := 0, refused := false, schedTime := none } }

def kArm : MsgKind := carMsg 16 (fun p => zeros p 2 6)

/-- CARILLON_ARM with T not 0. `accept` says which egress schedulers take T as a future time. A refusal by a row of R424 leaves
ARM_REFUSED as it is (R96, log 66). -/
def execCarillonArm (b : Box) (r : Req) (accept : BitVec 8) (s : State) : Result :=
  .next (if fld r.payload 8 8 != 0 then volmi 0x0201 (some kArm) (serveArm accept) b r s else s)
/-- CARILLON_DISARM: CARILLON_ARM with T = 0. -/
def execCarillonDisarm (b : Box) (r : Req) (s : State) : Result :=
  .next (if fld r.payload 8 8 == 0 then volmi 0x0201 (some kArm) serveDisarm b r s else s)

/-! ### The switchover (R94) -/

/-- The gate bit of a subscriber on a port in slot 0 of a table (R91). -/
def gateBit (t : Table) (port slot : Nat) : Bool := (gateMask (ownerAt t 0 (3 + port))).getLsbD slot

/-- The subscribers that egress holds back. -/
def changedGates (old new : Table) : List (Nat × Nat) :=
  (List.range 8).flatMap (fun p =>
    ((List.range 64).filter (fun sl => gateBit old p sl != gateBit new p sl)).map (fun sl => (p, sl)))

def switchover (s : State) : State :=
  match s.car.staged with
  | none => s
  | some t =>
    if !s.car.armed || now s < s.car.armTime.toNat then s
    else
      let s1 := { s with car := { s.car with
        live := t, staged := none, complete := false, armed := false, armTime := 0, schedTime := none
        holdUntil := s.car.armTime.toNat + 128, hold := changedGates s.car.live t
        switchedIn := some (s.car.armTime.toNat / 1048576) } }
      touchPages s1

/-- CARILLON_SWITCHOVER: the first fabric clock at which the bell has reached the armed time. -/
def execCarillonSwitchover (s : State) : Result := .next (whenOp switchover s)

/-- EGRESS_HOLD_END: at T + 128 ns the frames that were held back go out. -/
def egressHoldEnd (s : State) : State :=
  if now s < s.car.holdUntil then s else releaseHeld { s with car := { s.car with hold := [] } }

def execEgressHoldEnd (s : State) : Result := .next (whenOp egressHoldEnd s)

/-- TABLE_ECC: an entry of the live or the staged table reads `EMPTY` (R488), and the pages that show the live table's figures
follow (R128), or the block enters the safe state. -/
def tableEcc (live : Bool) (entry : Nat) (s : State) : State :=
  let s1 := if live then { s with car := { s.car with live := { s.car.live with empties := insNat entry s.car.live.empties } } }
    else { s with car := { s.car with staged := s.car.staged.map (fun t => { t with empties := insNat entry t.empties }) } }
  let s2 := if live then touchPages s1 else s1
  detect1 (blockCause 0x0400 (BitVec.ofNat 64 entry)) s2

def execTableEcc (live : Bool) (entry : Nat) (s : State) : Result :=
  .next (whenAlive (fun s => if live || s.car.staged.isSome then tableEcc live entry s else s) s)

/-! ### Missed guarantees (R102, R103) -/

/-- The per-frame guarantee with F as it was at the window's start. -/
def windowGuarantee (s : State) (d : Def) (slot res : Nat) : Nat :=
  let t := s.car.live
  if 3 ≤ res && res < 11 then
    owned t res slot * 12800 - runs t res slot * ((getSlot s slot).frameAt.getD (res - 3) (largestFrame d (res - 3)))
  else guarantee s t d slot res

/-- The bit of a resource in BTR.MISS (R104). -/
def missBit (res : Nat) : Nat := if res == 0 then 0 else if res < 11 then res + 1 else if res < 27 then 1 else res - 25

/-- The test of one backlogged slot and resource. -/
def isMiss (s : State) (d : Def) (slot res : Nat) : Bool :=
  (d.state == .resident || d.state == .running) &&
  (res < 11 || 27 ≤ res || (bit d.grant.domeMask (res - 11) && !s.domes.fenced.getLsbD (res - 11) && !(getSlot s slot).held)) &&
  (mfind (getSlot s slot).served res).getD 0 < 8 * windowGuarantee s d slot res

/-- A miss, with the slot and the MISS bit in DETAIL (log 66): the bits, the count and the event; the record and the view's copy
only where their bit goes from 0 to 1. -/
def miss (id slot res : Nat) (d : Def) (s : State) : State :=
  let fn := boundFn d
  let i := missBit res
  let c := slotCause s id 0x0500 (BitVec.ofNat 64 (slot * 256 + i))
  let e := entryOf s .corrected c
  let up (m : Miss) : Miss := { bits := m.bits ||| BitVec.ofNat 12 (2 ^ i), count := min 65535 (m.count + 1) }
  let riseP := !(getSlot s slot).miss.bits.getLsbD i
  let riseV := !(getFn s fn).miss.bits.getLsbD i
  let s1 := setFn (setSlot s slot (fun x => { x with miss := up x.miss })) fn (fun f => { f with miss := up f.miss })
  let s2 := if riseP then recordClock 5 [redact s1 c e] s1 else s1
  if riseV then viewSet fn 1 (viewRecord fn e s2) else s2

/-- A slot was backlogged on a resource: something waited at the start of every entry it owns (R102). -/
def wasBacklogged (s : State) (slot res : Nat) : Bool :=
  0 < owned s.car.live res slot && !(getSlot s slot).slack.contains res

/-- A slot's requests on a host port waited at every entry it owns, because the port's controller, which is outside, was slow to
take them: here a transfer ends within its step (R60, R102; log 9). -/
def hostWaited (waited : List (Nat × Nat)) (s : State) (slot res : Nat) : Bool :=
  (res == 1 || res == 2 || 27 ≤ res) && 0 < owned s.car.live res slot && waited.contains (slot, res)

/-- The test of every slot and resource, but for a window in which a table became live, and the start of the next window. -/
def windowEnd (waited : List (Nat × Nat)) (s : State) : State :=
  let s1 := if s.car.switchedIn == some s.car.window then s
    else (List.range 64).foldl (fun s sl => (List.range 29).foldl (fun s res =>
      match inSlot s sl with
      | some (id, d) => if (wasBacklogged s sl res || hostWaited waited s sl res) && isMiss s d sl res then miss id sl res d s else s
      | none => s) s) s
  windowStart s1

/-- The bell has entered the next window (R102). -/
def windowDue (s : State) : Bool := s.car.window != now s / 1048576

/-- GUARANTEE_WINDOW_END: the bell reaches a multiple of eight frames. -/
def execGuaranteeWindowEnd (waited : List (Nat × Nat)) (s : State) : Result :=
  .next (whenOp (fun s => if windowDue s then windowEnd waited s else s) s)

end Sys2Proof.Machine
end

