-- ==== Sys2Proof/Machine/Core64.lean ====
section
/-! DEFINITION. The RV64GC core of a lantern in user mode: fetch under the PMP regions, the compressed encodings, the base set
with M, A and Zicsr, and F and D in IEEE 754 arithmetic (R228, R229, R235). The encodings and effects are those of the RISC-V
specification, to which R228 refers (PRESUMED, log 70). -/

namespace Sys2Proof.Machine

/-! ### Local memory (R229) -/

def codeBase : Nat := 0x20000
def argsBase : Nat := 0x24000
def dataBase : Nat := 0x24100
def localTop : Nat := 0x40000

/-- A PMP region gives user mode a right over a range. -/
def userMay (l : Lantern) (right : Pmp → Bool) (addr n : Nat) : Bool :=
  l.pmp.any (fun p => right p && p.lo ≤ addr && addr + n ≤ p.hi + 1)

/-- A byte that a core fetches: of the routine's code, or of the vendor's (R229). -/
def Lantern.codeByte (l : Lantern) (a : Nat) : Byte :=
  if a < codeBase then Config.vendorCode a else nth (readBytes l.mem a 1) 0 0

/-- A fetched parcel of 16 bits, where the regions let user mode execute it. -/
def Lantern.parcel (l : Lantern) (a : Nat) : Option Nat :=
  if a % 2 == 0 && userMay l (·.x) a 2 then some ((l.codeByte a).toNat + 256 * (l.codeByte (a + 1)).toNat) else none

/-! ### Registers -/

def Lantern.rx (l : Lantern) (i : Nat) : Word := nth l.x i 0
def Lantern.rf (l : Lantern) (i : Nat) : Word := nth l.f i 0
/-- Writes an integer register; x0 stays zero. -/
def Lantern.wx (l : Lantern) (i : Nat) (v : Word) : Lantern :=
  if i == 0 then l else { l with x := setNth l.x i (fun _ => v) }
def Lantern.wf (l : Lantern) (i : Nat) (v : Word) : Lantern := { l with f := setNth l.f i (fun _ => v) }
def Lantern.advance (l : Lantern) (n : Nat) : Lantern := { l with pc := l.pc + BitVec.ofNat 64 n }

/-! ### Encodings of 32 bits -/

def wOp (w : BitVec 32) : Nat := bits w.toNat 6 0
def wRd (w : BitVec 32) : Nat := bits w.toNat 11 7
def wF3 (w : BitVec 32) : Nat := bits w.toNat 14 12
def wRs1 (w : BitVec 32) : Nat := bits w.toNat 19 15
def wRs2 (w : BitVec 32) : Nat := bits w.toNat 24 20
def wRs3 (w : BitVec 32) : Nat := bits w.toNat 31 27
def wF7 (w : BitVec 32) : Nat := bits w.toNat 31 25

/-- Sign extension of the low `n` bits of a value. -/
def sext (n v : Nat) : Word := (BitVec.ofNat n v).signExtend 64

def immI (w : BitVec 32) : Word := sext 12 (bits w.toNat 31 20)
def immS (w : BitVec 32) : Word := sext 12 (wF7 w * 32 + wRd w)
def immB (w : BitVec 32) : Word :=
  sext 13 (bits w.toNat 31 31 * 4096 + bits w.toNat 7 7 * 2048 + bits w.toNat 30 25 * 32 + bits w.toNat 11 8 * 2)
def immU (w : BitVec 32) : Word := sext 32 (bits w.toNat 31 12 * 4096)
def immJ (w : BitVec 32) : Word :=
  sext 21 (bits w.toNat 31 31 * 1048576 + bits w.toNat 19 12 * 4096 + bits w.toNat 20 20 * 2048 + bits w.toNat 30 21 * 2)

def encR (op f3 f7 rd rs1 rs2 : Nat) : BitVec 32 :=
  BitVec.ofNat 32 (op + rd * 2 ^ 7 + f3 * 2 ^ 12 + rs1 * 2 ^ 15 + rs2 * 2 ^ 20 + f7 * 2 ^ 25)
def encI (op f3 rd rs1 imm : Nat) : BitVec 32 :=
  BitVec.ofNat 32 (op + rd * 2 ^ 7 + f3 * 2 ^ 12 + rs1 * 2 ^ 15 + imm % 4096 * 2 ^ 20)
def encS (op f3 rs1 rs2 imm : Nat) : BitVec 32 := encR op f3 (imm / 32 % 128) (imm % 32) rs1 rs2
def encB (f3 rs1 rs2 imm : Nat) : BitVec 32 :=
  encR 0x63 f3 (bits imm 12 12 * 64 + bits imm 10 5) (bits imm 4 1 * 2 + bits imm 11 11) rs1 rs2
def encJ (rd imm : Nat) : BitVec 32 :=
  BitVec.ofNat 32 (0x6F + rd * 2 ^ 7 + bits imm 19 12 * 2 ^ 12 + bits imm 11 11 * 2 ^ 20 + bits imm 10 1 * 2 ^ 21 + bits imm 20 20 * 2 ^ 31)

/-! ### Compressed encodings (the C extension) -/

/-- Field of a compressed encoding, moved to a place in the immediate. -/
def cf (i hi lo place : Nat) : Nat := bits i hi lo * 2 ^ place

/-- Immediate of six bits, sign-extended to twelve. -/
def cImm (i : Nat) : Nat := cf i 6 2 0 + (if bit i 12 then 4096 - 32 else 0)
def cShamt (i : Nat) : Nat := cf i 6 2 0 + cf i 12 12 5

def expand0 (i : Nat) : Option (BitVec 32) :=
  let r1 := 8 + bits i 9 7
  let r2 := 8 + bits i 4 2
  let wOff := cf i 12 10 3 + cf i 6 6 2 + cf i 5 5 6
  let dOff := cf i 12 10 3 + cf i 6 5 6
  let spn := cf i 12 11 4 + cf i 10 7 6 + cf i 6 6 2 + cf i 5 5 3
  match bits i 15 13 with
  | 0 => if spn == 0 then none else some (encI 0x13 0 r2 2 spn)
  | 1 => some (encI 0x07 3 r2 r1 dOff)
  | 2 => some (encI 0x03 2 r2 r1 wOff)
  | 3 => some (encI 0x03 3 r2 r1 dOff)
  | 5 => some (encS 0x27 3 r1 r2 dOff)
  | 6 => some (encS 0x23 2 r1 r2 wOff)
  | 7 => some (encS 0x23 3 r1 r2 dOff)
  | _ => none

/-- The register forms of quadrant 1. -/
def expandAlu (i : Nat) : Option (BitVec 32) :=
  let r1 := 8 + bits i 9 7
  let r2 := 8 + bits i 4 2
  match bits i 11 10 with
  | 0 => some (encI 0x13 5 r1 r1 (cShamt i))
  | 1 => some (encI 0x13 5 r1 r1 (0x400 + cShamt i))
  | 2 => some (encI 0x13 7 r1 r1 (cImm i))
  | _ =>
    match bits i 12 12, bits i 6 5 with
    | 0, 0 => some (encR 0x33 0 0x20 r1 r1 r2)
    | 0, 1 => some (encR 0x33 4 0 r1 r1 r2)
    | 0, 2 => some (encR 0x33 6 0 r1 r1 r2)
    | 0, _ => some (encR 0x33 7 0 r1 r1 r2)
    | _, 0 => some (encR 0x3B 0 0x20 r1 r1 r2)
    | _, 1 => some (encR 0x3B 0 0 r1 r1 r2)
    | _, _ => none

def expand1 (i : Nat) : Option (BitVec 32) :=
  let rd := bits i 11 7
  let r1 := 8 + bits i 9 7
  let spImm := cf i 6 6 4 + cf i 5 5 6 + cf i 4 3 7 + cf i 2 2 5 + (if bit i 12 then 4096 - 512 else 0)
  let jOff := cf i 11 11 4 + cf i 10 9 8 + cf i 8 8 10 + cf i 7 7 6 + cf i 6 6 7 + cf i 5 3 1 + cf i 2 2 5 +
    (if bit i 12 then 2097152 - 2048 else 0)
  let bOff := cf i 11 10 3 + cf i 6 5 6 + cf i 4 3 1 + cf i 2 2 5 + (if bit i 12 then 8192 - 256 else 0)
  match bits i 15 13 with
  | 0 => some (encI 0x13 0 rd rd (cImm i))
  | 1 => if rd == 0 then none else some (encI 0x1B 0 rd rd (cImm i))
  | 2 => some (encI 0x13 0 rd 0 (cImm i))
  | 3 =>
    if cf i 6 2 0 + cf i 12 12 5 == 0 then none
    else if rd == 2 then some (encI 0x13 0 2 2 spImm)
    else some (BitVec.ofNat 32 (0x37 + rd * 2 ^ 7 + (cf i 6 2 0 + (if bit i 12 then 0xFFFE0 else 0)) * 2 ^ 12))
  | 4 => expandAlu i
  | 5 => some (encJ 0 jOff)
  | 6 => some (encB 0 r1 0 bOff)
  | _ => some (encB 1 r1 0 bOff)

def expand2 (i : Nat) : Option (BitVec 32) :=
  let rd := bits i 11 7
  let rs2 := bits i 6 2
  let dLoad := cf i 12 12 5 + cf i 6 5 3 + cf i 4 2 6
  let wLoad := cf i 12 12 5 + cf i 6 4 2 + cf i 3 2 6
  let dStore := cf i 12 10 3 + cf i 9 7 6
  let wStore := cf i 12 9 2 + cf i 8 7 6
  match bits i 15 13 with
  | 0 => some (encI 0x13 1 rd rd (cShamt i))
  | 1 => some (encI 0x07 3 rd 2 dLoad)
  | 2 => if rd == 0 then none else some (encI 0x03 2 rd 2 wLoad)
  | 3 => if rd == 0 then none else some (encI 0x03 3 rd 2 dLoad)
  | 4 =>
    match bit i 12, rs2 with
    | false, 0 => if rd == 0 then none else some (encI 0x67 0 0 rd 0)
    | false, _ => some (encR 0x33 0 0 rd 0 rs2)
    | true, 0 => some (if rd == 0 then 0x00100073 else encI 0x67 0 1 rd 0)
    | true, _ => some (encR 0x33 0 0 rd rd rs2)
  | 5 => some (encS 0x27 3 2 rs2 dStore)
  | 6 => some (encS 0x23 2 2 rs2 wStore)
  | _ => some (encS 0x23 3 2 rs2 dStore)

/-- The instruction that a compressed encoding stands for. -/
def expand (i : Nat) : Option (BitVec 32) :=
  match i % 4 with
  | 0 => expand0 i
  | 1 => expand1 i
  | 2 => expand2 i
  | _ => none

/-- The instruction at the program counter, and its length in bytes. -/
def Lantern.fetch (l : Lantern) : Option (BitVec 32 × Nat) :=
  match l.parcel l.pc.toNat with
  | none => none
  | some lo =>
    if lo % 4 == 3 then (l.parcel (l.pc.toNat + 2)).map (fun hi => (BitVec.ofNat 32 (lo + 65536 * hi), 4))
    else (expand lo).map (fun w => (w, 2))

/-! ### Integer arithmetic -/

def alu (f3 : Nat) (alt : Bool) (a b : Word) : Word :=
  match f3 with
  | 0 => if alt then a - b else a + b
  | 1 => a <<< (b.toNat % 64)
  | 2 => if a.slt b then 1 else 0
  | 3 => if a.ult b then 1 else 0
  | 4 => a ^^^ b
  | 5 => if alt then a.sshiftRight (b.toNat % 64) else a >>> (b.toNat % 64)
  | 6 => a ||| b
  | _ => a &&& b

/-- The 32-bit forms: their result is sign-extended. -/
def aluW (f3 : Nat) (alt : Bool) (a b : Word) : Word :=
  let x := a.setWidth 32
  let y := b.setWidth 32
  BitVec.signExtend 64 (match f3 with
    | 0 => if alt then x - y else x + y
    | 1 => x <<< (y.toNat % 32)
    | _ => if alt then x.sshiftRight (y.toNat % 32) else x >>> (y.toNat % 32))

/-- The M extension over `n` bits: a division by zero gives all ones and the dividend. -/
def mulDiv (n f3 : Nat) (a b : BitVec n) : BitVec n :=
  match f3 with
  | 0 => a * b
  | 1 => BitVec.ofInt n (a.toInt * b.toInt / 2 ^ n)
  | 2 => BitVec.ofInt n (a.toInt * b.toNat / 2 ^ n)
  | 3 => BitVec.ofNat n (a.toNat * b.toNat / 2 ^ n)
  | 4 => if b == 0 then BitVec.allOnes n else BitVec.ofInt n (a.toInt.tdiv b.toInt)
  | 5 => if b == 0 then BitVec.allOnes n else a / b
  | 6 => if b == 0 then a else BitVec.ofInt n (a.toInt.tmod b.toInt)
  | _ => if b == 0 then a else a % b

/-- An OP or OP-32 instruction; none for an encoding that is not one. -/
def opResult (w : BitVec 32) (narrow : Bool) (a b : Word) : Option Word :=
  let f3 := wF3 w
  let shaped := !narrow || f3 == 0 || f3 == 1 || f3 == 5
  match wF7 w with
  | 0 => if shaped then some (if narrow then aluW f3 false a b else alu f3 false a b) else none
  | 0x20 => if f3 == 0 || f3 == 5 then some (if narrow then aluW f3 true a b else alu f3 true a b) else none
  | 1 =>
    if !narrow then some (mulDiv 64 f3 a b)
    else if f3 == 0 || 4 ≤ f3 then some ((mulDiv 32 f3 (a.setWidth 32) (b.setWidth 32)).signExtend 64)
    else none
  | _ => none

/-- An OP-IMM or OP-IMM-32 instruction. -/
def immResult (w : BitVec 32) (narrow : Bool) (a : Word) : Option Word :=
  let f3 := wF3 w
  let run (alt : Bool) (b : Word) : Word := if narrow then aluW f3 alt a b else alu f3 alt a b
  let sh := if narrow then bits w.toNat 24 20 else bits w.toNat 25 20
  let top := if narrow then wF7 w else bits w.toNat 31 26 * 2
  match f3 with
  | 1 => if top == 0 then some (run false (BitVec.ofNat 64 sh)) else none
  | 5 => if top == 0 || top == 0x20 then some (run (top == 0x20) (BitVec.ofNat 64 sh)) else none
  | _ => if narrow && f3 != 0 then none else some (run false (immI w))

def branchTaken (f3 : Nat) (a b : Word) : Option Bool :=
  match f3 with
  | 0 => some (a == b)
  | 1 => some (a != b)
  | 4 => some (a.slt b)
  | 5 => some (!a.slt b)
  | 6 => some (a.ult b)
  | 7 => some (!a.ult b)
  | _ => none

/-! ### Loads, stores and atomics (R229, R235) -/

/-- An aligned access that the regions allow (R235). -/
def Lantern.may (l : Lantern) (right : Pmp → Bool) (addr : Word) (n : Nat) : Bool :=
  addr.toNat % n == 0 && userMay l right addr.toNat n

def Lantern.load (l : Lantern) (addr : Word) (n : Nat) : Option Nat :=
  if l.may (·.r) addr n then some (leNat (readBytes l.mem addr.toNat n)) else none

def Lantern.store (l : Lantern) (addr : Word) (n v : Nat) : Option Lantern :=
  if l.may (·.w) addr n then some { l with mem := writeBytes l.mem addr.toNat (leBytes n v) } else none

/-- A loaded value by width and sign. -/
def loaded (f3 v : Nat) : Word :=
  match f3 with
  | 0 => sext 8 v
  | 1 => sext 16 v
  | 2 => sext 32 v
  | _ => BitVec.ofNat 64 v

/-- What an atomic operation stores, on words of `n` bits. -/
def amo (f5 n : Nat) (old new : BitVec n) : Option (BitVec n) :=
  match f5 with
  | 0x01 => some new
  | 0x00 => some (old + new)
  | 0x04 => some (old ^^^ new)
  | 0x0C => some (old &&& new)
  | 0x08 => some (old ||| new)
  | 0x10 => some (if old.slt new then old else new)
  | 0x14 => some (if old.slt new then new else old)
  | 0x18 => some (if old.ult new then old else new)
  | 0x1C => some (if old.ult new then new else old)
  | _ => none

/-- An A instruction over `n` bytes: LR sets the reservation, SC uses it up, and the others read, combine and write. -/
def Lantern.atomic (l : Lantern) (w : BitVec 32) (n : Nat) : Option Lantern :=
  let addr := l.rx (wRs1 w)
  let ext (v : Nat) : Word := if n == 4 then sext 32 v else BitVec.ofNat 64 v
  let src := (l.rx (wRs2 w)).toNat % 2 ^ (8 * n)
  match bits w.toNat 31 27 with
  | 0x02 =>
    if wRs2 w != 0 then none
    else (l.load addr n).map (fun v => { l.wx (wRd w) (ext v) with resv := some (addr.toNat, n) })
  | 0x03 =>
    if !l.may (·.w) addr n then none
    else if l.resv == some (addr.toNat, n) then
      (l.store addr n src).map (fun l => { l.wx (wRd w) 0 with resv := none })
    else some { l.wx (wRd w) 1 with resv := none }
  | f5 =>
    match l.load addr n with
    | none => none
    | some old =>
      match amo f5 (8 * n) (BitVec.ofNat (8 * n) old) (BitVec.ofNat (8 * n) src) with
      | none => none
      | some v => (l.store addr n v.toNat).map (fun l => l.wx (wRd w) (ext old))

/-! ### Floating point (the F and D extensions) -/

def f64 : FFmt := { eb := 11, mb := 52, bias := 1023, top := .ieee }

/-- FP32 or FP64 by the fmt field; none for another. -/
def fpFmt (n : Nat) : Option FFmt := if n == 0 then some f32 else if n == 1 then some f64 else none

def flagNV : Nat := 16
def flagDZ : Nat := 8
def flagOF : Nat := 4
def flagUF : Nat := 2
def flagNX : Nat := 1

/-- The canonical NaN. -/
def FFmt.quiet (f : FFmt) : Nat := (2 ^ f.eb - 1) * 2 ^ f.mb + 2 ^ (f.mb - 1)
def FFmt.infCode (f : FFmt) : Nat := (2 ^ f.eb - 1) * 2 ^ f.mb
def FFmt.signed (f : FFmt) (neg : Bool) (mag : Nat) : Nat := (if neg then 2 ^ (f.eb + f.mb) else 0) + mag

/-- m · 2^e in units of 2^q under a rounding mode, and whether it is inexact. -/
def roundTo (rm : Nat) (neg : Bool) (m : Nat) (e q : Int) : Nat × Bool :=
  if q ≤ e then (m * 2 ^ (e - q).toNat, false)
  else
    let k := (q - e).toNat
    let v := m / 2 ^ k
    let r := m % 2 ^ k
    let up := match rm with
      | 0 => decide (2 ^ (k - 1) < r) || (r == 2 ^ (k - 1) && v % 2 == 1)
      | 1 => false
      | 2 => neg && r != 0
      | 3 => !neg && r != 0
      | _ => decide (2 ^ (k - 1) ≤ r)
    (if up then v + 1 else v, r != 0)

/-- A finite non-zero value rounded to a format: its code and its flags, tininess being found after rounding. -/
def FFmt.roundFin (f : FFmt) (rm : Nat) (neg : Bool) (m : Nat) (e : Int) : Nat × Nat :=
  let q0 : Int := 1 - (f.bias : Int) - f.mb
  let q1 : Int := (Nat.log2 m : Int) + e - f.mb
  let q := max q1 q0
  let r := roundTo rm neg m e q
  let mag := r.1 + (q - q0).toNat * 2 ^ f.mb
  if f.infCode ≤ mag then
    let toInf := match rm with
      | 1 => false
      | 2 => neg
      | 3 => !neg
      | _ => true
    (f.signed neg (if toInf then f.infCode else f.infCode - 1), flagOF + flagNX)
  else
    let tiny := q1 < q0 && !(q1 + 1 == q0 && (roundTo rm neg m e q1).1 == 2 ^ (f.mb + 1))
    (f.signed neg mag, (if tiny && r.2 then flagUF else 0) + (if r.2 then flagNX else 0))

/-- A value as a code of a format, with its flags. -/
def FFmt.put (f : FFmt) (rm : Nat) (v : FV) : Nat × Nat :=
  match v with
  | .nan _ => (f.quiet, 0)
  | .inf neg => (f.signed neg f.infCode, 0)
  | .fin neg m e => if m == 0 then (f.signed neg 0, 0) else f.roundFin rm neg m e

/-- A signalling NaN. -/
def FFmt.isSnan (f : FFmt) (c : Nat) : Bool := (f.value c).isNan && !c.testBit (f.mb - 1)

/-- A code of an f register: a narrow one has to be boxed in ones. -/
def FFmt.unbox (f : FFmt) (v : Word) : Nat :=
  if f.eb == 11 then v.toNat else if v.toNat / 2 ^ 32 == 0xFFFFFFFF then v.toNat % 2 ^ 32 else f.quiet
def FFmt.box (f : FFmt) (c : Nat) : Word :=
  if f.eb == 11 then BitVec.ofNat 64 c else BitVec.ofNat 64 (0xFFFFFFFF * 2 ^ 32 + c % 2 ^ 32)

/-- An exact sum, whose zero takes its sign from the rounding mode. -/
def addSigned (rm : Nat) (a b : FV) : FV :=
  match a, b with
  | .fin x m e, .fin y n g =>
    match (FV.fin x m e).add (.fin y n g) with
    | .fin z k h => if k == 0 then .fin (if m == 0 && n == 0 && x == y then x else rm == 2) 0 0 else .fin z k h
    | v => v
  | _, _ => a.add b

/-- The operation made a NaN of values that are not. -/
def madeNan (l : List FV) (r : FV) : Nat := if r.isNan && !l.any FV.isNan then flagNV else 0

/-- The opposite of a value, zeros and NaNs among them. -/
def FV.flip : FV → FV
  | .nan b => .nan (!b)
  | .inf b => .inf (!b)
  | .fin b m e => .fin (!b) m e

/-- a · b + c, rounded once. -/
def fused (f : FFmt) (rm : Nat) (a b c : FV) : Nat × Nat :=
  let p := a.mul b
  let r := addSigned rm p c
  let out := f.put rm r
  (out.1, out.2 ||| madeNan [a, b, c] p ||| madeNan [a, b, c] r ||| (if p.isNan && !a.isNan && !b.isNan then flagNV else 0))

def divValue (a b : FV) : FV × Nat :=
  match a, b with
  | .nan _, _ => (.nan false, 0)
  | _, .nan _ => (.nan false, 0)
  | .inf _, .inf _ => (.nan false, flagNV)
  | .inf x, .fin y _ _ => (.inf (x != y), 0)
  | .fin x _ _, .inf y => (.fin (x != y) 0 0, 0)
  | .fin x m e, .fin y n g =>
    if n == 0 then (if m == 0 then (.nan false, flagNV) else (.inf (x != y), flagDZ))
    else if m == 0 then (.fin (x != y) 0 0, 0)
    else (quotient (x != y) m n (e - g), 0)

/-- A square root with 64 extra bits and a sticky bit. -/
def sqrtValue (a : FV) : FV × Nat :=
  match a with
  | .nan _ => (.nan false, 0)
  | .inf neg => if neg then (.nan false, flagNV) else (.inf false, 0)
  | .fin neg m e =>
    if m == 0 then (.fin neg 0 0, 0)
    else if neg then (.nan false, flagNV)
    else
      let odd := e % 2 != 0
      let m1 := (if odd then 2 * m else m) * 2 ^ 128
      let e1 := (if odd then e - 1 else e) - 128
      let r := Nat.sqrt m1
      (.fin false (2 * r + (if r * r == m1 then 0 else 1)) (e1 / 2 - 1), 0)

/-- FMIN and FMAX: a NaN gives way to a number, and −0 is below +0. -/
def pickOne (f : FFmt) (wantMax : Bool) (a b : Nat) : Nat × Nat :=
  let u := f.value a
  let v := f.value b
  let nv := if f.isSnan a || f.isSnan b then flagNV else 0
  if u.isNan && v.isNan then (f.quiet, nv)
  else if u.isNan then (b, nv)
  else if v.isNan then (a, nv)
  else (if u.lt v == wantMax then b else a, nv)

/-- FEQ, FLT and FLE: comparisons of numbers, both zeros being equal. -/
def fpCompare (f : FFmt) (f3 : Nat) (a b : Nat) : Option (Word × Nat) :=
  let u := f.value a
  let v := f.value b
  let nan := u.isNan || v.isNan
  let eq := (u.isZero && v.isZero) || (!nan && !u.lt v && !v.lt u)
  let lt := !nan && !(u.isZero && v.isZero) && u.lt v
  let quietNv := if f.isSnan a || f.isSnan b then flagNV else 0
  let one (b : Bool) : Word := if b then 1 else 0
  match f3 with
  | 2 => some (one (!nan && eq), quietNv)
  | 1 => some (one lt, if nan then flagNV else 0)
  | 0 => some (one (!nan && (lt || eq)), if nan then flagNV else 0)
  | _ => none

/-- FCLASS. -/
def fpClass (f : FFmt) (c : Nat) : Word :=
  match f.value c with
  | .nan _ => if f.isSnan c then 0x100 else 0x200
  | .inf neg => if neg then 0x1 else 0x80
  | .fin neg m _ =>
    if m == 0 then (if neg then 0x8 else 0x10)
    else if m < 2 ^ f.mb then (if neg then 0x4 else 0x20)
    else (if neg then 0x2 else 0x40)

/-- A value as an integer: W, WU, L, LU by `kind`, saturating outside the range. -/
def fpToInt (rm kind : Nat) (v : FV) : Word × Nat :=
  let width := if kind < 2 then 32 else 64
  let signed := kind % 2 == 0
  let hi : Int := if signed then 2 ^ (width - 1) - 1 else 2 ^ width - 1
  let lo : Int := if signed then -2 ^ (width - 1) else 0
  let out (i : Int) : Word := if width == 32 then sext 32 (BitVec.ofInt 32 i).toNat else BitVec.ofInt 64 i
  match v with
  | .nan _ => (out hi, flagNV)
  | .inf neg => (out (if neg then lo else hi), flagNV)
  | .fin neg m e =>
    let r := roundTo rm neg m e 0
    let i : Int := if neg then -(r.1 : Int) else r.1
    if i < lo then (out lo, flagNV) else if hi < i then (out hi, flagNV) else (out i, if r.2 then flagNX else 0)

/-- An integer as a value. -/
def fpOfInt (kind : Nat) (v : Word) : FV :=
  let i : Int := match kind with
    | 0 => (v.setWidth 32).toInt
    | 1 => ((v.setWidth 32).toNat : Int)
    | 2 => v.toInt
    | _ => v.toNat
  .fin (i < 0) i.natAbs 0

/-- The rounding mode of an instruction: static, or of fcsr; none for a reserved one. -/
def Lantern.rounding (l : Lantern) (w : BitVec 32) : Option Nat :=
  let rm := if wF3 w == 7 then bits l.fcsr.toNat 7 5 else wF3 w
  if rm ≤ 4 then some rm else none

def Lantern.flags (l : Lantern) (n : Nat) : Lantern := { l with fcsr := l.fcsr ||| BitVec.ofNat 64 n }

/-- A result in an f register, with its flags. -/
def Lantern.putF (l : Lantern) (f : FFmt) (rd : Nat) (r : Nat × Nat) : Lantern := (l.wf rd (f.box r.1)).flags r.2

/-- The signalling NaNs among operands raise NV. -/
def snanFlag (f : FFmt) (l : List Nat) : Nat := if l.any f.isSnan then flagNV else 0

/-- FMADD, FMSUB, FNMSUB and FNMADD. -/
def Lantern.fpFused (l : Lantern) (w : BitVec 32) : Option Lantern :=
  match fpFmt (bits w.toNat 26 25), l.rounding w with
  | some f, some rm =>
    let a := f.unbox (l.rf (wRs1 w))
    let b := f.unbox (l.rf (wRs2 w))
    let c := f.unbox (l.rf (wRs3 w))
    let p := if wOp w == 0x4B || wOp w == 0x4F then (f.value a).flip else f.value a
    let q := if wOp w == 0x47 || wOp w == 0x4F then (f.value c).flip else f.value c
    some ((l.putF f (wRd w) (fused f rm p (f.value b) q)).flags (snanFlag f [a, b, c]))
  | _, _ => none

/-- The arithmetic of two operands that rounds. -/
def Lantern.fpArith (l : Lantern) (w : BitVec 32) (f : FFmt) (rm a b : Nat) : Option Lantern :=
  let u := f.value a
  let v := f.value b
  let put (r : FV) (nv : Nat) : Option Lantern :=
    some ((l.putF f (wRd w) (f.put rm r)).flags (nv ||| snanFlag f [a, b]))
  match bits w.toNat 31 27 with
  | 0x00 => put (addSigned rm u v) (madeNan [u, v] (addSigned rm u v))
  | 0x01 => put (addSigned rm u v.flip) (madeNan [u, v] (addSigned rm u v.flip))
  | 0x02 => put (u.mul v) (madeNan [u, v] (u.mul v))
  | 0x03 => put (divValue u v).1 (divValue u v).2
  | 0x0B => if wRs2 w == 0 then
      some ((l.putF f (wRd w) (f.put rm (sqrtValue u).1)).flags ((sqrtValue u).2 ||| snanFlag f [a])) else none
  | _ => none

/-- The operations on signs, extremes, comparisons, classes and moves, which do not round. -/
def Lantern.fpPlain (l : Lantern) (w : BitVec 32) (f : FFmt) (a b : Nat) : Option Lantern :=
  let sb := 2 ^ (f.eb + f.mb)
  let put (c : Nat) : Option Lantern := some (l.putF f (wRd w) (c, 0))
  let mag := a % sb
  let neg (c : Nat) : Bool := c.testBit (f.eb + f.mb)
  match bits w.toNat 31 27, wF3 w with
  | 0x04, 0 => put (f.signed (neg b) mag)
  | 0x04, 1 => put (f.signed (!neg b) mag)
  | 0x04, 2 => put (f.signed (neg a != neg b) mag)
  | 0x05, 0 => some (l.putF f (wRd w) (pickOne f false a b))
  | 0x05, 1 => some (l.putF f (wRd w) (pickOne f true a b))
  | 0x14, f3 => (fpCompare f f3 a b).map (fun r => (l.wx (wRd w) r.1).flags r.2)
  | 0x1C, 0 =>
    if wRs2 w != 0 then none
    else some (l.wx (wRd w) (if f.eb == 11 then l.rf (wRs1 w) else sext 32 ((l.rf (wRs1 w)).toNat % 2 ^ 32)))
  | 0x1C, 1 => if wRs2 w == 0 then some (l.wx (wRd w) (fpClass f a)) else none
  | 0x1E, 0 => if wRs2 w == 0 then put ((l.rx (wRs1 w)).toNat % 2 ^ (f.eb + f.mb + 1)) else none
  | _, _ => none

/-- Conversions between the two formats, and with integers. -/
def Lantern.fpConvert (l : Lantern) (w : BitVec 32) (f : FFmt) (rm a : Nat) : Option Lantern :=
  let kind := wRs2 w
  match bits w.toNat 31 27 with
  | 0x08 =>
    if f.eb == 11 && kind == 0 then
      let c := f32.unbox (l.rf (wRs1 w))
      some ((l.putF f (wRd w) (f.put rm (f32.value c))).flags (snanFlag f32 [c]))
    else if f.eb == 8 && kind == 1 then
      let c := f64.unbox (l.rf (wRs1 w))
      some ((l.putF f (wRd w) (f.put rm (f64.value c))).flags (snanFlag f64 [c]))
    else none
  | 0x18 => if kind < 4 then
      let r := fpToInt rm kind (f.value a)
      some ((l.wx (wRd w) r.1).flags r.2) else none
  | 0x1A => if kind < 4 then some (l.putF f (wRd w) (f.put rm (fpOfInt kind (l.rx (wRs1 w))))) else none
  | _ => none

/-- An OP-FP instruction. -/
def Lantern.fpOp (l : Lantern) (w : BitVec 32) : Option Lantern :=
  match fpFmt (bits w.toNat 26 25) with
  | none => none
  | some f =>
    let a := f.unbox (l.rf (wRs1 w))
    let b := f.unbox (l.rf (wRs2 w))
    match l.fpPlain w f a b with
    | some l1 => some l1
    | none =>
      match l.rounding w with
      | none => none
      | some rm =>
        match l.fpArith w f rm a b with
        | some l1 => some l1
        | none => l.fpConvert w f rm a

/-! ### Control registers (R228, R236) -/

/-- The registers of user mode: fflags, frm and fcsr. Every other one traps, the counters among them. -/
def Lantern.csr (l : Lantern) (n : Nat) : Option Word :=
  match n with
  | 1 => some (l.fcsr &&& 0x1F)
  | 2 => some ((l.fcsr >>> 5) &&& 0x7)
  | 3 => some (l.fcsr &&& 0xFF)
  | _ => none

def Lantern.setCsr (l : Lantern) (n : Nat) (v : Word) : Lantern :=
  match n with
  | 1 => { l with fcsr := (l.fcsr &&& 0xE0) ||| (v &&& 0x1F) }
  | 2 => { l with fcsr := (l.fcsr &&& 0x1F) ||| ((v &&& 0x7) <<< 5) }
  | _ => { l with fcsr := v &&& 0xFF }

def Lantern.csrOp (l : Lantern) (w : BitVec 32) : Option Lantern :=
  let n := bits w.toNat 31 20
  let src := if 4 ≤ wF3 w then BitVec.ofNat 64 (wRs1 w) else l.rx (wRs1 w)
  match l.csr n with
  | none => none
  | some old =>
    let l1 (v : Word) : Lantern := (l.setCsr n v).wx (wRd w) old
    match wF3 w % 4 with
    | 1 => some (l1 src)
    | 2 => some (if wRs1 w == 0 then l.wx (wRd w) old else l1 (old ||| src))
    | 3 => some (if wRs1 w == 0 then l.wx (wRd w) old else l1 (old &&& ~~~src))
    | _ => none

/-! ### One instruction -/

/-- What an instruction comes to: a next state of the core, an operation of the queue extension with the values of its two
sources, or a trap (R231, R235). -/
inductive CoreOut where
  | next (l : Lantern)
  | queue (w : BitVec 32) (rs1 rs2 : Word)
  | trap
  deriving DecidableEq, Repr

/-- An instruction that goes on with the next one, or traps. -/
def goOn (n : Nat) (r : Option Lantern) : CoreOut :=
  match r with
  | some l => .next (l.advance n)
  | none => .trap

def jumpTo (l : Lantern) (target : Word) : CoreOut := .next { l with pc := target }

/-- Bytes of a load or store by funct3. -/
def accessBytes (f3 : Nat) : Nat := 2 ^ (f3 % 4)

def Lantern.loadOp (l : Lantern) (w : BitVec 32) : Option Lantern :=
  if wF3 w == 7 then none
  else (l.load (l.rx (wRs1 w) + immI w) (accessBytes (wF3 w))).map (fun v => l.wx (wRd w) (loaded (wF3 w) v))

def Lantern.storeOp (l : Lantern) (w : BitVec 32) : Option Lantern :=
  if 4 ≤ wF3 w then none
  else l.store (l.rx (wRs1 w) + immS w) (accessBytes (wF3 w)) (l.rx (wRs2 w)).toNat

/-- FLW, FLD, FSW and FSD. -/
def Lantern.fpLoad (l : Lantern) (w : BitVec 32) : Option Lantern :=
  match fpFmt (wF3 w - 2) with
  | some f => if wF3 w < 2 then none
      else (l.load (l.rx (wRs1 w) + immI w) (accessBytes (wF3 w))).map (fun v => l.wf (wRd w) (f.box v))
  | none => none
def Lantern.fpStore (l : Lantern) (w : BitVec 32) : Option Lantern :=
  if wF3 w == 2 || wF3 w == 3 then l.store (l.rx (wRs1 w) + immS w) (accessBytes (wF3 w)) (l.rf (wRs2 w)).toNat else none

/-- An instruction of `n` bytes in user mode. ECALL, EBREAK and every encoding of machine mode trap (log 70). -/
def Lantern.run (l : Lantern) (w : BitVec 32) (n : Nat) : CoreOut :=
  let a := l.rx (wRs1 w)
  let b := l.rx (wRs2 w)
  let link := l.pc + BitVec.ofNat 64 n
  match wOp w with
  | 0x03 => goOn n (l.loadOp w)
  | 0x07 => goOn n (l.fpLoad w)
  | 0x0B => .queue w a b
  | 0x0F => if wF3 w ≤ 1 then .next (l.advance n) else .trap
  | 0x13 => goOn n ((immResult w false a).map (l.wx (wRd w)))
  | 0x17 => .next ((l.wx (wRd w) (l.pc + immU w)).advance n)
  | 0x1B => goOn n ((immResult w true a).map (l.wx (wRd w)))
  | 0x23 => goOn n (l.storeOp w)
  | 0x27 => goOn n (l.fpStore w)
  | 0x2F => if wF3 w == 2 || wF3 w == 3 then goOn n (l.atomic w (accessBytes (wF3 w))) else .trap
  | 0x33 => goOn n ((opResult w false a b).map (l.wx (wRd w)))
  | 0x37 => .next ((l.wx (wRd w) (immU w)).advance n)
  | 0x3B => goOn n ((opResult w true a b).map (l.wx (wRd w)))
  | 0x43 => goOn n (l.fpFused w)
  | 0x47 => goOn n (l.fpFused w)
  | 0x4B => goOn n (l.fpFused w)
  | 0x4F => goOn n (l.fpFused w)
  | 0x53 => goOn n (l.fpOp w)
  | 0x63 =>
    match branchTaken (wF3 w) a b with
    | some true => jumpTo l (l.pc + immB w)
    | some false => .next (l.advance n)
    | none => .trap
  | 0x67 => if wF3 w == 0 then jumpTo (l.wx (wRd w) link) ((a + immI w) &&& ~~~1) else .trap
  | 0x6F => jumpTo (l.wx (wRd w) link) (l.pc + immJ w)
  | 0x73 => if wF3 w % 4 == 0 then (if w == 0x10500073 then .next (l.advance n) else .trap) else goOn n (l.csrOp w)
  | _ => .trap

/-- The instruction at the program counter runs. -/
def Lantern.execute (l : Lantern) : CoreOut :=
  match l.fetch with
  | some (w, n) => l.run w n
  | none => .trap

end Sys2Proof.Machine
end

