-- ==== Sys2Proof/Machine/Cmds.lean ====
section
/-! DEFINITION. Commands and their tiles: descriptors, drum, engine rates, failing, and what the end of a tile gives
(R168 to R178, R209, R223 to R226, R262). -/

namespace Sys2Proof.Machine

/-! ### The executing command -/

def getCur (s : State) (id ring : Nat) : Option Cmd := (getRing s id ring).bind (fun r => r.cur)
def setCur (id ring : Nat) (f : Cmd → Cmd) (s : State) : State :=
  setRing id ring (fun r => { r with cur := r.cur.map f }) s

/-- Changes one tile of a command. -/
def Cmd.setTile (c : Cmd) (idx : Nat) (f : Tile → Tile) : Cmd :=
  { c with tiles := c.tiles.map (fun t => if t.idx == idx then f t else t) }

/-- A tile not issued. -/
def Tile.fresh (idx : Nat) (kind : TileKind) (drum clocks : Nat) : Tile :=
  { idx := idx, kind := kind, state := .waiting, dome := 0, lane := 0, drum := drum, clocks := clocks, asked := [], bad := []
    replies := 0, acc := [], loc := [], noFold := false, lantern := none }

/-- Tiles numbered from a first index. -/
def number : Nat → List (TileKind × Nat × Nat) → List Tile
  | _, [] => []
  | i, (k, drum, clocks) :: l => Tile.fresh i k drum clocks :: number (i + 1) l

/-- A command as it is admitted. -/
def Cmd.admitHead (pos : BitVec 32) (entry desc : List Byte) : Cmd :=
  { pos := pos, entry := entry, desc := desc, chains := [], shadows := [], tiles := [], began := false, failed := none
    pages := 0, frags := 0, resends := 0, taken := 0, folds := 0, ready := [], progress := 0, carry := [], lanes := []
    switched := false, result := 0, detail := 0, lateStatus := 0, uses := [], listed := false, touched := [], kept := []
    armedAt := 0, early := [] }

/-- The class of a command or QP entry (R83, R142): 0 BULK, 1 GUARANTEED, 2 DEADLINE. -/
def classOfEntry (s : State) (e : List Byte) : Nat := if eBulk e then 0 else if deadlineOf s e != 0 then 2 else 1

/-! ### Failing (R262) -/

def Fail.of (status detail : Nat) : Fail := { status := status, result := 0, detail := detail }
def malformed (detail : Nat) : Fail := Fail.of cMalformed detail

/-- What the end of a tile, or the start of a command, gives: effects, a failure, or a local translation that fails, which
is a fault of the partition as well (R155). -/
inductive TileOut where
  | ok (writes : List (Nat × List Byte)) (upd : Cmd → Cmd) (after : State → State)
  | fail (f : Fail)
  | denied (f : Fail) (va : Nat)

/-- A failed access as a failure. -/
def accFail (va : Nat) : TileOut := .denied (Fail.of cAccessDenied (vaDetail va)) va
def poisonFail (va : Nat) : TileOut := .fail (Fail.of cPoisoned (vaDetail va))

/-- The first address of several ranges that fails to translate, or that is poisoned (R155, R375). -/
def deniedIn (s : State) (d : Def) (write : Bool) (l : List (Nat × Nat)) : Option Nat :=
  (l.filter (fun r => r.2 != 0)).findSome? (fun r => firstDenied s d r.1 r.2 write)
def poisonIn (s : State) (d : Def) (l : List (Nat × Nat)) : Option Nat :=
  (l.filter (fun r => r.2 != 0)).findSome? (fun r => firstPoison s d r.1 r.2)

/-- Why ranges cannot be read: a failed translation before poison (R263). -/
def readsFail (s : State) (d : Def) (l : List (Nat × Nat)) : Option TileOut :=
  ((deniedIn s d false l).map accFail).orElse (fun _ => (poisonIn s d l).map poisonFail)

/-- Why ranges cannot be written. -/
def writesFail (s : State) (d : Def) (l : List (Nat × Nat)) : Option TileOut := (deniedIn s d true l).map accFail

/-- The place of a cause in the order of R263: `MALFORMED`, `ACCESS_DENIED`, `POISONED`. -/
def TileOut.rank (o : TileOut) : Nat :=
  match o with
  | .fail f => if f.status == cMalformed then 0 else 2
  | .denied _ _ => 1
  | .ok _ _ _ => 3

/-- The cause that decides among causes of one moment (R263). -/
def firstCause (l : List (Option TileOut)) : Option TileOut := (sortBy TileOut.rank (l.filterMap id)).head?

/-- Why ranges cannot be read and others written, by the order of R263. -/
def accessFail (s : State) (d : Def) (reads writes : List (Nat × Nat)) : Option TileOut :=
  firstCause [readsFail s d reads, writesFail s d writes]

/-- Bytes of a range known to be readable. -/
def peek (s : State) (d : Def) (va n : Nat) : List Byte := fetchPieces s d (pieceList va n)
def peekNat (s : State) (d : Def) (va n : Nat) : Nat := leNat (peek s d va n)

/-- The value of packed element `i` of an array of a format, before any scale (R191). -/
def elemAt (s : State) (d : Def) (fmt base i : Nat) : FV :=
  let w := fmtBits fmt
  elemValue fmt (peekNat s d (base + i * w / 8) ((i * w % 8 + w + 7) / 8) / 2 ^ (i * w % 8) % 2 ^ w)

/-- Writes ranges in order. -/
def writeAll (id : Nat) : List (Nat × List Byte) → State → State
  | [], s => s
  | (va, bs) :: l, s => writeAll id l (writeVa id va bs s)

/-- Whether two ranges share a byte. -/
def rangesMeet (a b : Nat × Nat) : Bool := 0 < a.2 && 0 < b.2 && a.1 < b.1 + b.2 && b.1 < a.1 + a.2

/-- Charges a slot for the memory and the host port that a range uses, by direction (R98). -/
def chargePieces (id sl : Nat) (wr : Bool) : List (Nat × Nat) → State → State
  | [], s => s
  | (va, n) :: l, s =>
    match getDef s id with
    | none => s
    | some d =>
      let s1 := match translate s d va wr with
        | some (.mem _) => charge sl 0 (charge64 n) s
        | some (.host _) => chargeHost sl (portOf (boundFn d)) n wr s
        | none => s
      chargePieces id sl wr l s1

def chargeRanges (id : Nat) (wr : Bool) (l : List (Nat × Nat)) (s : State) : State :=
  match (getDef s id).bind (fun d => d.slot) with
  | none => s
  | some sl => l.foldl (fun s r => chargePieces id sl wr (pieceList r.1 r.2) s) s

/-- Charges the slot of a definition for a host transfer of the block's own: ring entries, completions, table entries. -/
def chargeOwn (id n : Nat) (wr : Bool) (s : State) : State :=
  match getDef s id with
  | some d => (match d.slot with | some sl => chargeHost sl (portOf (boundFn d)) n wr s | none => s)
  | none => s

/-- Charges the walk of the page table for ranges: two 8-byte entries for each page, CONTROL class (R98, R155; log 69). -/
def chargeWalks (id : Nat) (l : List (Nat × Nat)) (s : State) : State :=
  let n := (l.map (fun r => (pieceList r.1 r.2).length)).sum
  if n == 0 then s
  else match getDef s id with
    | some d => (match d.slot with
      | some sl => charge sl (1 + portOf (boundFn d)) (2 * n * hostCost (portOf (boundFn d)) 8 false) s
      | none => s)
    | none => s

/-- Adds to the count of a running RING_ABORT. -/
def addAborted (fn n : Nat) (s : State) : State :=
  setFn s fn (fun f => { f with abort := f.abort.map (fun a => { a with count := a.count + n }) })

/-- The cause with which a command completes when one is detected: the first one, and on an `ABORTING` ring the abort was
before it (R263, R268). -/
def firstOf (r : CmdRing) (c : Cmd) (f : Fail) : Fail :=
  c.failed.getD (if r.state == .aborting then
    { status := cCancelled, result := BitVec.ofNat 64 (dropResult c), detail := cancelDetail c.entry } else f)

/-- The executing command fails: no further tile is issued, waiting tiles are dropped, and its fragments leave the
outstanding table (R262). A first cause stays. One free value may have gone into the failure's result. -/
def failCur (id ring : Nat) (f : Fail) (s : State) : State :=
  match (getDef s id).bind (fun d => (mfind d.rings ring).map (fun r => (d, r))) with
  | some (d, r) =>
    match r.cur with
    | none => s
    | some c =>
      let s1 := { s with
        freeCtr := s.freeCtr + 1
        frags := s.frags.filter (fun x => !(some x.2.slot == d.slot && x.2.ring == ring && x.2.pos == c.pos)) }
      setCur id ring (fun c => { c with
        began := true, failed := some (firstOf r c f)
        tiles := c.tiles.map (fun t =>
          if t.state == .waiting || t.state == .remoteWait then { t with state := .dropped } else { t with noFold := true }) }) s1
  | none => s

/-! ### Fall-back lists (R182 to R185) -/

/-- A list entry's command ends: the next one follows, or a fault ends the list (R185). -/
def endListed (id ring st detail : Nat) (s : State) : State :=
  setRing id ring (fun r => { r with cur := none, fall := r.fall.map (fun f =>
    if isFaultClass st then { f with next := f.count, endStatus := st, endDetail := detail }
    else { f with next := f.next + 1 }) }) s

/-- Status and DETAIL of a primary entry after a switch (R185). -/
def Fall.outcome (f : Fall) : Nat × Nat :=
  if f.endStatus != 0 then (f.endStatus, f.endDetail) else (cOkFallback, f.switchPos % 65536)

/-- The admitted primary entries complete, in ring order. -/
def completePrimaries (id ring : Nat) (s : State) : State :=
  match getRing s id ring with
  | none => s
  | some r =>
    match r.fall with
    | none => s
    | some f =>
      let o := f.outcome
      closePrior id ring (f.primary.foldl (fun s p =>
        jobAdmitted id ring (eJobEnd p.2) o.1 (decideAdmitted id r.cpl (hCmd ring) p.1 p.2 r.base r.log2 o.1 0 o.2 s))
        (setRing id ring (fun r => { r with fall := r.fall.map (fun f => { f with primary := [] }) }) s))

/-- A local translation of the executing command fails: the command completes with the cause detected first, what it leaves
undefined with it, and the partition is reset, which ends its tiles (R155, R262, R263). -/
def denyCur (id ring : Nat) (f0 : Fail) (va : Nat) (s : State) : State :=
  translationFault id va (match getRing s id ring with
    | some r => (match r.cur with
      | some c =>
        let f := firstOf r c f0
        let s1 := leaveMemory id c (lostRanges c) s
        let s2 := match getDef s id with
          | some d => if r.state == .aborting && f.status == cCancelled then addAborted (boundFn d) 1 s1 else s1
          | none => s1
        if c.listed then completePrimaries id ring (endListed id ring f.status f.detail s1)
        else completeCur id ring f.status f.result.toNat f.detail s2
      | none => s)
    | none => s)

/-- No tile of a command is running or waits for a peer. -/
def atBoundary (c : Cmd) : Bool := c.tiles.all (fun t => t.state != .issued && t.state != .remoteWait)

/-! ### Drum (R223 to R226) -/

/-- The persistent share held on a dome: it fills the granted ways of the granted domes in ascending order (R224). -/
def persistOn (g : Grant) (dome : Nat) : Nat :=
  let before := ((List.range dome).map (fun k => nth g.drumWays k 0 * 262144)).sum
  min (nth g.drumWays dome 0 * 262144) (g.persistKib * 1024 - before)

/-- The drum available for tiles on a dome (R224). -/
def drumOn (g : Grant) (dome : Nat) : Nat := nth g.drumWays dome 0 * 262144 - persistOn g dome

def grantedDomes (g : Grant) : List Nat := (List.range 16).filter (bit g.domeMask)

/-- The smallest and the largest drum available on any granted dome; zero where no dome is granted. -/
def smallestDrum (g : Grant) : Nat :=
  match (grantedDomes g).map (drumOn g) with
  | [] => 0
  | a :: l => l.foldl min a
def largestDrum (g : Grant) : Nat := ((grantedDomes g).map (drumOn g)).foldl max 0

/-- Tiles of a definition that hold drum or a lane. -/
def liveTiles (d : Def) : List Tile :=
  d.rings.flatMap (fun p => match p.2.cur with
    | some c => c.tiles.filter (fun t => t.state == .issued || t.state == .remoteWait)
    | none => []) ++ d.serving.filterMap (fun x => x.tile)

def drumHeld (d : Def) (dome : Nat) : Nat := (((liveTiles d).filter (fun t => t.dome == dome)).map (fun t => t.drum)).sum

/-! ### Engine rates (R209) -/

/-- MAC per engine per clock for codes of R215 and R271. -/
def macRate (a b : Nat) : Nat :=
  let wide (f : Nat) : Bool := f == 0x01 || f == 0x02
  if wide a || wide b then 2048 else if b == 0x07 || b == 0x10 then 8192 else 4096

end Sys2Proof.Machine
end

