-- ==== Sys2Proof/Machine/Chains.lean ====
section
/-! DEFINITION. KV chains as they lie in memory: objects, entry lists and pages (R243, R244, R271 to R276). -/

namespace Sys2Proof.Machine

/-- Tokens of a page (R271). -/
def pageCap (fmt dim : Nat) : Nat := if fmt == 0x10 then kvTokens dim else 65536 / (2 * dim * (fmtBits fmt / 8))

/-- Bytes of a page that hold tokens: of a page whose capacity rounds down the rest is not read or written (R271, R272). -/
def pageUsed (fmt dim : Nat) : Nat :=
  if fmt == 0x10 then 65536 else 2 * pageCap fmt dim * dim * (fmtBits fmt / 8)

def dimOk (d : Nat) : Bool := d == 64 || d == 128 || d == 192 || d == 256
def chainFmtOk (f : Nat) : Bool := f == 0x01 || f == 0x03 || f == 0x04 || f == 0x10

/-- An entry of 16 bytes (R243). -/
def entOf (fmt : Nat) (p : List Byte) : ChainEnt :=
  { addr := fld p 0 6, qp := fld p 6 2, first := fld p 8 4, count := fld p 12 3, remote := bit (fld p 15 1) 0, fmt := fmt
    skip := 0 }

/-- The 16 bytes of an entry. -/
def entBytes (x : ChainEnt) : List Byte :=
  leBytes 6 x.addr ++ leBytes 2 x.qp ++ leBytes 4 x.first ++ leBytes 3 x.count ++ [BitVec.ofNat 8 (bitAt x.remote 0)]

/-- Reserved fields and ranges of an entry (R243). -/
def entOk (p : List Byte) : Bool :=
  let e := entOf 0 p
  fld p 15 1 < 2 && 1 ≤ e.count && (e.remote || (e.addr % 65536 == 0 && e.qp == 0))

/-- The object's own fields (R275): ENTRY_COUNT, and whether they are in range with the reserved ones zero. -/
def objCount (o : List Byte) : Nat := fld o 12 4
def objOk (va : Nat) (o : List Byte) : Bool :=
  va % 64 == 0 && chainFmtOk (fld o 0 1) && fld o 1 1 < 2 && dimOk (fld o 2 2) && fld o 8 1 ≤ 64 && zeros o 10 2 &&
  1 ≤ fld o 16 4 && fld o 16 4 ≤ 1048576 && objCount o ≤ fld o 16 4 && zeros o 20 4 && fld o 24 8 % 64 == 0 && zeros o 56 8

/-- A chain from its object and its entry list. -/
def chainOf (va : Nat) (o list : List Byte) : Chain :=
  { va := va, fmt := fld o 0 1, isShadow := bit (fld o 1 1) 0, dim := fld o 2 2, n := fld o 4 4, tn := fld o 8 1
    epoch := fld o 9 1, cap := fld o 16 4, list := fld o 24 8, spare := fld o 32 8, shadow := fld o 40 8, pool := fld o 48 8
    ents := (List.range (objCount o)).map (fun i => entOf (fld o 0 1) ((list.drop (i * 16)).take 16)) }

/-- All ones where no entry is concerned (R264). -/
def noEntry : Nat := 2 ^ 32 - 1

/-- The first entry, from index `i` on, that breaks R243 or R244: its fields, its place after the one before it, a remote
entry over a tentative slot, a local one over capacity; or all ones where the counts do not sum to the tokens held. -/
def entsBroken (c : Chain) (list : List Byte) : Nat → Nat → List ChainEnt → Option Nat
  | _, at_, [] => if at_ == c.n + c.tn then none else some noEntry
  | i, at_, e :: l =>
    if entOk ((list.drop (i * 16)).take 16) && e.first == at_ &&
        (if e.remote then e.first + e.count ≤ c.n else e.count ≤ pageCap c.fmt c.dim) then
      entsBroken c list (i + 1) (at_ + e.count) l
    else some i

/-- What reading a chain object gives: a failed access, a chain that breaks R244 or R275 and the entry concerned, or the
chain. -/
inductive ChainRead where
  | fails (f : TileOut)
  | broken (entry : Nat)
  | ok (c : Chain)

/-- Reads a chain object and its entry list. -/
def readChain (s : State) (d : Def) (va : Nat) : ChainRead :=
  match readsFail s d [(va, 64)] with
  | some f => .fails f
  | none =>
    let o := peek s d va 64
    if !objOk va o then .broken noEntry
    else
      let lv := fld o 24 8
      match readsFail s d [(lv, objCount o * 16)] with
      | some f => .fails f
      | none =>
        let list := peek s d lv (objCount o * 16)
        let c := chainOf va o list
        match entsBroken c list 0 0 c.ents with
        | some i => .broken i
        | none => .ok c

/-- The 64 bytes of a chain object (R275). -/
def objBytes (c : Chain) : List Byte :=
  leBytes 1 c.fmt ++ leBytes 1 (bitAt c.isShadow 0) ++ leBytes 2 c.dim ++ leBytes 4 c.n ++ leBytes 1 c.tn ++
  leBytes 1 c.epoch ++ [0, 0] ++ leBytes 4 c.ents.length ++ leBytes 4 c.cap ++ [0, 0, 0, 0] ++ leBytes 8 c.list ++
  leBytes 8 c.spare ++ leBytes 8 c.shadow ++ leBytes 8 c.pool ++ List.replicate 8 0

/-- The bytes of an entry list. -/
def listBytes (c : Chain) : List Byte := c.ents.flatMap entBytes

/-- Where channel 0 of a token's key, or of its value, lies in a BF16 or FP8 page (R272). -/
def tokenAt (fmt dim page tok : Nat) (v : Bool) : Nat :=
  let e := fmtBits fmt / 8
  page + (if v then pageCap fmt dim * dim * e else 0) + tok * dim * e

/-- Bytes that hold tokens `[lo, hi)` of a page (R272, R273): of a KV-4o page also the scales of their groups, the directory
and the entries up to their last group. -/
def tokenBytes (page fmt dim lo hi : Nat) (entries : Nat) : List (Nat × Nat) :=
  if fmt == 0x10 then
    let a := lo / 16
    let b := (hi + 15) / 16
    [(page + lo * dim / 2, (hi - lo) * dim / 2), (page + 0x6000 + lo * dim / 2, (hi - lo) * dim / 2),
     (page + 0xC000 + a * dim, (b - a) * dim), (page + 0xCC00 + a * dim, (b - a) * dim), (page + 0xD800, b),
     (page + 0xD840, 4 * entries)]
  else
    let n := dim * (fmtBits fmt / 8)
    [(tokenAt fmt dim page lo false, (hi - lo) * n), (tokenAt fmt dim page lo true, (hi - lo) * n)]

/-- Bytes that hold the slots of a local entry. -/
def entBytesOf (s : State) (d : Def) (dim : Nat) (e : ChainEnt) : List (Nat × Nat) :=
  tokenBytes e.addr e.fmt dim e.skip (e.skip + e.count)
    (if e.fmt == 0x10 then kvBefore (peek s d e.addr 65536) ((e.skip + e.count + 15) / 16) else 0)

/-- One element of a page (R196, R272, R273). -/
def pageElem (s : State) (d : Def) (fmt dim page tok ch : Nat) (v : Bool) : FV :=
  if fmt == 0x10 then kvElem (peek s d page 65536) dim tok ch v else elemAt s d fmt (tokenAt fmt dim page tok v) ch

/-- The page and the token in it that hold a slot; none for a slot of a remote entry. -/
def slotPlace (c : Chain) (j : Nat) : Option (Nat × Nat) :=
  match c.ents.find? (fun e => e.first ≤ j && j < e.first + e.count) with
  | some e => if e.remote then none else some (e.addr, e.skip + (j - e.first))
  | none => none

/-- A slot to attend: its page, format and token, its position, and its index if it is tentative (R242, R247). -/
structure KvSlot where
  fmt : Nat
  page : Nat
  tok : Nat
  pos : Nat
  tent : Option Nat
  deriving DecidableEq, Repr

/-- The slots of local entries, in ascending order. -/
def entSlots (n : Nat) (l : List ChainEnt) : List KvSlot :=
  (l.filter (fun e => !e.remote)).flatMap (fun e => (List.range e.count).map (fun k =>
    { fmt := e.fmt, page := e.addr, tok := e.skip + k, pos := e.first + k
      tent := if e.first + k < n then none else some (e.first + k - n) }))

end Sys2Proof.Machine
end

