-- ==== Sys2Proof/Machine/Attend.lean ====
section
/-! DEFINITION. ATTEND and MERGE: descriptors, snapshots, scores, triples, tiles and their ends (R206 to R208, R238 to
R268). -/

namespace Sys2Proof.Machine

/-! ### Triples (R206, R207, R249) -/

def Triple.none (dim : Nat) : Triple :=
  { m := fNegInf, l := fZero, empty := true, keys := 0, o := List.replicate dim fZero }

/-- The record of a triple (R206, R207). -/
def tripleBytes (t : Triple) (row dim : Nat) (bf16 : Bool) : List Byte :=
  padTo (recSize dim bf16)
    (leBytes 4 t.m.toNat ++ leBytes 4 t.l.toNat ++ leBytes 2 row ++ leBytes 1 (bitAt bf16 0 + bitAt t.empty 1) ++ [0] ++
     leBytes 4 t.keys ++ List.replicate 16 0 ++
     t.o.flatMap (fun x => if bf16 then leBytes 2 (fBf16.code (f32v x)) else leBytes 4 x.toNat))

def recBf16 (p : List Byte) : Bool := bit (fld p 10 1) 0
def recRow (p : List Byte) : Nat := fld p 8 2

/-- The triple of a record, O widened exactly (R249). -/
def tripleOf (p : List Byte) (dim : Nat) : Triple :=
  { m := BitVec.ofNat 32 (fld p 0 4), l := BitVec.ofNat 32 (fld p 4 4), empty := bit (fld p 10 1) 1, keys := fld p 12 4
    o := (List.range dim).map (fun i =>
      if recBf16 p then toF32 (fBf16.value (fld p (32 + i * 2) 2)) else BitVec.ofNat 32 (fld p (32 + i * 4) 4)) }

/-- Folds two triples (R249). -/
def foldTriple (a b : Triple) : Triple :=
  if a.empty then b
  else if b.empty then a
  else
    let m := fMax a.m b.m
    let ea := fExp (fAdd a.m (fNeg m))
    let eb := fExp (fAdd b.m (fNeg m))
    { m := m, l := fAdd (fMul ea a.l) (fMul eb b.l), empty := false, keys := min (a.keys + b.keys) (2 ^ 32 - 1)
      o := (a.o.zip b.o).map (fun p => fAdd (fMul ea p.1) (fMul eb p.2)) }

/-- o ÷ l, converted (R252). An empty triple gives zeros. -/
def normBytes (t : Triple) (fmt : Nat) : List Byte :=
  packCodes (fmtBits fmt) (t.o.map (fun x => if t.empty then 0 else elemCode fmt (f32v (fDiv x t.l))))

/-! ### The descriptor (R240, R241, R295) -/

/-- Finite and positive. -/
def finitePos (x : F32) : Bool := (f32v x).isFinite && (FV.fin false 0 0).lt (f32v x) && !(f32v x).isZero

/-- The fields that ATTEND and BATCH_STEP share are in range (R240). -/
def AttDesc.rangesOk (a : AttDesc) : Bool :=
  finitePos a.scale && (a.cap == 0 || finitePos a.cap) && (a.window == 0 || 65 ≤ a.window) &&
  100 ≤ a.limitUs && a.limitUs ≤ 1000000 && dimOk a.dim && 1 ≤ a.rows && a.rows ≤ 64 &&
  (a.qFmt == 1 || a.qFmt == 2 || a.qFmt == 3) && a.normFmt ≤ 3 && (a.norm != 0 || a.normFmt == 0) && a.out % 64 == 0

def attendDescOk (p : List Byte) (a : AttDesc) : Bool :=
  a.rangesOk && 1 ≤ a.heads && a.heads ≤ 128 && fld p 63 1 < 8 && zeros p 64 64

def qBytes (a : AttDesc) : Nat := a.dim * (fmtBits a.qFmt / 8)
def qAt (a : AttDesc) (h r : Nat) : Nat := a.q + (h * a.rows + r) * qBytes a
def metaAt (a : AttDesc) (h r : Nat) : Nat := nth a.metas h 0 + r * 16
def outAt (a : AttDesc) (h r : Nat) (bf16 : Bool) : Nat := a.out + (h * a.rows + r) * recSize a.dim bf16

/-- RESULT of a failure (R264). -/
def attResult (head entry : Nat) (remote : Bool) : Word :=
  BitVec.ofNat 64 (head % 65536 + entry % 2 ^ 32 * 65536 + bitAt remote 48)

def attFail (status head entry : Nat) (remote : Bool) (detail : Nat) : Fail :=
  { status := status, result := attResult head entry remote, detail := detail }

/-- A failed access of a head and entry takes the result of R264. -/
def attAccess (head entry : Nat) (f : TileOut) : TileOut :=
  match f with
  | .denied x va => .denied { x with result := attResult head entry false } va
  | .fail x => .fail { x with result := attResult head entry false }
  | .ok w u t => .ok w u t

/-- A failure that concerns no head: the head index is a free value (log 42). -/
def headless (s : State) : Nat := (Config.headless s.freeCtr).toNat

/-! ### Tiles (R251, R252) -/

/-- Engine clocks for slots of one format (R251). -/
def attClocks (a : AttDesc) (fmt slots : Nat) : Nat := 2 * a.rows * slots * a.dim / macRate a.qFmt fmt

/-- Drum of a tile of L local pages (R251). -/
def attDrum (a : AttDesc) (l : Nat) : Nat := 65536 * l + a.rows * (2 * recSize a.dim false + 2 * a.dim)

/-- L of R251; none where one page does not fit the drum. -/
def attPages (a : AttDesc) (fmt : Nat) (g : Grant) : Option Nat :=
  let ok (l : Nat) : Bool := 8 * attDrum a l ≤ smallestDrum g &&
    (l == 1 || 2 * a.rows * pageCap fmt a.dim * a.dim * l ≤ (32000 - 640) * macRate a.qFmt fmt)
  ((List.range 16).map (fun i => 16 - i)).find? ok

/-- Cuts a head's entries into tiles: first entry and count of each. -/
def cutEntries (pages : Nat) : List ChainEnt → Nat → Nat → Nat → Nat → List (Nat × Nat)
  | [], first, count, _, _ => if count == 0 then [] else [(first, count)]
  | e :: l, first, count, loc, rem =>
    let loc' := if e.remote then loc else loc + 1
    let rem' := if e.remote then rem + 1 else rem
    if pages < loc' || 32 < rem' then
      (first, count) :: cutEntries pages l (first + count) 1 (if e.remote then 0 else 1) (if e.remote then 1 else 0)
    else cutEntries pages l first (count + 1) loc' rem'

/-- Entries of a chain that a tile takes. -/
def tileEnts (c : Chain) (first count : Nat) : List ChainEnt := (c.ents.drop first).take count

/-- Attend tiles of every head given with its index, in head order. -/
def attTiles (a : AttDesc) (pages : Nat) (heads : List (Nat × Chain)) : List (TileKind × Nat × Nat) :=
  heads.flatMap (fun p => (cutEntries pages p.2.ents 0 0 0 0).map (fun t =>
    (TileKind.attend p.1 t.1 t.2, attDrum a pages,
      ((tileEnts p.2 t.1 t.2).filter (fun e => !e.remote)).foldl (fun n e => n + attClocks a e.fmt e.count) 640)))

/-- A lantern tile's drum and clocks (log 41). -/
def lanternTile (k : TileKind) : TileKind × Nat × Nat := (k, 131072, 640)

/-- Whether a closing tile runs. -/
def closes (a : AttDesc) : Bool := a.oBf16 || a.norm != 0

/-- Opening tile, attend tiles and closing tile (R252). -/
def attPlan (a : AttDesc) (pages : Nat) (heads : List (Nat × Chain)) : List (TileKind × Nat × Nat) :=
  lanternTile .attendOpen :: attTiles a pages heads ++ (if closes a then [lanternTile .attendClose] else [])

/-! ### Scores and masks (R246 to R248) -/

/-- A row's position and ancestry (R241). -/
structure RowMeta where
  anc : Nat
  qpos : Nat
  deriving DecidableEq, Repr

def rowMeta (s : State) (d : Def) (a : AttDesc) (h r : Nat) : RowMeta :=
  { anc := peekNat s d (metaAt a h r) 8, qpos := peekNat s d (metaAt a h r + 8) 4 }

/-- Whether a slot is visible to a row (R247). -/
def visible (causal : Bool) (window : Nat) (m : RowMeta) (x : KvSlot) : Bool :=
  match x.tent with
  | some i => bit m.anc i
  | none =>
    !(causal && m.qpos < x.pos) && !(0 < window && (window : Int) ≤ (m.qpos : Int) - x.pos)

/-- The score of a query row against a slot (R246). -/
def score (s : State) (d : Def) (dim : Nat) (scale cap : F32) (q : List FV) (x : KvSlot) : F32 :=
  let t := mac ((List.range dim).map (fun c => (nth q c (.fin false 0 0), pageElem s d x.fmt dim x.page x.tok c false)))
  let sc := fMul scale t
  if cap == 0 then sc else fMul cap (fTanh (fDiv sc cap))

/-- The triple of one block of up to 64 slots (R248). -/
def blockTriple (s : State) (d : Def) (dim qFmt : Nat) (scale cap : F32) (q : List FV) (vis : List KvSlot) : Triple :=
  let sc := vis.map (score s d dim scale cap q)
  match sc with
  | [] => Triple.none dim
  | x :: l =>
    let m := l.foldl fMax x
    let pf := if qFmt == 3 then fE4m3 else fBf16
    let p := sc.map (fun y => pf.value (pf.code (f32v (fExp (fAdd y (fNeg m))))))
    { m := m, l := toF32 (FV.sum p), empty := false, keys := vis.length
      o := (List.range dim).map (fun c =>
        mac (p.zip (vis.map (fun y => pageElem s d y.fmt dim y.page y.tok c true)))) }

/-- A row's running triple over slots taken in blocks of 64 (R248). -/
def rowTriple (s : State) (d : Def) (dim qFmt : Nat) (scale cap : F32) (causal : Bool) (window : Nat) (m : RowMeta)
    (q : List FV) : Nat → List KvSlot → Triple → Triple
  | 0, _, acc => acc
  | fuel + 1, l, acc =>
    if l.isEmpty then acc
    else
      rowTriple s d dim qFmt scale cap causal window m q fuel (l.drop 64)
        (foldTriple acc (blockTriple s d dim qFmt scale cap q ((l.take 64).filter (visible causal window m))))

/-- A query row's elements. -/
def queryRow (s : State) (d : Def) (a : AttDesc) (h r : Nat) : List FV :=
  (List.range a.dim).map (fun c => elemAt s d a.qFmt (qAt a h r) c)

/-- The local triples of an attend tile, row 0 first. -/
def tileTriples (s : State) (d : Def) (a : AttDesc) (h n : Nat) (ents : List ChainEnt) : List Triple :=
  let slots := entSlots n ents
  (List.range a.rows).map (fun r =>
    rowTriple s d a.dim a.qFmt a.scale a.cap a.causal a.window (rowMeta s d a h r) (queryRow s d a h r)
      (slots.length / 64 + 1) slots (Triple.none a.dim))

/-! ### Snapshots (R242, R244) -/

/-- What the start of an ATTEND finds. -/
inductive Snap where
  | fails (f : TileOut)
  | ok (l : List Chain)

/-- A chain that an ATTEND may read (R244). -/
def snapOk (a : AttDesc) (fmt0 : Option Nat) (c : Chain) : Bool :=
  c.dim == a.dim && (match fmt0 with | some f => c.fmt == f | none => true)

/-- The first remote entry whose QP lies outside the reservation (R244). -/
def badQp (g : Grant) (c : Chain) : Option Nat := c.ents.findIdx? (fun e => e.remote && g.qps ≤ e.qp)

/-- The rows' records of a head are well formed for a chain (R241, R244). -/
def metasOk (s : State) (d : Def) (a : AttDesc) (h tn : Nat) : Bool :=
  (List.range a.rows).all (fun r => (rowMeta s d a h r).anc < 2 ^ tn && peekNat s d (metaAt a h r + 12) 4 == 0)

/-- Reads the chains of heads in order. -/
def snapshot (s : State) (d : Def) (a : AttDesc) : Nat → List Nat → Option Nat → Snap
  | _, [], _ => .ok []
  | h, va :: l, fmt0 =>
    match readChain s d va with
    | .fails f => .fails (attAccess h noEntry f)
    | .broken i => .fails (.fail (attFail cMalformed h i false 16))
    | .ok c =>
      if !snapOk a fmt0 c || !metasOk s d a h c.tn || (badQp d.grant c).isSome then
        .fails (.fail (attFail cMalformed h ((badQp d.grant c).getD noEntry) false 16))
      else match snapshot s d a (h + 1) l (some c.fmt) with
        | .fails f => .fails f
        | .ok cs => .ok (c :: cs)

/-- Arrays that the command refers to (R156). -/
def attUses (a : AttDesc) (chains : List Chain) : List (Nat × Nat) :=
  [(a.q, a.heads * a.rows * qBytes a), (a.out, a.heads * a.rows * recSize a.dim false),
   (a.norm, if a.norm == 0 then 0 else a.heads * a.rows * (a.dim * (fmtBits a.normFmt / 8)))] ++
  a.metas.map (fun m => (m, a.rows * 16)) ++
  chains.flatMap (fun c => [(c.va, 64), (c.list, c.ents.length * 16)] ++
    (c.ents.filter (fun e => !e.remote)).map (fun e => (e.addr, 65536)))

/-- An ATTEND begins: its snapshot and its tiles (R242, R244, R251, R252). -/
def attendBegin (s : State) (d : Def) (p : List Byte) : TileOut :=
  let a := parseAttend p
  let chainsVa := fld p 8 8
  if !attendDescOk p a then .fail (attFail cMalformed (headless s) noEntry false 16)
  else match readsFail s d [(chainsVa, a.heads * 8), (nth a.metas 0 0, a.rows * 16)] with
    | some f => attAccess (headless s) noEntry f
    | none =>
      match snapshot s d a 0 ((List.range a.heads).map (fun h => peekNat s d (chainsVa + h * 8) 8)) none with
      | .fails f => f
      | .ok cs =>
        let fmt := match cs with | c :: _ => c.fmt | [] => 0x03
        match attPages a fmt d.grant with
        | none => .fail (attFail cMalformed (headless s) noEntry false 16)
        | some pages =>
          .ok [] (fun c => { c with
            chains := cs, tiles := number 0 (attPlan a pages ((List.range a.heads).zip cs))
            uses := c.uses ++ (chainsVa, a.heads * 8) :: attUses a cs }) (fun s => s)

/-! ### Tile ends (R252) -/

/-- The opening tile: empty records, or the check of ACCUMULATE (R252). -/
def attOpenEnd (s : State) (d : Def) (a : AttDesc) : TileOut :=
  let n := a.heads * a.rows
  let size := recSize a.dim false
  if a.accum then
    match readsFail s d [(a.out, n * size)] with
    | some f => attAccess (headless s) noEntry f
    | none =>
      match (List.range n).find? (fun i => recBf16 (peek s d (a.out + i * size) 32)) with
      | some i => .fail (attFail cMalformed (i / a.rows) noEntry false 16)
      | none => .ok [] (fun c => c) (fun s => s)
  else
    match writesFail s d [(a.out, n * size)] with
    | some f => attAccess (headless s) noEntry f
    | none => .ok ((List.range n).map (fun i => (a.out + i * size, tripleBytes (Triple.none a.dim) (i % a.rows) a.dim false)))
        (fun c => c) (fun s => s)

/-- Why a local entry cannot be attended: its page cannot be read, lies in a drum buffer that is marked poisoned, or is an
invalid KV-4o page (R196, R264, R375). -/
def entFault (s : State) (d : Def) (a : AttDesc) (bad : List Nat) (h i : Nat) (e : ChainEnt) : Option TileOut :=
  if e.remote then none
  else match readsFail s d [(e.addr, pageUsed e.fmt a.dim)] with
    | some (.fail f) => some (.fail { f with result := attResult h i false, detail := vaDetail e.addr })
    | some f => some (attAccess h i f)
    | none =>
      if e.fmt == 0x10 && !kvPageOk (peek s d e.addr 65536) a.dim then some (.fail (attFail cMalformed h i false 16))
      else if bad.contains i then some (.fail (attFail cPoisoned h i false (vaDetail e.addr))) else none

/-- Triples whose values the manual leaves undefined (R245, log 71). -/
def freeTriples (s : State) (a : AttDesc) : List Triple :=
  (List.range a.rows).map (fun r =>
    let v (i : Nat) : F32 := (Config.free (s.freeCtr + r * (a.dim + 3) + i)).setWidth 32
    { m := v 0, l := v 1, empty := (Config.free (s.freeCtr + r * (a.dim + 3) + 2)).getLsbD 63, keys := (v 2).toNat
      o := (List.range a.dim).map (fun k => v (k + 3)) })

/-- Bytes that hold slots of the tile have been written since the snapshot (R245). -/
def slotsTouched (s : State) (d : Def) (touched : List (Nat × Nat)) (dim : Nat) (ents : List ChainEnt) : Bool :=
  !touched.isEmpty && ents.any (fun e => !e.remote && (entBytesOf s d dim e).any (fun r => touched.any (rangesMeet r)))

/-- Ranges of a head's rows that a tile reads. -/
def rowReads (a : AttDesc) (h : Nat) : List (Nat × Nat) :=
  [(qAt a h 0, a.rows * qBytes a), (metaAt a h 0, a.rows * 16), (outAt a h 0 false, a.rows * recSize a.dim false)]

/-- The state in which a command reads the pages it attends: with the bytes that appends have re-quantised as they were (R245). -/
def asSnapshot (id : Nat) (kept : List (Nat × List Byte)) (s : State) : State :=
  kept.reverse.foldl (fun s x => writeVa id x.1 x.2 s) s

/-- Triples of a tile over its slots as the snapshot holds them. -/
def snapTriples (s : State) (id : Nat) (d : Def) (kept : List (Nat × List Byte)) (a : AttDesc) (h n : Nat)
    (ents : List ChainEnt) : List Triple :=
  if kept.isEmpty then tileTriples s d a h n ents
  else match getDef (asSnapshot id kept s) id with
    | some d => tileTriples (asSnapshot id kept s) d a h n ents
    | none => []

/-- The local computation of an attend tile of a command over a chain: its triples, or its failure. -/
def attLocal (s : State) (id : Nat) (d : Def) (a : AttDesc) (x : Cmd) (bad : List Nat) (c : Chain) (h first count : Nat) :
    List Triple × Option TileOut :=
  let ents := tileEnts c first count
  match firstCause (ents.zipIdx.map (fun p => entFault s d a bad h (first + p.2) p.1) ++
      [(readsFail s d (rowReads a h)).map (attAccess h noEntry)]) with
  | some f => ([], some f)
  | none => (if slotsTouched s d x.touched a.dim ents then freeTriples s a else snapTriples s id d x.kept a h c.n ents, none)

/-- Folds triples into the OUT records of a head (R252). -/
def foldOut (s : State) (d : Def) (a : AttDesc) (h : Nat) (l : List Triple) : TileOut :=
  let size := recSize a.dim false
  let rng := [(outAt a h 0 false, a.rows * size)]
  match accessFail s d rng rng with
  | some f => attAccess h noEntry f
  | none =>
    match (List.range a.rows).find? (fun r => recBf16 (peek s d (outAt a h r false) 32)) with
    | some _ => .fail (attFail cMalformed h noEntry false 16)
    | none =>
      .ok ((List.range a.rows).map (fun r =>
        (outAt a h r false, tripleBytes (foldTriple (tripleOf (peek s d (outAt a h r false) size) a.dim)
          (nth l r (Triple.none a.dim))) r a.dim false))) (fun c => c) (fun s => s)

/-- A tile's triples: local ones folded with the replies (R252). -/
def joinReplies (dim : Nat) (loc acc : List Triple) : List Triple :=
  loc.zipIdx.map (fun p => foldTriple p.1 (nth acc p.2 (Triple.none dim)))

/-- The closing tile (R252). -/
def attCloseEnd (s : State) (d : Def) (a : AttDesc) : TileOut :=
  let n := a.heads * a.rows
  let size := recSize a.dim false
  let nsize := a.dim * (fmtBits a.normFmt / 8)
  match accessFail s d [(a.out, n * size)]
      [(a.out, if a.oBf16 then n * recSize a.dim true else 0), (a.norm, if a.norm == 0 then 0 else n * nsize)] with
  | some f => attAccess (headless s) noEntry f
  | none =>
    let recs := (List.range n).map (fun i => tripleOf (peek s d (a.out + i * size) size) a.dim)
    .ok ((if a.oBf16 then recs.zipIdx.map (fun p =>
            (a.out + p.2 * recSize a.dim true, tripleBytes p.1 (p.2 % a.rows) a.dim true)) else []) ++
         (if a.norm == 0 then [] else recs.zipIdx.map (fun p => (a.norm + p.2 * nsize, normBytes p.1 a.normFmt))))
      (fun c => c) (fun s => s)

/-! ### MERGE (R266 to R268) -/

def MergeDesc.ok (g : MergeDesc) (p : List Byte) : Bool :=
  1 ≤ g.records && g.records ≤ 8192 && 1 ≤ g.count && g.count ≤ 64 && g.normFmt ≤ 3 && (g.norm != 0 || g.normFmt == 0) &&
  dimOk g.dim && fld p 32 1 < 4 && zeros p 33 31 && g.out % 64 == 0

/-- Input arrays, from the list read at admission, which follows the descriptor's 64 bytes. -/
def MergeDesc.inputs (g : MergeDesc) (p : List Byte) : List Nat :=
  (List.range g.count).map (fun i => fld p (64 + i * 8) 8)

/-- Address and length of the input list; none for a descriptor out of range. -/
def mergeList (p : List Byte) : Nat × Nat := (fld p 0 8, if fld p 28 1 ≤ 64 then fld p 28 1 * 8 else 0)

/-- MERGE begins: one lantern tile for each 64 records (log 41). -/
def mergeBegin (p : List Byte) : TileOut :=
  let g := parseMerge p
  if !g.ok p then .fail (malformed 16)
  else
      .ok [] (fun c => { c with
        tiles := number 0 ((List.range ((g.records + 63) / 64)).map (fun i =>
          lanternTile (.merge (i * 64) (min 64 (g.records - i * 64)))))
        uses := c.uses ++ [(g.list, g.count * 8), (g.out, g.records * g.outSize),
          (g.norm, if g.norm == 0 then 0 else g.records * g.normSize)] ++
          (g.inputs p).map (fun a => (a, g.records * g.inSize)) }) (fun s => s)

/-- The order in which reads return: a permutation given by the event, or ascending (R267, R341, log 43). -/
def arrivalOrder (n : Nat) (order : List Nat) : List Nat :=
  if order.length == n && (List.range n).all (fun i => order.contains i) then order else List.range n

/-- OUT or NORM overlaps other arrays in a way that leaves undefined values (R267). -/
def MergeDesc.clash (g : MergeDesc) (ins : List Nat) : Bool :=
  let out := (g.out, g.records * g.outSize)
  let norm := (g.norm, if g.norm == 0 then 0 else g.records * g.normSize)
  let ranges := ins.map (fun a => (a, g.records * g.inSize))
  rangesMeet out norm || ranges.any (rangesMeet norm) ||
  ranges.any (fun r => rangesMeet out r && !(r.1 == g.out && g.inBf16 == g.outBf16))

/-- The end of a MERGE tile (R267). -/
def mergeEnd (s : State) (id : Nat) (d : Def) (p : List Byte) (first count : Nat) (order : List Nat) : TileOut :=
  let g := parseMerge p
  let ins := g.inputs p
  let outs := [(g.out + first * g.outSize, count * g.outSize),
    (g.norm + first * g.normSize, if g.norm == 0 then 0 else count * g.normSize)]
  match accessFail s d (ins.map (fun a => (a + first * g.inSize, count * g.inSize))) outs with
  | some f => f
  | none =>
    let rec_ (a i : Nat) : List Byte := peek s d (a + (first + i) * g.inSize) g.inSize
    if (List.range count).any (fun i => ins.any (fun a => recBf16 (rec_ a i) != g.inBf16)) then .fail (malformed 16)
    else if g.clash ins then .ok [] (fun c => { c with folds := c.folds + count * (g.count - 1) }) (scramble id outs)
    else
      let one (i : Nat) : Triple := (arrivalOrder g.count order).foldl (fun t k =>
        foldTriple t (tripleOf (rec_ (nth ins k 0) i) g.dim)) (Triple.none g.dim)
      .ok ((List.range count).map (fun i => (g.out + (first + i) * g.outSize,
              tripleBytes (one i) (recRow (rec_ (nth ins 0 0) i)) g.dim g.outBf16)) ++
           (if g.norm == 0 then [] else (List.range count).map (fun i =>
              (g.norm + (first + i) * g.normSize, normBytes (one i) g.normFmt))))
        (fun c => { c with folds := c.folds + count * (g.count - 1) }) (fun s => s)

end Sys2Proof.Machine
end

