-- ==== Sys2Proof/Machine/Kv.lean ====
section
/-! DEFINITION. Changes of KV chains: pages and free-page rings, appends, commits, rollbacks, trims and shadow chains
(R277 to R294). -/

namespace Sys2Proof.Machine

/-! ### Free-page rings (R279 to R283) -/

structure Pool where
  base : Nat
  size : Nat
  head : Nat
  tail : Nat
  taken : Nat
  short : Nat
  deriving DecidableEq, Repr

def poolOf (p : List Byte) : Pool :=
  { base := fld p 0 8, size := fld p 8 4, head := fld p 16 4, tail := fld p 24 4, taken := fld p 32 8, short := fld p 40 8 }

/-- A ring descriptor in range (R279). -/
def poolOk (va : Nat) (p : List Byte) : Bool :=
  let r := poolOf p
  va % 64 == 0 && r.base % 64 == 0 && 64 ≤ r.size && r.size ≤ 1048576 && 2 ^ Nat.log2 r.size == r.size && zeros p 12 4 &&
  zeros p 20 4 && zeros p 28 4 && zeros p 48 16

/-- Pages that a ring holds. -/
def Pool.held (r : Pool) : Nat := (r.tail + 2 ^ 32 - r.head) % 2 ^ 32

/-- The page at an offset from HEAD. -/
def Pool.page (r : Pool) (s : State) (d : Def) (k : Nat) : Nat := peekNat s d (r.base + (r.head + k) % 2 ^ 32 % r.size * 8) 8

/-- What a take of `n` pages from a ring would give. -/
inductive Take where
  | fails (f : TileOut)
  | short
  | ok (pages : List Nat)

/-- A ring with `n` pages wanted (R281). A chain with no POOL cannot be supplied. -/
def takeCheck (s : State) (d : Def) (pool n : Nat) : Take :=
  if n == 0 then .ok []
  else if pool == 0 then .short
  else match readsFail s d [(pool, 64)] with
    | some f => .fails f
    | none =>
      let p := peek s d pool 64
      let r := poolOf p
      if !poolOk pool p then .fails (.fail (malformed 16))
      else if r.held < n then .short
      else match readsFail s d ((List.range n).map (fun k => (r.base + (r.head + k) % 2 ^ 32 % r.size * 8, 8))) with
        | some f => .fails f
        | none =>
          let pages := (List.range n).map (r.page s d)
          if pages.any (fun a => a % 65536 != 0) then .fails (.fail (malformed 16)) else .ok pages

/-- HEAD and TAKEN advance (R283). -/
def takeFrom (id pool n : Nat) (s : State) : State :=
  match getDef s id with
  | none => s
  | some d =>
    if n == 0 || pool == 0 then s
    else
      let r := poolOf (peek s d pool 64)
      writeVa id (pool + 32) (leBytes 8 ((r.taken + n) % 2 ^ 64))
        (writeVa id (pool + 16) (leBytes 4 ((r.head + n) % 2 ^ 32)) s)

/-- SHORT advances (R283). -/
def countShort (id pool : Nat) (s : State) : State :=
  match getDef s id with
  | none => s
  | some d =>
    if pool == 0 then s
    else writeVa id (pool + 40) (leBytes 8 (((poolOf (peek s d pool 64)).short + 1) % 2 ^ 64)) s

/-- What a take, or a refusal, writes in a ring's descriptor (R283). -/
def takeWrites (pool n : Nat) : List (Nat × Nat) := if n == 0 || pool == 0 then [] else [(pool + 16, 4), (pool + 32, 8)]
def shortWrites (pools : List Nat) : List (Nat × Nat) := (pools.filter (· != 0)).map (fun p => (p + 40, 8))

/-! ### What a change reads and writes -/

/-- Ranges that a change reads and writes, and the KV-4o pages whose contents it takes (R196). -/
structure Access where
  reads : List (Nat × Nat)
  writes : List (Nat × Nat)
  pages : List Nat
  deriving DecidableEq, Repr

def Access.none : Access := { reads := [], writes := [], pages := [] }
def Access.join (a b : Access) : Access :=
  { reads := a.reads ++ b.reads, writes := a.writes ++ b.writes, pages := a.pages ++ b.pages }
def Access.sum (l : List Access) : Access := l.foldl Access.join Access.none
def Access.writing (l : List (Nat × Nat)) : Access := { Access.none with writes := l }

/-- A readable page that is no valid KV-4o page (R196). -/
def pageInvalid (s : State) (d : Def) (dim page : Nat) : Bool :=
  (readsFail s d [(page, 65536)]).isNone && !kvPageOk (peek s d page 65536) dim

/-- Why the accesses of a change cannot all be made, by the order of R263. -/
def Access.fault (a : Access) (s : State) (d : Def) (dim : Nat) : Option TileOut :=
  firstCause [if a.pages.any (pageInvalid s d dim) then some (.fail (malformed 16)) else Option.none,
    accessFail s d a.reads a.writes]

/-- Charges a change's traffic and the walks of its pages to the slot (R26, R98, R294). -/
def Access.charge (a : Access) (id : Nat) (s : State) : State :=
  chargeRanges id true a.writes (chargeRanges id false a.reads (chargeWalks id (a.reads ++ a.writes) s))

/-! ### A chain with its shadow (R277, R293) -/

structure Pair where
  c : Chain
  sh : Option Chain
  deriving DecidableEq, Repr

inductive PairRead where
  | fails (f : TileOut)
  | ok (p : Pair)

/-- An entry that holds tentative tokens only (R282). -/
def tentOnly (c : Chain) : Bool := c.ents.any (fun e => c.n ≤ e.first)

/-- Reads a chain that a command changes, with its shadow, under the checks of R277. -/
def readPair (s : State) (d : Def) (va : Nat) (trim : Bool) : PairRead :=
  match readChain s d va with
  | .fails f => .fails f
  | .broken _ => .fails (.fail (malformed 16))
  | .ok c =>
    if c.isShadow || c.spare % 65536 != 0 || (!trim && c.spare != 0 && tentOnly c) ||
        c.ents.any (fun e => e.remote && d.grant.qps ≤ e.qp) then .fails (.fail (malformed 16))
    else if c.shadow == 0 then .ok { c := c, sh := none }
    else match readChain s d c.shadow with
      | .fails f => .fails f
      | .broken _ => .fails (.fail (malformed 16))
      | .ok sh =>
        if sh.fmt == 0x10 && sh.isShadow && sh.dim == c.dim && sh.n == c.n && sh.tn == 0 && sh.spare % 65536 == 0 then
          .ok { c := c, sh := some sh }
        else .fails (.fail (malformed 16))

/-! ### Entries and pages -/

/-- Room in the last local entry (R281). -/
def roomLeft (c : Chain) : Nat :=
  match c.ents.getLast? with
  | some e => if e.remote then 0 else pageCap c.fmt c.dim - e.count
  | none => 0

/-- Pages needed for `k` further tokens (R281). -/
def pagesFor (c : Chain) (k : Nat) : Nat :=
  if k ≤ roomLeft c then 0 else (k - roomLeft c + pageCap c.fmt c.dim - 1) / pageCap c.fmt c.dim

/-- Pages that have to come from the ring, SPARE being used first (R281). -/
def ringPages (c : Chain) (k : Nat) : Nat := pagesFor c k - (if c.spare == 0 then 0 else 1)

/-- Appends new local entries of the pages given. -/
def newEnts (c : Chain) : Nat → Nat → List Nat → List ChainEnt
  | _, 0, _ => []
  | _, _, [] => []
  | first, k + 1, p :: l =>
    let n := min (k + 1) (pageCap c.fmt c.dim)
    { addr := p, qp := 0, first := first, count := n, remote := false, fmt := c.fmt, skip := 0 } ::
      newEnts c (first + n) (k + 1 - n) l

/-- The chain with room for `k` further tokens at its end: the last entry filled, then new pages, SPARE first. -/
def grow (c : Chain) (k : Nat) (ring : List Nat) : Chain :=
  let room := min k (roomLeft c)
  let kept := setNth c.ents (c.ents.length - 1) (fun e => { e with count := e.count + room })
  let need := pagesFor c k
  let pages := if need == 0 then [] else if c.spare == 0 then ring else c.spare :: ring
  { c with ents := kept ++ newEnts c (c.n + c.tn + room) (k - room) pages
           spare := if need == 0 then c.spare else 0 }

/-- The pages that `grow` takes into use. -/
def grown (c : Chain) (k : Nat) (ring : List Nat) : List Nat :=
  if pagesFor c k == 0 then [] else if c.spare == 0 then ring else c.spare :: ring

/-- Entries cut to the slots below a count, and the local pages that no longer hold a slot (R282, R291). -/
def cutTo (n : Nat) (l : List ChainEnt) : List ChainEnt :=
  (l.filter (fun e => e.first < n)).map (fun e => { e with count := min e.count (n - e.first) })
def emptied (n : Nat) (l : List ChainEnt) : List Nat :=
  ((l.filter (fun e => !(e.first < n) && !e.remote))).map (·.addr)

/-- Undo: entries end at `n`, and an emptied page goes to SPARE (R282). -/
def undoTo (n : Nat) (c : Chain) : Chain :=
  { c with ents := cutTo n c.ents, tn := 0, n := n
           spare := match emptied n c.ents with
             | p :: _ => p
             | [] => c.spare }

def bumpEpoch (c : Chain) : Chain := { c with epoch := (c.epoch + 1) % 256 }

/-! ### Rows (R272, R273, R287) -/

/-- Where the appended tokens come from: source, count, format of the source elements. -/
structure KvSrc where
  va : Nat
  count : Nat
  fmt : Nat
  dim : Nat
  deriving DecidableEq, Repr

/-- Source element (R287). -/
def KvSrc.elem (x : KvSrc) (s : State) (d : Def) (tok ch : Nat) (v : Bool) : FV :=
  elemAt s d x.fmt (x.va + (if v then x.count + tok else tok) * (x.dim * (fmtBits x.fmt / 8))) ch

def KvSrc.range (x : KvSrc) : Nat × Nat := (x.va, 2 * x.count * (x.dim * (fmtBits x.fmt / 8)))

/-- One token's key or value as bytes of the chain's format. -/
def KvSrc.row (x : KvSrc) (s : State) (d : Def) (fmt tok : Nat) (v : Bool) : List Byte :=
  if x.fmt == fmt then
    peek s d (x.va + (if v then x.count + tok else tok) * (x.dim * (fmtBits fmt / 8))) (x.dim * (fmtBits fmt / 8))
  else packCodes (fmtBits fmt) ((List.range x.dim).map (fun ch => elemCode fmt (widen (x.elem s d tok ch v))))

/-- Range of one row of a BF16 or FP8 page. -/
def rowRange (c : Chain) (j : Nat) (v : Bool) : List (Nat × Nat) :=
  match slotPlace c j with
  | some (page, tok) => [(tokenAt c.fmt c.dim page tok v, c.dim * (fmtBits c.fmt / 8))]
  | none => []

/-- Bytes of the token groups `a` to `b` of a KV-4o page: codes, scales, directory and entries (R273). -/
def groupBytes (page dim a b : Nat) : List (Nat × Nat) :=
  [(page + a * 8 * dim, (b + 1 - a) * 8 * dim), (page + 0x6000 + a * 8 * dim, (b + 1 - a) * 8 * dim),
   (page + 0xC000 + a * dim, (b + 1 - a) * dim), (page + 0xCC00 + a * dim, (b + 1 - a) * dim), (page + 0xD800, 64),
   (page + 0xD840, 10176)]

/-- For each local entry that holds slots of `[lo, hi)`: the tokens of its page that do. -/
def slotSpan (ents : List ChainEnt) (lo hi : Nat) : List (ChainEnt × Nat × Nat) :=
  (ents.filter (fun e => !e.remote && max lo e.first < min hi (e.first + e.count))).map (fun e =>
    (e, max lo e.first - e.first, min hi (e.first + e.count) - e.first))

/-- For each local entry that holds slots of `[lo, hi)`: the first and the last token group that does. -/
def groupSpan (ents : List ChainEnt) (lo hi : Nat) : List (ChainEnt × Nat × Nat) :=
  (slotSpan ents lo hi).map (fun x => (x.1, x.2.1 / 16, (x.2.2 - 1) / 16))

/-- The entries of a changed chain, each with the larger of its counts before and after: what it held or holds. -/
def spanEnts : List ChainEnt → List ChainEnt → List ChainEnt
  | _, [] => []
  | [], e :: l => e :: spanEnts [] l
  | o :: m, e :: l => { e with count := max o.count e.count } :: spanEnts m l

/-- Reading the slots `[lo, hi)` of a chain. -/
def rowsRead (c : Chain) (lo hi : Nat) : Access :=
  if c.fmt == 0x10 then
    { reads := (groupSpan c.ents lo hi).flatMap (fun x => groupBytes x.1.addr c.dim x.2.1 x.2.2), writes := []
      pages := (groupSpan c.ents lo hi).map (fun x => x.1.addr) }
  else { Access.none with reads := (slotSpan c.ents lo hi).flatMap (fun x => tokenBytes x.1.addr c.fmt c.dim x.2.1 x.2.2 0) }

/-- Re-quantising the groups of `[lo, hi)` in a chain's entries, some of whose pages are newly taken (R274, R294). -/
def requantAccess (ents : List ChainEnt) (dim lo hi : Nat) (fresh : List Nat) : Access :=
  let span := groupSpan ents lo hi
  let old := span.filter (fun x => !fresh.contains x.1.addr)
  { reads := old.flatMap (fun x => groupBytes x.1.addr dim x.2.1 x.2.2)
    writes := span.flatMap (fun x => groupBytes x.1.addr dim x.2.1 x.2.2) ++ fresh.map (fun p => (p + 0xC000, 0x4000))
    pages := old.map (fun x => x.1.addr) }

/-- Re-quantises the groups of one page in the order of R197. -/
def requantPage (dim a b : Nat) (val : Nat → Nat → Bool → FV) (p : List Byte) : List Byte :=
  ((List.range (b + 1 - a)).map (· + a)).foldl (fun p g =>
    (List.range dim).foldl (fun p ch =>
      [false, true].foldl (fun p v =>
        kvRequant p dim g ch v ((List.range 16).map (fun t => val (g * 16 + t) ch v))) p) p) p

/-- Re-quantises every group of entries that holds a slot of `[lo, hi)` from the values given by slot (R294). -/
def requant (id dim : Nat) (ents : List ChainEnt) (lo hi : Nat) (val : Nat → Nat → Bool → FV) (s : State) : State :=
  (groupSpan ents lo hi).foldl (fun s x =>
    match getDef s id with
    | none => s
    | some d =>
      let p := requantPage dim x.2.1 x.2.2 (fun t ch v => val (x.1.first + t) ch v) (peek s d x.1.addr 65536)
      writeAll id ((groupBytes x.1.addr dim x.2.1 x.2.2).map (fun r => (r.1, (p.drop (r.1 - x.1.addr)).take r.2))) s) s

/-- A page taken for a KV-4o chain is cleared from 0xC000 (R274). -/
def clearPages (id : Nat) (fmt : Nat) (pages : List Nat) (s : State) : State :=
  if fmt == 0x10 then writeAll id (pages.map (fun p => (p + 0xC000, List.replicate 0x4000 0))) s else s

/-- The value of a committed slot of a chain. One that a remote entry holds is a free value (log 44). -/
def slotValue (s : State) (d : Def) (c : Chain) (j ch : Nat) (v : Bool) : FV :=
  match slotPlace c j with
  | some (page, tok) => pageElem s d c.fmt c.dim page tok ch v
  | none => f32v (Config.remoteValue s.freeCtr j ch v)

/-! ### Shadows (R294) -/

/-- The shadow follows its primary: its entries, its groups that hold a slot of `[lo, hi)`, its object. `pages` are the
pages it takes. The primary's rows have been written. -/
def followShadow (id : Nat) (prim sh0 sh1 : Chain) (lo hi : Nat) (pages : List Nat) (s : State) : State :=
  let s1 := clearPages id 0x10 pages s
  let val (s : State) (d : Def) (j ch : Nat) (v : Bool) : FV :=
    if j < prim.n then slotValue s d prim j ch v else .fin false 0 0
  let s2 := match getDef s1 id with
    | none => s1
    | some d => requant id sh1.dim (spanEnts sh0.ents sh1.ents) lo hi (val s1 d) s1
  let s3 := writeVa id sh1.list (listBytes sh1) s2
  writeVa id sh0.va (objBytes sh1) s3

/-- The shadow's chain after its primary holds `n` committed tokens. -/
def shadowTo (sh : Chain) (n : Nat) (ring : List Nat) : Chain :=
  if sh.n ≤ n then { grow sh (n - sh.n) ring with n := n } else { sh with ents := cutTo n sh.ents, n := n }

/-- What following the primary reads and writes: the shadow's changed groups, the primary's rows that stand in them, the
shadow's entry list and object. -/
def shadowAccess (prim0 : Chain) (n1 : Nat) (sh0 sh1 : Chain) (fresh : List Nat) : Access :=
  let ents := spanEnts sh0.ents sh1.ents
  let lo := min prim0.n n1
  let hi := max prim0.n n1
  Access.sum ([requantAccess ents sh1.dim lo hi fresh, Access.writing ((sh0.va, 64) :: [(sh1.list, sh1.ents.length * 16)])] ++
    (groupSpan ents lo hi).map (fun x => rowsRead prim0 (x.1.first + x.2.1 * 16) (min lo (x.1.first + (x.2.2 + 1) * 16))))

/-! ### Executing commands that read the chain (R245, R254) -/

/-- The head of a command that attends a chain, if it is executing. -/
def readerHead (c : Cmd) (va : Nat) : Option Nat :=
  if c.began && c.failed.isNone && c.tiles.any (fun t => t.state != .ended) then
    (c.chains ++ c.shadows).findIdx? (fun x => x.va == va)
  else none

/-- An executing ATTEND over a changed chain is cancelled (R245). -/
def cancelReaders (id va : Nat) (s : State) : State :=
  eachRing id (fun ring s =>
    match (getCur s id ring).bind (fun c => (readerHead c va).map (fun h => (c, h))) with
    | some (c, h) => failCur id ring (Fail.of cCancelled (h % c.chains.length)) s
    | none => s) s

/-- The readers of a chain, and of its shadow where the shadow changes with it, are cancelled. -/
def cancelPair (id : Nat) (c : Chain) (sh : Option Chain) (n1 : Nat) (s : State) : State :=
  match sh with
  | some y => if c.n == n1 then cancelReaders id c.va s else cancelReaders id y.va (cancelReaders id c.va s)
  | none => cancelReaders id c.va s

/-- The key of a chain for the time of its last epoch advance. -/
def epochKey (id va : Nat) : Nat := id * 2 ^ 64 + va

/-- Pages of a slot's chain that have arrived are stale: they are discarded and counted (R25, R254). -/
def dropArrived (slot va : Nat) (s : State) : State :=
  let stale (f : Fetch) : Bool := f.slot == slot && f.arrived && f.chainVa == some va
  setSlot { s with fetches := s.fetches.filter (fun f => !stale f.2) } slot (fun x => { x with
    squash := x.squash + BitVec.ofNat 64 (s.fetches.filter (fun f => stale f.2)).length })

/-- An epoch advance takes effect on a chain (R254, R284). -/
def epochMoved (id va : Nat) (s : State) : State :=
  let s1 := { s with epochAt := mput s.epochAt (epochKey id va) (now s) }
  match (getDef s id).bind (fun d => d.slot) with
  | some sl => dropArrived sl va s1
  | none => s1

/-- Less than 2 µs since the last advance on a chain (R284). -/
def epochTooSoon (s : State) (id va : Nat) : Bool :=
  match mfind s.epochAt (epochKey id va) with
  | some t => now s < t + 2000
  | none => false

/-! ### The changes -/

/-- Writes a chain's entry list. -/
def writeList (id : Nat) (c : Chain) (s : State) : State := writeVa id c.list (listBytes c) s

/-- Writes a chain's object, which is the effect point: after its rows, its entry list and its shadow (R278). -/
def writeObject (id : Nat) (c : Chain) (s : State) : State := writeVa id c.va (objBytes c) s

/-- Writes a chain whose shadow does not change. -/
def writeChain (id : Nat) (c : Chain) (s : State) : State := writeObject id c (writeList id c s)

/-- An append leaves the executing commands that attend its chain as they were: what it replaces of the bytes in their
snapshots is kept for them (R245). -/
def keepingReads (id : Nat) (f : State → State) (s : State) : State :=
  match getDef s id with
  | none => f s
  | some d =>
    setDef (f s) id (fun x => { x with rings := x.rings.map (fun p => (p.1, { p.2 with cur := p.2.cur.map (fun c =>
      match (mfind d.rings p.1).bind (fun r => r.cur) with
      | some c0 => { c with
          touched := c0.touched
          kept := c.kept ++ (c.touched.drop c0.touched.length).map (fun y => (y.1, fetchPieces s d (pieceList y.1 y.2))) }
      | none => c) })) })

/-- The object and entry list of a changed chain are written where they lie. -/
def chainRanges (c : Chain) : List (Nat × Nat) := [(c.va, 64), (c.list, c.ents.length * 16)]

/-- RESULT of R292. -/
def kvResult (c : Chain) (taken : Nat) (stale : Bool) : Word :=
  BitVec.ofNat 64 (c.n + c.tn * 2 ^ 32 + c.epoch * 2 ^ 40 + min taken 255 * 2 ^ 48 + bitAt stale 63)

/-- Writes the rows of appended tokens into the slots of a grown chain (R272, R287, R294). -/
def writeRows (id : Nat) (old new : Chain) (x : KvSrc) (s : State) : State :=
  let first := old.n + old.tn
  if new.fmt == 0x10 then
    match getDef s id with
    | none => s
    | some d =>
      requant id new.dim (spanEnts old.ents new.ents) first (first + x.count) (fun j ch v =>
        if j < first then slotValue s d old j ch v
        else if j < first + x.count then f32v (toF32 (x.elem s d (j - first) ch v))
        else .fin false 0 0) s
  else
    (List.range x.count).foldl (fun s t =>
      match getDef s id, slotPlace new (first + t) with
      | some d, some (page, tok) =>
        writeAll id [(tokenAt new.fmt new.dim page tok false, x.row s d new.fmt t false),
                     (tokenAt new.fmt new.dim page tok true, x.row s d new.fmt t true)] s
      | _, _ => s) s

/-- Reading a chain with its shadow. -/
def Pair.access (p : Pair) : Access :=
  { Access.none with reads := chainRanges p.c ++ (match p.sh with | some y => chainRanges y | none => []) }

/-- What the writing of an append's rows, and of its chain, reads and writes; `fresh` are the pages taken. -/
def rowsAccess (old new : Chain) (x : KvSrc) (fresh : List Nat) : Access :=
  let first := old.n + old.tn
  Access.sum [{ Access.none with reads := [x.range], writes := chainRanges new },
    if new.fmt == 0x10 then requantAccess (spanEnts old.ents new.ents) new.dim first (first + x.count) fresh
    else Access.writing ((slotSpan new.ents first (first + x.count)).flatMap (fun y =>
      tokenBytes y.1.addr new.fmt new.dim y.2.1 y.2.2 0))]

/-- The part of a change that its shadow takes: `n1` committed tokens after it, `ring2` the pages of the shadow's ring. -/
def shadowPart (c : Chain) (n1 : Nat) (sh : Option Chain) (ring2 : List Nat) : Access :=
  match sh with
  | some y =>
    if c.n == n1 then Access.none
    else (Access.writing (takeWrites y.pool ring2.length)).join
      (shadowAccess c n1 y (shadowTo y n1 ring2) (grown y (n1 - y.n) ring2))
  | none => Access.none

/-- Moves the kept tentative tokens down (R289). -/
def compactRows (id : Nat) (c : Chain) (kept : List Nat) (s : State) : State :=
  kept.zipIdx.foldl (fun s p =>
    if p.1 == p.2 then s
    else
      match getDef s id, slotPlace c (c.n + p.1), slotPlace c (c.n + p.2) with
      | some d, some (sp, st), some (tp, tt) =>
        let n := c.dim * (fmtBits c.fmt / 8)
        writeAll id [(tokenAt c.fmt c.dim tp tt false, peek s d (tokenAt c.fmt c.dim sp st false) n),
                     (tokenAt c.fmt c.dim tp tt true, peek s d (tokenAt c.fmt c.dim sp st true) n)] s
      | _, _, _ => s) s

/-- The tentative tokens that a commit keeps. -/
def keptOf (accept : Word) : List Nat := (List.range 64).filter (fun i => accept.getLsbD i)

/-- The chain after an undo: COMMIT with ACCEPT, or ROLLBACK (R289, R290). -/
def undone (c : Chain) (accept : Word) : Chain := bumpEpoch (undoTo (c.n + (keptOf accept).length) c)

/-- What an undo changes in memory before the shadow: the rows moved. A KV-4o chain holds no tentative token (R287). -/
def undoRows (id : Nat) (c : Chain) (accept : Word) (s : State) : State :=
  if c.fmt == 0x10 then s else compactRows id c (keptOf accept) s

/-- Rows that an undo moves: read where they lie, written where they go (R289). -/
def undoAccess (c new : Chain) (accept : Word) : Access :=
  let moved := if c.fmt == 0x10 then [] else (keptOf accept).zipIdx.filter (fun p => p.1 != p.2)
  { reads := moved.flatMap (fun p => rowRange c (c.n + p.1) false ++ rowRange c (c.n + p.1) true)
    writes := moved.flatMap (fun p => rowRange c (c.n + p.2) false ++ rowRange c (c.n + p.2) true) ++ chainRanges new
    pages := [] }

/-! ### KV_APPEND (R287, R288) -/

structure AppendArgs where
  src : Nat
  count : Nat
  tentative : Bool
  srcFmt : Nat
  deriving DecidableEq, Repr

/-- The format of the source elements (R287). -/
def srcFormat (c : Chain) (sel : Nat) : Nat := if sel == 0 then c.fmt else if sel == 1 then 0x01 else 0x00

/-- The source of an append. -/
def AppendArgs.source (a : AppendArgs) (c : Chain) : KvSrc :=
  { va := a.src, count := a.count, fmt := srcFormat c a.srcFmt, dim := c.dim }

/-- A shadow's entry list has no room for `k` further tokens. -/
def shadowFull (sh : Option Chain) (k : Nat) : Bool :=
  match sh with
  | some y => decide (y.cap < y.ents.length + pagesFor y k)
  | none => false

/-- R287's cases of MALFORMED for a chain as it stands. -/
def appendBad (c : Chain) (sh : Option Chain) (a : AppendArgs) : Bool :=
  (a.tentative && c.fmt == 0x10) || (a.tentative && 64 < c.tn + a.count) || (!a.tentative && c.tn != 0) ||
  (a.srcFmt == 0 && c.fmt == 0x10) || a.srcFmt == 3 || c.cap < c.ents.length + pagesFor c a.count ||
  (!a.tentative && shadowFull sh a.count)

/-- The pages of a primary and its shadow from their rings, which may be one (R288). -/
def takeTwo (s : State) (d : Def) (p1 n1 p2 n2 : Nat) : Take × List Nat :=
  if p1 == p2 then
    match takeCheck s d p1 (n1 + n2) with
    | .ok l => (.ok (l.take n1), l.drop n1)
    | .short => (.short, [p1])
    | .fails f => (.fails f, [])
  else
    match takeCheck s d p1 n1, takeCheck s d p2 n2 with
    | .fails f, _ => (.fails f, [])
    | _, .fails f => (.fails f, [])
    | .short, .short => (.short, [p1, p2])
    | .short, _ => (.short, [p1])
    | _, .short => (.short, [p2])
    | .ok l, .ok l2 => (.ok l, l2)

/-- The appended chain: counts after the append. -/
def appended (c : Chain) (a : AppendArgs) (ring : List Nat) : Chain :=
  let g := grow c a.count ring
  if a.tentative then { g with tn := c.tn + a.count } else { g with n := c.n + a.count }

/-- Performs an append whose pages are at hand, except the writing of the primary's object. -/
def appendEffect (id : Nat) (c new : Chain) (sh : Option Chain) (a : AppendArgs) (ring ring2 : List Nat) (s : State) : State :=
  let x := a.source c
  let s1 := takeFrom id c.pool ring.length s
  let s2 := match sh with
    | some y => takeFrom id y.pool ring2.length s1
    | none => s1
  let s3 := writeList id new (writeRows id c new x (clearPages id c.fmt (grown c a.count ring) s2))
  match sh with
  | some y =>
    if a.tentative then s3
    else followShadow id new y (shadowTo y new.n ring2) c.n new.n (grown y a.count ring2) s3
  | none => s3

/-- Pages that an append takes from the shadow's ring. -/
def shadowNeed (sh : Option Chain) (a : AppendArgs) : Nat × Nat :=
  match sh with
  | some y => if a.tentative then (0, 0) else (y.pool, ringPages y a.count)
  | none => (0, 0)

def kvDone (r : Word) (after : State → State) : TileOut := .ok [] (fun c => { c with result := r }) after

/-- A change whose rings are read first and whose accesses are then tested: the first cause decides (R263, R292). -/
def changeFault (s : State) (d : Def) (dim : Nat) (t : Take) (a : Access) : Option TileOut :=
  firstCause [match t with | .fails f => some f | _ => none, a.fault s d dim]

/-- A tentative append that finds no page discards the speculation (R288). -/
def appendShort (s : State) (id : Nat) (d : Def) (p : Pair) (a : AppendArgs) (acc : Access) (pool : List Nat) : TileOut :=
  let short (s : State) : State := pool.foldl (fun s p => countShort id p s) s
  let new := if a.tentative then undone p.c 0 else p.c
  let acc := acc.join (Access.writing (shortWrites pool ++ (if a.tentative then chainRanges new else [])))
  match acc.fault s d p.c.dim with
  | some f => f
  | none => .ok [] (fun k => { k with result := kvResult new 0 false, lateStatus := 0x11 }) (fun s =>
      let s1 := short (p.access.charge id s)
      if a.tentative then cancelReaders id p.c.va (epochMoved id p.c.va (writeChain id new s1)) else s1)

/-- What an append reads and writes, given the pages of its rings. -/
def appendAccess (p : Pair) (a : AppendArgs) (ring ring2 : List Nat) : Access :=
  let new := appended p.c a ring
  Access.sum [rowsAccess p.c new (a.source p.c) (grown p.c a.count ring), Access.writing (takeWrites p.c.pool ring.length),
    shadowPart p.c new.n p.sh ring2]

/-- The arguments of KV_APPEND (R287). -/
def appendArgs (e : List Byte) : AppendArgs :=
  let flags := fld e 34 1
  { src := fld e 24 8, count := fld e 32 2, tentative := bit flags 0, srcFmt := bits flags 2 1 }

def kvAppendEnd (s : State) (id : Nat) (d : Def) (e : List Byte) : TileOut :=
  let flags := fld e 34 1
  let a := appendArgs e
  match readPair s d (fld e 16 8) false with
  | .fails f => f
  | .ok p =>
    if appendBad p.c p.sh a then .fail (malformed 34)
    else if !bit flags 3 && fld e 35 1 != p.c.epoch then kvDone (kvResult p.c 0 true) (p.access.charge id)
    else
      let need2 := shadowNeed p.sh a
      let t := takeTwo s d p.c.pool (ringPages p.c a.count) need2.1 need2.2
      let ring := match t.1 with | .ok ring => ring | _ => []
      let ring2 := match t.1 with | .ok _ => t.2 | _ => []
      let new := appended p.c a ring
      let acc := appendAccess p a ring ring2
      match changeFault s d p.c.dim t.1 acc, t.1 with
      | some f, _ => f
      | none, .short => appendShort s id d p a { Access.none with reads := [(a.source p.c).range] } t.2
      | none, _ => kvDone (kvResult new (ring.length + ring2.length) false)
          (keepingReads id (fun s => writeObject id new (appendEffect id p.c new p.sh a ring ring2
            ((p.access.join acc).charge id s))))

/-! ### KV_COMMIT and KV_ROLLBACK (R289, R290) -/

/-- Performs an undo, except the writing of the primary's object. -/
def undoEffect (id : Nat) (c new : Chain) (sh : Option Chain) (accept : Word) (ring2 : List Nat) (s : State) : State :=
  let s1 := match sh with
    | some y => takeFrom id y.pool ring2.length s
    | none => s
  let s2 := writeList id new (undoRows id c accept s1)
  match sh with
  | some y =>
    if c.n == new.n then s2
    else followShadow id new y (shadowTo y new.n ring2) c.n new.n (grown y (new.n - y.n) ring2) s2
  | none => s2

/-- Kept tokens that stay where they are: a shadow that follows reads them (R294). -/
def stayAccess (c : Chain) (sh : Option Chain) (accept : Word) : Access :=
  let stay := if c.fmt == 0x10 || sh.isNone then [] else (keptOf accept).zipIdx.filter (fun p => p.1 == p.2)
  { Access.none with reads := stay.flatMap (fun p => rowRange c (c.n + p.1) false ++ rowRange c (c.n + p.1) true) }

/-- What an undo reads and writes, given the pages of its shadow's ring. -/
def commitAccess (p : Pair) (accept : Word) (ring2 : List Nat) : Access :=
  Access.sum [undoAccess p.c (undone p.c accept) accept, stayAccess p.c p.sh accept,
    shadowPart p.c (undone p.c accept).n p.sh ring2]

def kvUndoEnd (s : State) (id : Nat) (d : Def) (va : Nat) (accept : Word) (any : Bool) (epoch : Nat) : TileOut :=
  match readPair s d va false with
  | .fails f => f
  | .ok p =>
    let c := p.c
    let new := undone c accept
    let k := (keptOf accept).length
    if !(keptOf accept).all (· < c.tn) then .fail (malformed 24)
    else if shadowFull p.sh k then .fail (malformed 16)
    else if !any && epoch != c.epoch then kvDone (kvResult c 0 true) (p.access.charge id)
    else
      let t := match p.sh with | some y => takeCheck s d y.pool (ringPages y k) | none => .ok []
      let ring2 := match t with | .ok l => l | _ => []
      let acc := commitAccess p accept ring2
      let short := match p.sh with | some y => [y.pool] | none => []
      match changeFault s d c.dim t acc, t with
      | some f, _ => f
      | none, .short => match writesFail s d (shortWrites short) with
        | some f => f
        | none => .ok [] (fun x => { x with result := kvResult c 0 false, lateStatus := 0x11 })
            (fun s => short.foldl (fun s q => countShort id q s) (p.access.charge id s))
      | none, _ => kvDone (kvResult new ring2.length false) (fun s =>
          cancelPair id c p.sh new.n (epochMoved id c.va (writeObject id new
            (undoEffect id c new p.sh accept ring2 ((p.access.join acc).charge id s)))))

/-! ### KV_TRIM (R291) -/

/-- A chain cut to its first tokens, and the pages that it then no longer holds, its own and its shadow's. -/
def trimmed (c : Chain) (n : Nat) : Chain := bumpEpoch { c with ents := cutTo n c.ents, n := n, tn := 0 }
def trimPages (p : Pair) (n : Nat) : List Nat :=
  emptied n p.c.ents ++ (match p.sh with | some y => emptied n y.ents | none => [])

/-- What a trim reads and writes. -/
def trimAccess (p : Pair) (n release : Nat) : Access :=
  (Access.writing ((release, (trimPages p n).length * 8) :: chainRanges (trimmed p.c n))).join (shadowPart p.c n p.sh [])

def kvTrimEnd (s : State) (id : Nat) (d : Def) (e : List Byte) : TileOut :=
  let newN := fld e 32 4
  let cap := fld e 36 2
  let release := fld e 24 8
  let flags := fld e 39 1
  match readPair s d (fld e 16 8) true with
  | .fails f => f
  | .ok p =>
    let c := p.c
    let pages := trimPages p newN
    let new := trimmed c newN
    let acc := trimAccess p newN release
    if c.n < newN then .fail (malformed 32)
    else if cap < pages.length then .fail (malformed 36)
    else if !bit flags 3 && fld e 38 1 != c.epoch then kvDone (kvResult { c with n := 0 } 0 true) (p.access.charge id)
    else
      match acc.fault s d c.dim with
      | some f => f
      | none => kvDone (kvResult { new with n := pages.length } 0 false) (fun s =>
          let s0 := writeList id new (writeVa id release (pages.flatMap (leBytes 8)) ((p.access.join acc).charge id s))
          let s1 := match p.sh with
            | some y => if c.n == newN then s0 else followShadow id new y (shadowTo y newN []) newN c.n [] s0
            | none => s0
          retryServing id (fun x => x.chain == c.va) (cancelPair id c p.sh newN (epochMoved id c.va (writeObject id new s1))))

/-! ### The commands' one tile (R278) -/

/-- The chain that a KV command names. -/
def kvChainVa (e : List Byte) : Nat := fld e 16 8

/-- Whether the command advances the epoch when it takes effect (R284). -/
def kvAdvances (e : List Byte) : Bool := eOp e != 0x48

/-- The end of a KV command's tile. -/
def kvEnd (s : State) (id : Nat) (d : Def) (e : List Byte) : TileOut :=
  match eOp e with
  | 0x48 => kvAppendEnd s id d e
  | 0x49 => kvUndoEnd s id d (kvChainVa e) (BitVec.ofNat 64 (fld e 24 8)) (bit (fld e 33 1) 3) (fld e 32 1)
  | 0x4A => kvUndoEnd s id d (kvChainVa e) 0 (bit (fld e 25 1) 3) (fld e 24 1)
  | _ => kvTrimEnd s id d e

/-- The accesses of a KV command as far as they are known before it takes pages, for the predictor (R184). -/
def kvAccess (s : State) (d : Def) (e : List Byte) : Access :=
  match readPair s d (kvChainVa e) true with
  | .fails _ => { Access.none with reads := [(kvChainVa e, 64)], writes := [(kvChainVa e, 64)] }
  | .ok p => p.access.join (match eOp e with
    | 0x48 => appendAccess p (appendArgs e) [] []
    | 0x49 => commitAccess p (BitVec.ofNat 64 (fld e 24 8)) []
    | 0x4A => commitAccess p 0 []
    | _ => trimAccess p (fld e 32 4) (fld e 24 8))

/-- A KV command is one lantern tile. -/
def kvBegin (e : List Byte) : TileOut :=
  .ok [] (fun c => { c with
    tiles := number 0 [lanternTile .kv]
    uses := c.uses ++ (kvChainVa e, 64) ::
      (if eOp e == 0x48 then [(fld e 24 8, 1)] else if eOp e == 0x4B then [(fld e 24 8, fld e 36 2 * 8)] else []) })
    (fun s => s)

end Sys2Proof.Machine
end

