-- ==== Sys2Proof/Machine/Batch.lean ====
section
/-! DEFINITION. BATCH_STEP: its descriptor, its lanes, its phases and their tiles (R295 to R302). -/

namespace Sys2Proof.Machine

/-! ### Descriptor and lane records (R295, R296) -/

structure BatchDesc where
  lanes : Nat
  lstatus : Nat
  release : Nat
  releaseCap : Nat
  marginUs : Nat
  count : Nat
  shadowFall : Bool
  deriving DecidableEq, Repr

def parseBatch (p : List Byte) : BatchDesc :=
  { lanes := fld p 0 8, lstatus := fld p 32 8, release := fld p 40 8, releaseCap := fld p 72 4, marginUs := fld p 76 4
    count := fld p 66 2, shadowFall := bit (fld p 71 1) 2 }

/-- The descriptor's own fields, and what SHADOW_FALLBACK asks of the entry (R295, R297). -/
def batchDescOk (s : State) (p e : List Byte) : Bool :=
  let b := parseBatch p
  (batchAtt p []).rangesOk && fld p 71 1 < 8 && zeros p 80 48 && 1 ≤ b.count && b.count ≤ 4096 && b.lanes % 64 == 0 &&
  b.marginUs ≤ 1000000 && (b.shadowFall || b.marginUs == 0) &&
  (!b.shadowFall || (fld e 40 8 == 0 && deadlineOf s e != 0))

def laneOf (p : List Byte) : Lane :=
  { chain := fld p 0 8, rowMeta := fld p 8 8, newKv := fld p 16 8, accept := BitVec.ofNat 64 (fld p 24 8), seq := fld p 32 4
    op := fld p 36 1, undo := fld p 37 1, append := fld p 38 1, epoch := fld p 39 1, aflags := fld p 40 1, status := 0
    reason := 0, attends := false }

/-- A lane record's fields are in range (R296). -/
def laneFieldsOk (p : List Byte) : Bool :=
  let l := laneOf p
  l.op ≤ 2 && l.undo ≤ 2 && l.append ≤ 64 && l.aflags < 16 && bits l.aflags 2 1 != 3 && zeros p 41 23 &&
  (l.append != 0 || l.newKv == 0) && (l.undo == 1 || l.accept == 0)

def Lane.args (l : Lane) : AppendArgs :=
  { src := l.newKv, count := l.append, tentative := bit l.aflags 0, srcFmt := bits l.aflags 2 1 }

/-- The chain after a lane's undo (R298). -/
def Lane.undoChain (l : Lane) (c : Chain) : Chain := if l.undo == 0 then c else undone c l.accept

/-- Committed tokens that a lane adds by its append. -/
def Lane.committed (l : Lane) : Nat := if bit l.aflags 0 then 0 else l.append

/-- Tokens that a lane's shadow gains. -/
def Lane.shadowGain (l : Lane) (c : Chain) : Nat := (l.undoChain c).n - c.n + l.committed

/-- The lane's undo or append would break R287 or R289. -/
def Lane.changeBad (l : Lane) (p : Pair) : Bool :=
  !(keptOf l.accept).all (· < p.c.tn) ||
  (l.op != 2 && l.append != 0 && appendBad (l.undoChain p.c) none l.args) ||
  (l.op != 2 && shadowFull p.sh (l.shadowGain p.c))

/-- What R297 finds at a lane: a failure, or its chain. -/
inductive LaneRead where
  | fails (f : TileOut)
  | bad
  | ok (p : Pair)

/-- One lane's record and chain, against the format of lane 0. -/
def checkLane (s : State) (d : Def) (dim : Nat) (fmt0 : Option Nat) (rec_ : List Byte) : LaneRead :=
  let l := laneOf rec_
  if !laneFieldsOk rec_ then .bad
  else match readPair s d l.chain false with
    | .fails (.fail f) => if f.status == cMalformed then .bad else .fails (.fail f)
    | .fails f => .fails f
    | .ok p =>
      if p.c.dim != dim || (match fmt0 with | some f => p.c.fmt != f | none => false) || l.changeBad p ||
          (l.op == 1 && (p.c.spare != 0 || p.c.tn != 0)) then .bad
      else .ok p

/-- RESULT of R297. -/
def laneFault (lane : Nat) : TileOut :=
  .fail { status := cMalformed, result := BitVec.ofNat 64 (lane % 65536 * 2 ^ 32), detail := 16 }

/-- Checks the lanes in ascending order; none when all are in order. -/
def checkLanes (s : State) (d : Def) (dim : Nat) : Nat → Option Nat → List (List Byte) → Option TileOut
  | _, _, [] => none
  | i, fmt0, r :: l =>
    match checkLane s d dim fmt0 r with
    | .fails f => some (attAccess i noEntry f)
    | .bad => some (laneFault i)
    | .ok p => checkLanes s d dim (i + 1) (some (fmt0.getD p.c.fmt)) l

/-- The lowest lane that shares its SEQ with an earlier lane that is not in an unbroken run with it, has another OP than its
run, or names the chain of an earlier lane (R297). -/
def seqFault : Nat → List Lane → List Lane → Option Nat
  | _, _, [] => none
  | i, before, l :: rest =>
    let prev := before.head?
    let run := match prev with | some x => x.seq == l.seq | none => false
    let opBad := match prev with | some x => x.seq == l.seq && x.op != l.op | none => false
    if before.any (fun x => x.chain == l.chain) || opBad || (!run && before.any (fun x => x.seq == l.seq)) then some i
    else seqFault (i + 1) (l :: before) rest

/-! ### Sequences and phase tiles (R298) -/

/-- Lanes with their indexes. -/
abbrev Lanes := List (Nat × Lane)

/-- Consecutive lanes of one SEQ. -/
def sequences : Lanes → List Lanes
  | [] => []
  | x :: l =>
    match sequences l with
    | [] => [[x]]
    | [] :: r => [x] :: r
    | (y :: ys) :: r => if x.2.seq == y.2.seq then (x :: y :: ys) :: r else [x] :: (y :: ys) :: r

/-- Packs whole sequences into tiles of at most 128 lanes (R298); a longer sequence is a tile of its own (log 45). -/
def packSeqs : List Lanes → Lanes → List Lanes
  | [], acc => if acc.isEmpty then [] else [acc]
  | q :: l, acc =>
    if acc.isEmpty then packSeqs l q
    else if acc.length + q.length ≤ 128 then packSeqs l (acc ++ q)
    else acc :: packSeqs l q

/-- Whether a lane takes part in a phase. -/
def inPhase (phase : Nat) (l : Lane) : Bool :=
  match phase with
  | 1 => l.op == 2
  | 2 => l.op == 1
  | _ => (l.op == 0 || l.op == 1) && l.status == 0

/-- Lanes of a phase that lie in a tile's span. -/
def phaseLanes (phase first count : Nat) (l : List Lane) : Lanes :=
  ((l.zipIdx.map (fun p => (p.2, p.1))).filter (fun p => first ≤ p.1 && p.1 < first + count && inPhase phase p.2))

def phaseTiles (phase : Nat) (l : List Lane) : List (TileKind × Nat × Nat) :=
  (packSeqs (sequences (phaseLanes phase 0 l.length l)) []).filterMap (fun t =>
    match t.head?, t.getLast? with
    | some a, some b => some (lanternTile (.phase phase a.1 (b.1 + 1 - a.1)))
    | _, _ => none)

/-! ### The start (R297) -/

def batchUses (p : List Byte) (lanes : List Lane) : List (Nat × Nat) :=
  let b := parseBatch p
  let a := batchAtt p (lanes.map (·.rowMeta))
  (b.lanes, b.count * 64) :: (b.lstatus, b.count * 8) :: (b.release, b.releaseCap * 8) :: attUses a [] ++
    lanes.flatMap (fun l => [(l.chain, 64), (l.newKv, if l.append == 0 then 0 else 1)])

def batchBegin (s : State) (d : Def) (p e : List Byte) : TileOut :=
  let b := parseBatch p
  let a := batchAtt p []
  if !batchDescOk s p e then laneFault (headless s)
  else match readsFail s d [(b.lanes, b.count * 64)] with
    | some f => attAccess (headless s) noEntry f
    | none =>
      let recs := (List.range b.count).map (fun i => peek s d (b.lanes + i * 64) 64)
      let lanes := recs.map laneOf
      match checkLanes s d a.dim 0 none recs with
      | some f => f
      | none => match seqFault 0 [] lanes with
        | some i => laneFault i
        | none =>
          if b.releaseCap < (lanes.filter (fun l => l.op == 2)).length then laneFault (headless s)
          else if (attPages a 0x10 d.grant).isNone then .fail (attFail cMalformed (headless s) noEntry false 16)
          else
            .ok [] (fun c => { c with
              lanes := lanes, tiles := number 0 (phaseTiles 1 lanes ++ phaseTiles 2 lanes ++ phaseTiles 3 lanes)
              uses := c.uses ++ batchUses p lanes }) (fun s => s)

/-! ### Phase ends (R298 to R300) -/

/-- What a phase tile has done so far. -/
structure BatchAcc where
  s : State
  lanes : List Lane
  carry : List Nat
  taken : Nat
  bad : Option TileOut

/-- A lane status entry (R300). -/
def laneStatus (l : Lane) (c : Chain) : List Byte :=
  [BitVec.ofNat 8 l.status, BitVec.ofNat 8 l.reason, BitVec.ofNat 8 c.epoch, 0] ++ leBytes 4 c.n

/-- Writes a lane's status entry. -/
def putStatus (id lstatus i : Nat) (l : Lane) (c : Chain) (s : State) : State :=
  writeVa id (lstatus + i * 8) (laneStatus l c) s

def BatchAcc.stop (a : BatchAcc) (f : TileOut) : BatchAcc := { a with bad := some (a.bad.getD f) }

/-- Sets a lane's outcome. -/
def BatchAcc.mark (a : BatchAcc) (i status reason : Nat) (attends : Bool) : BatchAcc :=
  { a with lanes := setNth a.lanes i (fun l => { l with status := status, reason := reason, attends := attends }) }

/-- The lane as it now stands. -/
def BatchAcc.lane (a : BatchAcc) (i : Nat) (l : Lane) : Lane := nth a.lanes i l

/-- A discard of every tentative token: leave and pool exhaustion. -/
def discardTent (id : Nat) (c new : Chain) (s : State) : State :=
  cancelReaders id c.va (epochMoved id c.va (writeChain id new s))

/-- A lane that leaves (R298 phase 1). -/
def leaveLane (id lstatus : Nat) (a : BatchAcc) (x : Nat × Lane) : BatchAcc :=
  match a.bad, getDef a.s id with
  | none, some d =>
    match readPair a.s d x.2.chain false with
    | .fails f => a.stop (attAccess x.1 noEntry f)
    | .ok p =>
      let u := undone p.c 0
      let new := { u with spare := 0 }
      match writesFail a.s d ((lstatus + x.1 * 8, 8) :: chainRanges new) with
      | some f => a.stop (attAccess x.1 noEntry f)
      | none =>
        { a with s := putStatus id lstatus x.1 x.2 new (discardTent id p.c new
                   ((p.access.join (Access.writing (chainRanges new))).charge id a.s))
                 carry := a.carry ++ (if u.spare == 0 then [] else [u.spare]) }
  | _, _ => a

/-- Adds `n` pages wanted to a list of rings. -/
def addWant (pool n : Nat) : List (Nat × Nat) → List (Nat × Nat)
  | [] => if n == 0 then [] else [(pool, n)]
  | (q, k) :: l => if q == pool then (q, k + n) :: l else (q, k) :: addWant pool n l

/-- What a sequence's rings hold for it: a failure, the rings that are short, or the pages of each ring in order. -/
inductive SeqTake where
  | fails (f : TileOut)
  | short (pools : List Nat)
  | ok (pages : List (Nat × List Nat))

def seqTake (s : State) (d : Def) : List (Nat × Nat) → SeqTake
  | [] => .ok []
  | (pool, n) :: l =>
    match takeCheck s d pool n, seqTake s d l with
    | .fails f, _ => .fails f
    | _, .fails f => .fails f
    | .short, .short ps => .short (pool :: ps)
    | .short, .ok _ => .short [pool]
    | .ok _, .short ps => .short ps
    | .ok g, .ok gs => .ok ((pool, g) :: gs)

/-- Takes `n` pages for one use from the pages of its ring. -/
def drawPages (pool n : Nat) : List (Nat × List Nat) → List Nat × List (Nat × List Nat)
  | [] => ([], [])
  | (q, g) :: l =>
    if q == pool then (g.take n, (q, g.drop n) :: l)
    else
      let r := drawPages pool n l
      (r.1, (q, g) :: r.2)

/-- HEAD and TAKEN of every ring that supplied pages. -/
def takeAll (id : Nat) (l : List (Nat × Nat)) (s : State) : State := l.foldl (fun s p => takeFrom id p.1 p.2 s) s

def shortAll (id : Nat) (l : List Nat) (s : State) : State := l.foldl (fun s p => countShort id p s) s

/-- The chains of a sequence's lanes, or the first failure. -/
def readSeq (s : State) (d : Def) : Lanes → Option TileOut × List (Nat × Lane × Pair)
  | [] => (none, [])
  | x :: l =>
    match readPair s d x.2.chain false with
    | .fails f => (some (attAccess x.1 noEntry f), [])
    | .ok p =>
      let r := readSeq s d l
      (r.1, (x.1, x.2, p) :: r.2)

/-- Ranges of the lane statuses of a sequence. -/
def statusRanges (lstatus : Nat) (l : List (Nat × Lane × Pair)) : List (Nat × Nat) :=
  l.map (fun x => (lstatus + x.1 * 8, 8))

/-- What the rings of a sequence read and write: their descriptors, and the counts of a take or of a refusal (R283). -/
def ringsAccess (want : List (Nat × Nat)) (t : SeqTake) : Access :=
  let used := want.filter (fun p => p.2 != 0 && p.1 != 0)
  { Access.none with
    reads := used.map (fun p => (p.1, 64))
    writes := match t with
      | .short pools => shortWrites pools
      | _ => used.flatMap (fun p => takeWrites p.1 p.2) }

/-- The first cause by which a sequence cannot take or write what it needs (R263). -/
def seqFail (s : State) (d : Def) (dim : Nat) (t : SeqTake) (acc : Access) : Option TileOut :=
  firstCause [match t with | .fails f => some f | _ => none, acc.fault s d dim]

/-- Gives each lane of a joining sequence its page (R298 phase 2). -/
def joinPages (id : Nat) : List (Nat × Lane × Pair) → List Nat → List (Nat × List Nat) → State → State
  | [], _, _, s => s
  | (_, _, p) :: l, carry, rings, s =>
    match carry with
    | g :: carry' => joinPages id l carry' rings (writeVa id p.c.va (objBytes { p.c with spare := g }) s)
    | [] =>
      let r := drawPages p.c.pool 1 rings
      joinPages id l [] r.2 (writeVa id p.c.va (objBytes { p.c with spare := r.1.headD 0 }) s)

/-- A sequence that joins (R299). -/
def joinSeq (id lstatus : Nat) (a : BatchAcc) (q : Lanes) : BatchAcc :=
  match a.bad, getDef a.s id with
  | none, some d =>
    match readSeq a.s d q with
    | (some f, _) => a.stop f
    | (none, l) =>
      let fromRing := l.drop a.carry.length
      let want := fromRing.foldl (fun w x => addWant x.2.2.c.pool 1 w) []
      let t := seqTake a.s d want
      let acc := (ringsAccess want t).join (Access.writing (statusRanges lstatus l ++ (match t with
        | .short _ => []
        | _ => l.map (fun x => (x.2.2.c.va, 64)))))
      let a0 := { a with s := acc.charge id a.s }
      match seqFail a.s d 64 t acc, t with
      | some f, _ => a.stop (attAccess ((q.head?.map (·.1)).getD 0) noEntry f)
      | none, .short pools =>
        l.foldl (fun a x =>
            let b := a.mark x.1 0x19 0x11 false
            { b with s := putStatus id lstatus x.1 (b.lane x.1 x.2.1) x.2.2.c b.s })
          { a0 with s := shortAll id pools a0.s }
      | none, .ok rings =>
        { a0 with s := joinPages id l a.carry rings (takeAll id want a0.s), carry := a.carry.drop l.length
                  taken := a.taken + fromRing.length }
      | none, .fails f => a.stop f
  | _, _ => a

/-! ### Phase 3 -/

/-- A lane that fails its epoch test (R285). -/
def laneStale (x : Lane) (c : Chain) : Bool := !bit x.aflags 3 && x.epoch != c.epoch

/-- Pages that a lane needs of its rings after undo: of its primary and of its shadow (R299). -/
def Lane.needs (l : Lane) (p : Pair) : List (Nat × Nat) :=
  [(p.c.pool, if l.append == 0 then 0 else ringPages (l.undoChain p.c) l.append),
   (match p.sh with | some y => (y.pool, ringPages y (l.shadowGain p.c)) | none => (0, 0))]

/-- A lane's chain after undo and append. -/
def Lane.newChain (l : Lane) (c : Chain) (ring : List Nat) : Chain :=
  if l.append == 0 then l.undoChain c else appended (l.undoChain c) l.args ring

def Lane.source (l : Lane) (c : Chain) : KvSrc :=
  { va := l.newKv, count := l.append, fmt := srcFormat c (bits l.aflags 2 1), dim := c.dim }

/-- What a lane's change reads and writes, given its pages. -/
def Lane.access (l : Lane) (p : Pair) (new : Chain) (ring ring2 : List Nat) : Access :=
  let c1 := l.undoChain p.c
  Access.sum [if l.undo == 0 then Access.none else (undoAccess p.c new l.accept).join (stayAccess p.c p.sh l.accept),
    if l.append == 0 then Access.none else rowsAccess c1 new (l.source p.c) (grown c1 l.append ring),
    shadowPart p.c new.n p.sh ring2]

/-- A lane's undo and append take effect at one effect point (R278, R298). -/
def Lane.change (l : Lane) (id : Nat) (p : Pair) (ring ring2 : List Nat) (s : State) : State :=
    let c1 := l.undoChain p.c
    let new := l.newChain p.c ring
    let s1 := if l.undo == 0 then s else undoRows id p.c l.accept s
    let s2 := writeList id new (if l.append == 0 then s1
      else writeRows id c1 new (l.source p.c) (clearPages id p.c.fmt (grown c1 l.append ring) s1))
    let s3 := match p.sh with
      | some y => if new.n == p.c.n then s2
        else followShadow id new y (shadowTo y new.n ring2) p.c.n new.n (grown y (new.n - y.n) ring2) s2
      | none => s2
    let s4 := writeObject id new s3
    if l.undo == 0 then s4 else cancelPair id p.c p.sh new.n (epochMoved id p.c.va s4)

/-- The same for a lane that changes its chain; one that only appends leaves its readers as they were (R245). -/
def Lane.apply (l : Lane) (id : Nat) (p : Pair) (ring ring2 : List Nat) (s : State) : State :=
  if l.undo == 0 && l.append == 0 then s
  else if l.undo == 0 then keepingReads id (l.change id p ring ring2) s
  else l.change id p ring ring2 s

/-- Runs the lanes of a sequence whose pages are at hand. -/
def runLanes (id : Nat) : List (Nat × Lane × Pair) → List (Nat × List Nat) → BatchAcc → BatchAcc
  | [], _, a => a
  | (i, l, p) :: rest, rings, a =>
    match a.bad, getDef a.s id with
    | none, some d =>
      let n1 := if l.append == 0 then 0 else ringPages (l.undoChain p.c) l.append
      let r1 := drawPages p.c.pool n1 rings
      let r2 := match p.sh with
        | some y => drawPages y.pool (ringPages y (l.shadowGain p.c)) r1.2
        | none => ([], r1.2)
      let new := l.newChain p.c r1.1
      let acc := l.access p new r1.1 r2.1
      match acc.fault a.s d p.c.dim with
      | some f => a.stop (attAccess i noEntry f)
      | none => runLanes id rest r2.2
          ({ a with s := l.apply id p r1.1 r2.1 ((p.access.join acc).charge id a.s) }.mark i 0 0 true)
    | _, _ => a

/-- The lanes of a sequence that pass their epoch test, and the pages that they want. -/
def liveLanes (l : List (Nat × Lane × Pair)) : List (Nat × Lane × Pair) := l.filter (fun x => !laneStale x.2.1 x.2.2.c)
def lanesWant (l : List (Nat × Lane × Pair)) : List (Nat × Nat) :=
  l.foldl (fun w x => (x.2.1.needs x.2.2).foldl (fun w p => addWant p.1 p.2 w) w) []

/-- What a running sequence reads and writes before its lanes' own changes: its rings, its statuses, and the chains whose
tentative tokens it discards when a ring is short. -/
def seqAccess (lstatus : Nat) (l live : List (Nat × Lane × Pair)) (want : List (Nat × Nat)) (t : SeqTake) : Access :=
  (ringsAccess want t).join (Access.writing (statusRanges lstatus l ++ (match t with
    | .short _ => live.flatMap (fun x => chainRanges (undone x.2.2.c 0))
    | _ => [])))

/-- A sequence that runs (R298 phase 3, R299). -/
def runSeq (id lstatus : Nat) (a : BatchAcc) (q : Lanes) : BatchAcc :=
  match a.bad, getDef a.s id with
  | none, some d =>
    match readSeq a.s d q with
    | (some f, _) => a.stop f
    | (none, l) =>
      let live := liveLanes l
      let want := lanesWant live
      let first := (q.head?.map (·.1)).getD 0
      let t := seqTake a.s d want
      let acc := seqAccess lstatus l live want t
      let a0 := { a with s := acc.charge id a.s }
      let a1 := (l.filter (fun x => laneStale x.2.1 x.2.2.c)).foldl (fun a x =>
        let b := a.mark x.1 0x18 0x01 false
        { b with s := putStatus id lstatus x.1 (b.lane x.1 x.2.1) x.2.2.c b.s }) a0
      match live.find? (fun x => x.2.1.changeBad x.2.2), seqFail a.s d 64 t acc, t with
      | some x, _, _ => a.stop (laneFault x.1)
      | none, some f, _ => a.stop (attAccess first noEntry f)
      | none, none, .fails f => a.stop f
      | none, none, .short pools =>
        live.foldl (fun a x =>
            let new := undone x.2.2.c 0
            let b := a.mark x.1 0x11 0 false
            { b with s := putStatus id lstatus x.1 (b.lane x.1 x.2.1) new (discardTent id x.2.2.c new b.s) })
          { a1 with s := shortAll id pools a1.s }
      | none, none, .ok rings =>
        runLanes id live rings { a1 with s := takeAll id want a1.s, taken := a1.taken + (want.map (·.2)).sum }
  | _, _ => a

/-! ### The end of a phase tile -/

/-- The work of a phase tile from a state. -/
def phaseWork (id : Nat) (c : Cmd) (phase first count : Nat) (s : State) : BatchAcc :=
  let b := parseBatch c.desc
  let l := phaseLanes phase first count c.lanes
  let a : BatchAcc := { s := s, lanes := c.lanes, carry := c.carry, taken := c.taken, bad := none }
  match phase with
  | 1 => l.foldl (leaveLane id b.lstatus) a
  | 2 => (sequences l).foldl (joinSeq id b.lstatus) a
  | _ => (sequences l).foldl (runSeq id b.lstatus) a

/-- The tile is the last of phases 1 and 2 (R298). -/
def lastCarry (c : Cmd) (idx phase : Nat) : Bool :=
  phase ≤ 2 && c.tiles.all (fun t => t.idx == idx || t.state == .ended || (match t.kind with
    | .phase k _ _ => decide (2 < k)
    | _ => true))

def phaseEnd (s : State) (id : Nat) (d : Def) (c : Cmd) (idx phase first count : Nat) : TileOut :=
  let b := parseBatch c.desc
  let a := phaseWork id c phase first count s
  let drop := if lastCarry c idx phase then a.carry else []
  match a.bad.orElse (fun _ => (writesFail s d [(b.release, drop.length * 8)]).map (attAccess (headless s) noEntry)) with
  | some f => f
  | none => .ok []
      (fun c => { c with lanes := a.lanes, carry := if lastCarry c idx phase then [] else a.carry, taken := a.taken })
      (fun s => writeVa id b.release (drop.flatMap (leBytes 8)) (phaseWork id c phase first count s).s)

/-! ### Phase 4 (R298, R302) -/

/-- The chain in the place of a lane that is not attended. -/
def Chain.absent : Chain :=
  { va := 2 ^ 64, fmt := 0, isShadow := false, dim := 0, n := 0, tn := 0, epoch := 0, cap := 0, list := 0, spare := 0
    shadow := 0, pool := 0, ents := [] }

/-- The shadow's committed slots and the primary's tentative ones (R302). -/
def shadowView (c sh : Chain) : Chain :=
  { c with ents := sh.ents ++ (c.ents.filter (fun e => c.n < e.first + e.count)).map (fun e =>
      if e.first < c.n then { e with first := c.n, count := e.first + e.count - c.n, skip := e.skip + (c.n - e.first) }
      else e) }

/-- The chain that a lane is attended over. -/
def laneView (c : Cmd) (i : Nat) : Chain :=
  let p := nth c.chains i Chain.absent
  let y := nth c.shadows i Chain.absent
  if c.switched && y.va != 2 ^ 64 then shadowView p y else p

/-- The snapshot of the attending lanes, primaries and shadows. -/
def batchSnap (s : State) (d : Def) (a : AttDesc) : Nat → List Lane → Option TileOut × List Chain × List Chain
  | _, [] => (none, [], [])
  | i, l :: rest =>
    let r := batchSnap s d a (i + 1) rest
    if !l.attends then (r.1, Chain.absent :: r.2.1, Chain.absent :: r.2.2)
    else match readPair s d l.chain false with
      | .fails f => (some (attAccess i noEntry f), [], [])
      | .ok p =>
        match readsFail s d [(l.rowMeta, a.rows * 16)] with
        | some f => (some (attAccess i noEntry f), [], [])
        | none =>
          if !snapOk a none p.c || !metasOk s d a i p.c.tn || (badQp d.grant p.c).isSome then
            (some (.fail (attFail cMalformed i ((badQp d.grant p.c).getD noEntry) false 16)), [], [])
          else (r.1, p.c :: r.2.1, (p.sh.getD Chain.absent) :: r.2.2)

/-- Attend tiles of one lane. -/
def laneTiles (a : AttDesc) (g : Grant) (c : Cmd) (i : Nat) : List (TileKind × Nat × Nat) :=
  let v := laneView c i
  let fmt := match v.ents.head? with | some e => e.fmt | none => v.fmt
  attTiles a ((attPages a fmt g).getD 1) [(i, v)]

/-- The index after a command's last tile. -/
def Cmd.nextIdx (c : Cmd) : Nat := c.tiles.foldl (fun n t => max n (t.idx + 1)) 0

/-- Opening tile, the attending lanes' tiles and the closing tile, numbered on from the command's tiles. -/
def batchPlan (g : Grant) (c : Cmd) : List Tile :=
  let a := batchAtt c.desc (c.lanes.map (·.rowMeta))
  number c.nextIdx (lanternTile .attendOpen ::
    (c.lanes.zipIdx.filter (fun p => p.1.attends)).flatMap (fun p => laneTiles a g c p.2) ++
    (if closes a then [lanternTile .attendClose] else []))

/-- Phase 4 begins: the snapshot and its tiles; or it begins again after a switch. -/
def batchAttend (s : State) (d : Def) (c : Cmd) : TileOut :=
  let a := batchAtt c.desc (c.lanes.map (·.rowMeta))
  if c.progress == 0 then
    match batchSnap s d a 0 c.lanes with
    | (some f, _, _) => f
    | (none, cs, ys) =>
      .ok [] (fun c =>
        let c1 := { c with chains := cs, shadows := ys, progress := if c.switched then 2 else 1 }
        { c1 with tiles := c1.tiles ++ batchPlan d.grant c1, uses := c1.uses ++ attUses a (cs ++ ys) }) (fun s => s)
  else .ok [] (fun c => { c with progress := 2, tiles := c.tiles ++ batchPlan d.grant c }) (fun s => s)

/-- Lanes whose last tile ends with a tile: those of a closing tile, or else of the last attend tile of a lane, or of the
opening tile where a lane has none (R300). -/
def lanesEnding (c : Cmd) (a : AttDesc) (t : Tile) : List Nat :=
  let attending := (c.lanes.zipIdx.filter (fun p => p.1.attends)).map (·.2)
  let open_ (i : Nat) : Bool := c.tiles.any (fun x => x.idx != t.idx && x.state != .ended && x.state != .dropped &&
    (match x.kind with | .attend h _ _ => h == i | _ => false))
  match t.kind with
  | .attendClose => attending
  | .attend h _ _ => if closes a || open_ h then [] else [h]
  | .attendOpen => if closes a then [] else attending.filter (fun i => !open_ i)
  | _ => []

/-- The status entries that fall due at a tile of phase 4. -/
def statusWrites (c : Cmd) (l : List Nat) : List (Nat × List Byte) :=
  l.filterMap (fun i => (c.lanes[i]?).map (fun x =>
    ((parseBatch c.desc).lstatus + i * 8, laneStatus x (nth c.chains i Chain.absent))))

/-! ### Completion (R301) -/

def lanesWith (c : Cmd) (st : Nat) : Nat := (c.lanes.filter (fun l => l.status == st)).length

def batchStatus (c : Cmd) : Nat :=
  if c.switched then cOkFallback
  else if lanesWith c 0x11 != 0 then cPoolExhausted
  else if lanesWith c 0x19 != 0 then cJoinFailed
  else cOk

def batchResult (c : Cmd) : Word :=
  BitVec.ofNat 64 ((c.lanes.filter (·.attends)).length + (lanesWith c 0x11 + lanesWith c 0x19) * 65536 +
    ((c.lanes.findIdx? (fun l => l.status == 0x11 || l.status == 0x19)).getD 65535) * 2 ^ 32 + min c.taken 65535 * 2 ^ 48)

def batchDetail (c : Cmd) : Nat := lanesWith c 0x19 + lanesWith c 0x11 * 65536

end Sys2Proof.Machine
end

