-- ==== Sys2Proof/Machine/Gemm.lean ====
section
/-! DEFINITION. GEMM: its descriptor, its tile form, its tiles and its numbers (R211 to R222). -/

namespace Sys2Proof.Machine

/-! ### The descriptor (R213 to R217) -/

/-- Reduction extent of a split. -/
def GemmDesc.kt (g : GemmDesc) : Nat := g.k / g.split
def GemmDesc.rate (g : GemmDesc) : Nat := macRate g.aFmt g.bFmt
def GemmDesc.hasC (g : GemmDesc) : Bool := !(f32v g.beta).abs.isZero

/-- Bytes per element in units of 1 ÷ 32, an MX scale among them (R222). -/
def bytes32 : Nat → Nat
  | 0x00 => 128
  | 0x01 => 64
  | 0x02 => 64
  | 0x05 => 25
  | 0x06 => 25
  | 0x07 => 17
  | _ => 32

/-- Drum footprint of a tile form (R222). -/
def GemmDesc.footprint (g : GemmDesc) (mt nt : Nat) : Nat :=
  16 * (mt * bytes32 g.aFmt + nt * bytes32 g.bFmt) + mt * nt * 4 + (if g.hasC then mt * nt * bytes32 g.cFmt / 32 else 0)

/-- A descriptor fault (R217). -/
def GemmDesc.descBad (g : GemmDesc) (p : List Byte) (gr : Grant) : Bool :=
  bits (fld p 96 1) 7 2 != 0 || !zeros p 97 31 ||
  !(1 ≤ g.aFmt && g.aFmt ≤ 8) || !(1 ≤ g.bFmt && g.bFmt ≤ 8) || 4 < g.cFmt || 4 < g.dFmt ||
  !(1 ≤ g.m && g.m ≤ 1048576) || !(1 ≤ g.n && g.n ≤ 1048576) || !(64 ≤ g.k && g.k ≤ 16777216) ||
  g.lda % 16 != 0 || g.ldb % 16 != 0 || g.ldc % 16 != 0 || g.ldd % 16 != 0 ||
  (!isMx g.aFmt && g.aScale != 0) || (!isMx g.bFmt && g.bScale != 0) ||
  ((g.aFmt == 0x08) != (g.bFmt == 0x08)) ||
  (isMx g.aFmt && (g.aT || g.k % 32 != 0)) || (isMx g.bFmt && (!g.bT || g.k % 32 != 0)) ||
  ((g.split == 1) != (g.work == 0)) || largestDrum gr < g.footprint 64 64

/-- A SPLIT_K fault (R217). -/
def GemmDesc.splitBad (g : GemmDesc) : Bool :=
  g.k % g.split != 0 || g.kt % 64 != 0 || 79360 * g.rate / 4096 < g.kt

/-- The descriptor's faults: 16 before 24, with WORK and the drum among the 16 (R217, log 92). -/
def GemmDesc.check (g : GemmDesc) (p : List Byte) (gr : Grant) : Option Fail :=
  if g.descBad p gr then some (malformed 16) else if g.splitBad then some (malformed 24) else none

/-! ### Tiles (R219, R221) -/

/-- The tile form of the whole command (R221). -/
def GemmDesc.form (g : GemmDesc) (gr : Grant) : Nat × Nat :=
  ([(128, 128), (128, 64), (64, 128)].find? (fun f =>
    f.1 * f.2 * g.kt ≤ 32000 * g.rate && g.footprint f.1 f.2 ≤ smallestDrum gr)).getD (64, 64)

/-- Engine clocks of a tile, with the largest overhead of R212 (log 41). -/
def GemmDesc.clocks (g : GemmDesc) (mt nt : Nat) : Nat := mt * nt * g.kt / g.rate + 640

/-- Output blocks in row-major order: first row and first column. -/
def GemmDesc.blocks (g : GemmDesc) (mt nt : Nat) : List (Nat × Nat) :=
  (List.range ((g.m + mt - 1) / mt)).flatMap (fun i =>
    (List.range ((g.n + nt - 1) / nt)).map (fun j => (i * mt, j * nt)))

/-- The command's tiles: split tiles, then combine tiles where K is split. A combine tile holds 128 KiB (log 41). -/
def gemmTiles (g : GemmDesc) (gr : Grant) : List Tile :=
  let f := g.form gr
  let bl := g.blocks f.1 f.2
  number 0
    (bl.flatMap (fun b => (List.range g.split).map (fun p =>
        (TileKind.gemmSplit p b.1 b.2 f.1 f.2, g.footprint f.1 f.2, g.clocks f.1 f.2))) ++
     (if g.split == 1 then [] else bl.map (fun b => (TileKind.gemmCombine b.1 b.2 f.1 f.2, 131072, 640))))

/-! ### Numbers (R216, R218) -/

/-- Element (m, k) of A. -/
def GemmDesc.aAt (g : GemmDesc) (s : State) (d : Def) (m k : Nat) : FV :=
  let v := if g.aT then elemAt s d g.aFmt (g.a + k * g.lda) m else elemAt s d g.aFmt (g.a + m * g.lda) k
  if isMx g.aFmt then v.mul (scaleValue (peekNat s d (g.aScale + m * (g.k / 32) + k / 32) 1)) else v

/-- Element (k, n) of B. -/
def GemmDesc.bAt (g : GemmDesc) (s : State) (d : Def) (k n : Nat) : FV :=
  let v := if g.bT then elemAt s d g.bFmt (g.b + n * g.ldb) k else elemAt s d g.bFmt (g.b + k * g.ldb) n
  if isMx g.bFmt then v.mul (scaleValue (peekNat s d (g.bScale + n * (g.k / 32) + k / 32) 1)) else v

/-- p of a split for one element of D. -/
def GemmDesc.part (g : GemmDesc) (s : State) (d : Def) (p m n : Nat) : F32 :=
  mac ((List.range g.kt).map (fun i => (g.aAt s d m (p * g.kt + i), g.bAt s d (p * g.kt + i) n)))

/-- The element of D from the sum of its parts (R218). -/
def GemmDesc.out (g : GemmDesc) (s : State) (d : Def) (m n : Nat) (sum : F32) : Nat :=
  let r := fMul g.alpha sum
  let r2 := if g.hasC then fAdd r (fMul g.beta (toF32 (elemAt s d g.cFmt (g.c + m * g.ldc) n))) else r
  elemCode g.dFmt (f32v r2)

/-- Address of a p value in WORK (R219). -/
def GemmDesc.workAt (g : GemmDesc) (p m n : Nat) : Nat := g.work + ((p * g.m + m) * g.n + n) * 4

/-- Rows and columns of a block that lie inside D. -/
def GemmDesc.rows (g : GemmDesc) (row mt : Nat) : List Nat := (List.range (min mt (g.m - row))).map (· + row)
def GemmDesc.cols (g : GemmDesc) (col nt : Nat) : List Nat := (List.range (min nt (g.n - col))).map (· + col)

/-- Ranges that a split tile reads of A and B. -/
def GemmDesc.operandReads (g : GemmDesc) (p row col mt nt : Nat) : List (Nat × Nat) :=
  let k0 := p * g.kt
  let wa := fmtBits g.aFmt
  let wb := fmtBits g.bFmt
  let ms := g.rows row mt
  let ns := g.cols col nt
  let ks := (List.range g.kt).map (· + k0)
  (if g.aT then ks.map (fun k => (g.a + k * g.lda + row * wa / 8, ms.length * wa / 8))
    else ms.map (fun m => (g.a + m * g.lda + k0 * wa / 8, g.kt * wa / 8))) ++
  (if g.bT then ns.map (fun n => (g.b + n * g.ldb + k0 * wb / 8, g.kt * wb / 8))
    else ks.map (fun k => (g.b + k * g.ldb + col * wb / 8, ns.length * wb / 8))) ++
  (if isMx g.aFmt then ms.map (fun m => (g.aScale + m * (g.k / 32) + k0 / 32, g.kt / 32)) else []) ++
  (if isMx g.bFmt then ns.map (fun n => (g.bScale + n * (g.k / 32) + k0 / 32, g.kt / 32)) else [])

/-- Ranges of C and D that a block covers. -/
def GemmDesc.cReads (g : GemmDesc) (row col mt nt : Nat) : List (Nat × Nat) :=
  if g.hasC then (g.rows row mt).map (fun m =>
    (g.c + m * g.ldc + col * fmtBits g.cFmt / 8, (g.cols col nt).length * fmtBits g.cFmt / 8)) else []
def GemmDesc.dWrites (g : GemmDesc) (row col mt nt : Nat) : List (Nat × Nat) :=
  (g.rows row mt).map (fun m =>
    (g.d + m * g.ldd + col * fmtBits g.dFmt / 8, (g.cols col nt).length * fmtBits g.dFmt / 8))
def GemmDesc.workRanges (g : GemmDesc) (p row col mt nt : Nat) : List (Nat × Nat) :=
  (g.rows row mt).map (fun m => (g.workAt p m col, (g.cols col nt).length * 4))

/-- Extents of the arrays (R220). -/
def extent (addr rows ld rowBits : Nat) : Nat × Nat := (addr, (rows - 1) * ld + (rowBits + 7) / 8)
def GemmDesc.aExt (g : GemmDesc) : Nat × Nat :=
  if g.aT then extent g.a g.k g.lda (g.m * fmtBits g.aFmt) else extent g.a g.m g.lda (g.k * fmtBits g.aFmt)
def GemmDesc.bExt (g : GemmDesc) : Nat × Nat :=
  if g.bT then extent g.b g.n g.ldb (g.k * fmtBits g.bFmt) else extent g.b g.k g.ldb (g.n * fmtBits g.bFmt)
def GemmDesc.cExt (g : GemmDesc) : Nat × Nat := if g.hasC then extent g.c g.m g.ldc (g.n * fmtBits g.cFmt) else (g.c, 0)
def GemmDesc.dExt (g : GemmDesc) : Nat × Nat := extent g.d g.m g.ldd (g.n * fmtBits g.dFmt)

/-- The rows of an array as they lie in memory: address, count, stride and bytes of each. -/
structure Strided where
  base : Nat
  rows : Nat
  ld : Nat
  len : Nat
  deriving DecidableEq, Repr

/-- A row of the array holds a byte of `[lo, hi)`. -/
def Strided.meets (x : Strided) (lo hi : Nat) : Bool :=
  let j := if lo < x.base + x.len then 0 else if x.ld == 0 then x.rows else (lo - x.base - x.len) / x.ld + 1
  0 < x.len && lo < hi && j < x.rows && x.base + j * x.ld < hi

/-- Two arrays share a byte. -/
def Strided.overlaps (x y : Strided) : Bool :=
  (List.range x.rows).any (fun i => y.meets (x.base + i * x.ld) (x.base + i * x.ld + x.len))

def strided (addr rows ld rowBits : Nat) : Strided := { base := addr, rows := rows, ld := ld, len := (rowBits + 7) / 8 }
def GemmDesc.aRows (g : GemmDesc) : Strided :=
  if g.aT then strided g.a g.k g.lda (g.m * fmtBits g.aFmt) else strided g.a g.m g.lda (g.k * fmtBits g.aFmt)
def GemmDesc.bRows (g : GemmDesc) : Strided :=
  if g.bT then strided g.b g.n g.ldb (g.k * fmtBits g.bFmt) else strided g.b g.k g.ldb (g.n * fmtBits g.bFmt)
def GemmDesc.cRows (g : GemmDesc) : Strided := strided g.c (if g.hasC then g.m else 0) g.ldc (g.n * fmtBits g.cFmt)
def GemmDesc.dRows (g : GemmDesc) : Strided := strided g.d g.m g.ldd (g.n * fmtBits g.dFmt)
def GemmDesc.workRows (g : GemmDesc) : Strided := { base := g.work, rows := 1, ld := 0, len := g.workExt.2 }

/-- D overlaps another array in a way that leaves its values undefined (R220). -/
def GemmDesc.clash (g : GemmDesc) : Bool :=
  g.dRows.overlaps g.aRows || g.dRows.overlaps g.bRows || g.dRows.overlaps g.workRows ||
  (g.dRows.overlaps g.cRows && !(g.c == g.d && g.ldc == g.ldd && g.cFmt == g.dFmt))

/-- Writes the rows of a block of D, or leaves undefined values there (R220). -/
def GemmDesc.store (g : GemmDesc) (id : Nat) (row col mt nt : Nat) (val : Nat → Nat → Nat) : TileOut :=
  if g.clash then .ok [] id' (scramble id (g.dWrites row col mt nt))
  else .ok ((g.rows row mt).map (fun m => (g.d + m * g.ldd + col * fmtBits g.dFmt / 8,
    packCodes (fmtBits g.dFmt) ((g.cols col nt).map (fun n => val m n))))) id' id'
where id' {α : Type} (x : α) : α := x

/-- The end of a split tile (R218, R219). -/
def gemmSplitEnd (s : State) (id : Nat) (d : Def) (g : GemmDesc) (p row col mt nt : Nat) : TileOut :=
  let reads := g.operandReads p row col mt nt
  if g.split == 1 then
    match accessFail s d (reads ++ g.cReads row col mt nt) (g.dWrites row col mt nt) with
    | some f => f
    | none => g.store id row col mt nt (fun m n => g.out s d m n (g.part s d 0 m n))
  else
    match accessFail s d reads (g.workRanges p row col mt nt) with
    | some f => f
    | none => .ok ((g.rows row mt).map (fun m =>
        (g.workAt p m col, (g.cols col nt).flatMap (fun n => leBytes 4 (g.part s d p m n).toNat)))) (fun c => c) (fun s => s)

/-- The end of a combine tile (R218, R219). -/
def gemmCombineEnd (s : State) (id : Nat) (d : Def) (g : GemmDesc) (row col mt nt : Nat) : TileOut :=
  let reads := (List.range g.split).flatMap (fun p => g.workRanges p row col mt nt) ++ g.cReads row col mt nt
  match accessFail s d reads (g.dWrites row col mt nt) with
  | some f => f
  | none => g.store id row col mt nt (fun m n =>
      let p (i : Nat) : F32 := BitVec.ofNat 32 (peekNat s d (g.workAt i m n) 4)
      g.out s d m n (((List.range (g.split - 1)).map (· + 1)).foldl (fun acc i => fAdd acc (p i)) (p 0)))

/-- Ranges that the tile of the command reads and writes, for the charges of R98. -/
def gemmReads (g : GemmDesc) (k : TileKind) : List (Nat × Nat) :=
  match k with
  | .gemmSplit p r c mt nt => g.operandReads p r c mt nt ++ (if g.split == 1 then g.cReads r c mt nt else [])
  | .gemmCombine r c mt nt => (List.range g.split).flatMap (fun p => g.workRanges p r c mt nt) ++ g.cReads r c mt nt
  | _ => []
def gemmWrites (g : GemmDesc) (k : TileKind) : List (Nat × Nat) :=
  match k with
  | .gemmSplit p r c mt nt => if g.split == 1 then g.dWrites r c mt nt else g.workRanges p r c mt nt
  | .gemmCombine r c mt nt => g.dWrites r c mt nt
  | _ => []

/-- Arrays that the command refers to (R156). -/
def gemmUses (g : GemmDesc) : List (Nat × Nat) :=
  [g.aExt, g.bExt, g.cExt, g.dExt, g.workExt, (g.aScale, if isMx g.aFmt then g.m * (g.k / 32) else 0),
   (g.bScale, if isMx g.bFmt then g.n * (g.k / 32) else 0)]

end Sys2Proof.Machine
end

