-- ==== Sys2Proof/Machine/Reduce.lean ====
section
/-! DEFINITION. REDUCE and CONVERT: descriptors, chunks, readiness, tiles, numbers and progress (R335 to R349). -/

namespace Sys2Proof.Machine

/-! ### Descriptors (R336, R337, R348) -/

def Xform.chunks (x : Xform) : Nat := (x.units + x.chunk - 1) / x.chunk

/-! ### Checks (R339, R344, R349) -/

def vecFmtOk (f : Nat) : Bool := f ≤ 8

/-- The scale address is non-zero for an MX vector and zero for any other. -/
def scaleAddrOk (f a : Nat) : Bool := if isMx f then a != 0 else a == 0

/-- The readiness fields of an input record (R337). -/
def readyOk (word base : Nat) (fences : Nat) : Bool :=
  bits word 31 19 == 0 && (if bit word 18 then decide (bits word 17 0 < fences) else word == 0 && base == 0)

def chunkOk (chunk : Nat) : Bool := chunk % 1024 == 0 && 1024 ≤ chunk && chunk ≤ 67108864

def limitFieldOk (v : Nat) : Bool := v == 0 || (100 ≤ v && v ≤ 10000000)

/-- A PROGRESS word: its index is below FENCES, or zero where EN is 0 (R336, R344). -/
def progOk (word fences : Nat) : Bool :=
  bits word 31 19 == 0 && (decide (bits word 17 0 < fences) || word == 0)

/-- The first input record that breaks R337 or R344. -/
def badInput (p : List Byte) (fences : Nat) : Option Nat :=
  (reduceRecs p).findIdx? (fun r => !(vecFmtOk (fld r 28 1) && scaleAddrOk (fld r 28 1) (fld r 8 8) && zeros r 29 3 &&
    readyOk (fld r 24 4) (fld r 16 8) fences && (!isMx (fld r 28 1) || fld p 32 4 % 32 == 0)))

def reduceFieldsOk (p : List Byte) (fences : Nat) : Bool :=
  let x := parseReduce p
  fld p 0 8 % 64 == 0 && 1 ≤ x.units && chunkOk x.chunk && 2 ≤ fld p 40 1 && fld p 40 1 ≤ 64 && x.mode ≤ 2 &&
  vecFmtOk x.outFmt && scaleAddrOk x.outFmt x.outScale && (!isMx x.outFmt || x.units % 32 == 0) && fld p 43 1 < 4 &&
  (if x.scaled then (f32v x.scale).isFinite else x.scale == 0) && progOk (fld p 48 4) fences &&
  limitFieldOk (fld p 52 4) && zeros p 56 8 && x.chunks ≤ 1048576

/-- The pair of formats is one that R349 lists. -/
def pairOk (x : Xform) (src : Nat) : Bool :=
  if x.page then (src == 0x10 && x.outFmt ≤ 3) || (x.outFmt == 0x10 && src ≤ 3)
  else vecFmtOk src && vecFmtOk x.outFmt && ((!isMx src && !isMx x.outFmt) || x.units % 32 == 0)

def convertFieldsOk (p : List Byte) (fences : Nat) : Bool :=
  let x := parseConvert p
  let src := fld p 56 1
  fld p 58 1 ≤ 1 && 1 ≤ x.units && (if x.page then x.units ≤ 1048576 && 1 ≤ x.chunk && x.chunk ≤ 64 && dimOk x.dim
    else chunkOk x.chunk && x.dim == 0) && pairOk x src && scaleAddrOk src (fld p 16 8) && scaleAddrOk x.outFmt x.outScale &&
  zeros p 59 1 && zeros p 62 2 && readyOk (fld p 64 4) (fld p 32 8) fences && progOk (fld p 68 4) fences &&
  limitFieldOk (fld p 72 4) && zeros p 76 52 && x.chunks ≤ 1048576

/-! ### Results (R346) -/

def noInput : Nat := 0xFFFF
def xResult (ended input : Nat) : Word := BitVec.ofNat 64 (ended + input * 2 ^ 32)
def xFail (st ended input detail : Nat) : Fail := { status := st, result := xResult ended input, detail := detail }

/-- A failed access of an input takes the result of R346. -/
def xAccess (ended input : Nat) (f : TileOut) : TileOut :=
  match f with
  | .denied x va => .denied { x with result := xResult ended input } va
  | .fail x => .fail { x with result := xResult ended input }
  | .ok w u t => .ok w u t

/-! ### Tiles (R343, R349) -/

/-- Engine clocks of a tile over `n` elements, or of one page. -/
def Xform.clocks (x : Xform) (n : Nat) : Nat :=
  if x.page then 1408 else n * x.inputs.length / 128 + 640

/-- Drum footprint of a tile. A page's is taken as that of a lantern tile (log 46). -/
def Xform.drum (x : Xform) (n : Nat) : Nat :=
  if x.page then 131072 else (n * ((x.inputs.map (fun i => bytes32 i.fmt)).sum + 128) + 31) / 32

def Xform.fits (x : Xform) (g : Grant) (n : Nat) : Bool := x.clocks n ≤ 32000 && x.drum n ≤ smallestDrum g

/-- The tile size for a chunk of `n` elements: the fewest equal tiles that fit, each a multiple of 1,024 elements, or, in the
last chunk, of 32 for MX vectors; a last tile takes what is left where the chunk does not divide (R343, log 46). -/
def Xform.tileSize (x : Xform) (g : Grant) (n : Nat) (last : Bool) : Nat :=
  let step := if !last then 1024 else if isMx x.outFmt || x.inputs.any (fun i => isMx i.fmt) then 32 else 1
  let size (t : Nat) : Nat := ((n + t - 1) / t + step - 1) / step * step
  match ((List.range ((n + 1023) / 1024)).map (· + 1)).find? (fun t => (last || n % (t * 1024) == 0) && x.fits g (size t)) with
  | some t => size t
  | none => 1024

/-- Cuts `[first, first + n)` into pieces of `size`. -/
def cutSpan (first size : Nat) : Nat → List (Nat × Nat)
  | n => (List.range ((n + size - 1) / size)).map (fun i => (first + i * size, min size (n - i * size)))

/-- Spans of one chunk's tiles. -/
def Xform.chunkSpans (x : Xform) (full last : Nat) (k : Nat) : List (Nat × Nat) :=
  let first := k * x.chunk
  let n := min x.chunk (x.units - first)
  if x.page then cutSpan first 1 n
  else cutSpan first (if k + 1 == x.chunks then last else full) n

def Xform.tiles (x : Xform) (g : Grant) : List Tile :=
  let full := x.tileSize g x.chunk false
  let last := x.tileSize g (x.units - (x.chunks - 1) * x.chunk) true
  number 0 (((List.range x.chunks).flatMap (x.chunkSpans full last)).map (fun t =>
    ((if x.conv then TileKind.convert t.1 t.2 else TileKind.reduce t.1 t.2), x.drum t.2, x.clocks t.2)))

/-- The chunk that a tile covers. -/
def Xform.chunkOf (x : Xform) (t : Tile) : Nat :=
  match t.kind with
  | .reduce first _ => first / x.chunk
  | .convert first _ => first / x.chunk
  | _ => 0

/-! ### Arrays -/

/-- Everything that the command reads or writes (R156, R347). -/
def Xform.uses (x : Xform) : List (Nat × Nat) :=
  x.inputs.flatMap (fun i => x.inRanges i 0 x.units) ++ x.outRanges 0 x.units

/-- Two lists of ranges share a byte. -/
def listsMeet (a b : List (Nat × Nat)) : Bool := a.any (fun o => b.any (rangesMeet o))

/-- OUT coincides exactly with an input of a REDUCE: its elements, and its scales where the scale arrays meet (R342). -/
def Xform.coincides (x : Xform) (i : XInput) : Bool :=
  !x.conv && i.addr == x.out && i.fmt == x.outFmt &&
  (i.scale == x.outScale || !listsMeet (x.outRanges 0 x.units) ((x.inRanges i 0 x.units).drop 1) &&
    !listsMeet ((x.outRanges 0 x.units).drop 1) (x.inRanges i 0 x.units))

/-- OUT overlaps an input in a way that leaves undefined values in it (R342, R349). -/
def Xform.clash (x : Xform) : Bool :=
  let outs := x.outRanges 0 x.units
  (match outs with | [a, b] => !x.page && rangesMeet a b | _ => false) ||
  x.inputs.any (fun i => listsMeet outs (x.inRanges i 0 x.units) && !x.coincides i) ||
  1 < (x.inputs.filter x.coincides).length

/-! ### The start (R344) -/

/-- Address and length of the input records (R336); none for a descriptor out of range. -/
def reduceList (p : List Byte) : Nat × Nat := (fld p 0 8, if fld p 40 1 ≤ 64 then fld p 40 1 * 32 else 0)

def xformBegin (d : Def) (e p : List Byte) : TileOut :=
  let x := parseXform e p
  let fieldsOk := if x.conv then convertFieldsOk p d.grant.fences else reduceFieldsOk p d.grant.fences
  if !fieldsOk then .fail (xFail cMalformed 0 noInput 16)
  else match (if x.conv then none else badInput p d.grant.fences) with
    | some i => .fail (xFail cMalformed 0 i 16)
    | none =>
      if !x.page && !x.fits d.grant 1024 then .fail (xFail cMalformed 0 noInput 16)
      else .ok [] (fun c => { c with tiles := x.tiles d.grant, uses := c.uses ++ x.uses }) (fun s => s)

/-! ### Readiness (R338, R345) -/

/-- The input's fence has not reached what a chunk needs. -/
def XInput.blocks (i : XInput) (d : Def) (k : Nat) : Bool :=
  i.arrival && !reaches (getFence d i.fence).value (BitVec.ofNat 64 (i.base + k + 1))

/-- The lowest input that blocks a chunk. -/
def Xform.blocker (x : Xform) (d : Def) (k : Nat) : Option Nat := x.inputs.findIdx? (fun i => i.blocks d k)

/-- The lowest chunk that is not ready. -/
def Xform.waitsFor (x : Xform) (ready : List Nat) : Option Nat := (List.range x.chunks).find? (fun k => !ready.contains k)

/-- A fence that is abandoned while a chunk still needs a value it has not reached (R345). -/
def Xform.abandoned (x : Xform) (d : Def) (ready : List Nat) : Option Nat :=
  (List.range x.chunks).findSome? (fun k =>
    if ready.contains k then none
    else (x.inputs.find? (fun i => i.blocks d k && (getFence d i.fence).abandoned)).map (fun i => i.fence))

def isXform (c : Cmd) : Bool := eOp c.entry == 0x20 || eOp c.entry == 0x21

/-- The chunks of an admitted command that are ready now, in the order in which they became so. -/
def Cmd.readyNow (c : Cmd) (d : Def) : List Nat :=
  let x := parseXform c.entry c.desc
  c.ready ++ (List.range x.chunks).filter (fun k => !c.ready.contains k && (x.blocker d k).isNone)

/-- How an abandoned fence fails a command that still needs it (R345). -/
def Cmd.orphaned (c : Cmd) (d : Def) (ready : List Nat) : Option Fail :=
  ((parseXform c.entry c.desc).abandoned d ready).map (fun f =>
    { status := cAbandoned, result := xResult c.folds 0, detail := f })

/-- A command whose chunks wait for arrivals: one that has begun, or one admitted with a descriptor in order. -/
def waitsArrivals (d : Def) (c : Cmd) : Bool :=
  isXform c && c.failed.isNone && (c.began || (match xformBegin d c.entry c.desc with | .ok _ _ _ => true | _ => false))

/-- A command with the chunks that are ready now; its arrival timer starts again where one has become so (R345). -/
def Cmd.withReady (c : Cmd) (d : Def) (t : Nat) : Cmd :=
  { c with ready := c.readyNow d, armedAt := if c.readyNow d == c.ready then c.armedAt else t }

/-- Chunks that become ready join the list of ready chunks; a fence abandoned too early fails the command, the executing one
or the one admitted behind it. -/
def refreshReady (id ring : Nat) (s : State) : State :=
  match getDef s id, getRing s id ring with
  | some d, some r =>
    if d.state == .running then
      let s1 := setRing id ring (fun r => { r with nxt := r.nxt.map (fun c =>
        if waitsArrivals d c then { c.withReady d (now s) with failed := c.orphaned d (c.readyNow d) } else c) }) s
      match r.cur with
      | some c =>
        if waitsArrivals d c then
          let s2 := setCur id ring (fun c => c.withReady d (now s)) s1
          match c.orphaned d (c.readyNow d) with
          | some f => failCur id ring f s2
          | none => s2
        else s1
      | none => s1
    else s
  | _, _ => s

/-! ### Numbers (R340, R341, R349) -/

/-- An element widened to FP32, with its MX scale; a product of 2^128 or above is an Infinity (R205, log 92). -/
def XInput.elem (i : XInput) (s : State) (d : Def) (k : Nat) : FV :=
  let v := elemAt s d i.fmt i.addr k
  widen (if isMx i.fmt then v.mul (scaleValue (peekNat s d (i.scale + k / 32) 1)) else v)

def Xform.fold (x : Xform) (l : List F32) : F32 :=
  match l with
  | [] => fZero
  | a :: l => l.foldl (fun acc v => if x.mode == 0 then fAdd acc v else if x.mode == 1 then fMax acc v else fMin acc v) a

/-- One element of the result, before it is converted: CONVERT only widens it (R349). -/
def Xform.elem (x : Xform) (s : State) (d : Def) (order : List Nat) (k : Nat) : FV :=
  match x.conv, x.inputs with
  | true, i :: _ => i.elem s d k
  | _, _ =>
    let perm := if x.ordered then List.range x.inputs.length else arrivalOrder x.inputs.length order
    let acc := x.fold (perm.filterMap (fun j => (x.inputs[j]?).map (fun i => toF32 (i.elem s d k))))
    f32v (if x.scaled then fMul x.scale acc else acc)

/-- The bytes of `[first, first + n)` elements in a vector format, and of their scales. -/
def vecBytes (fmt out scale first n : Nat) (val : Nat → FV) : List (Nat × List Byte) :=
  let l := (List.range n).map (fun i => val (first + i))
  let at_ := out + first * fmtBits fmt / 8
  if isMx fmt then
    let blocks := (List.range (n / 32)).map (fun b => mxBlock fmt ((l.drop (b * 32)).take 32))
    [(at_, packCodes (fmtBits fmt) (blocks.flatMap (·.2))), (scale + first / 32, blocks.flatMap (fun b => leBytes 1 b.1))]
  else [(at_, packCodes (fmtBits fmt) (l.map (elemCode fmt)))]

/-- A KV-4o page as a dense one (R349). -/
def densePage (fmt dim : Nat) (p : List Byte) : List Byte :=
  packCodes (fmtBits fmt) ([false, true].flatMap (fun v =>
    (List.range (kvTokens dim)).flatMap (fun t => (List.range dim).map (fun ch =>
      elemCode fmt (f32v (toF32 (kvElem p dim t ch v)))))))

/-- A dense page as a KV-4o one (R197, R349). -/
def quantPage (fmt dim : Nat) (p : List Byte) : List Byte :=
  let at_ (t ch : Nat) (v : Bool) : FV :=
    elemValue fmt (packedCode p (fmtBits fmt) ((if v then kvTokens dim + t else t) * dim + ch))
  requantPage dim 0 (kvTokens dim / 16 - 1) (fun t ch v => f32v (toF32 (at_ t ch v))) (List.replicate 65536 0)

/-! ### Tile ends -/

/-- What a tile writes. -/
def Xform.writes (x : Xform) (s : State) (d : Def) (order : List Nat) (first n : Nat) : List (Nat × List Byte) :=
  match x.page, x.inputs with
  | true, i :: _ =>
    (List.range n).map (fun k =>
      let src := pageRange i.fmt i.addr x.dim (first + k)
      let p := peek s d src.1 src.2
      ((pageRange x.outFmt x.out x.dim (first + k)).1,
        if i.fmt == 0x10 then densePage x.outFmt x.dim p else quantPage i.fmt x.dim p))
  | _, _ => vecBytes x.outFmt x.out x.outScale first n (x.elem s d order)

/-- A source page of KV-4o that can be read and is invalid (R196). -/
def Xform.badPage (x : Xform) (s : State) (d : Def) (first n : Nat) : Bool :=
  x.page && x.inputs.any (fun i => i.fmt == 0x10 && (List.range n).any (fun k =>
    (readsFail s d [(i.addr + (first + k) * 65536, 65536)]).isNone &&
    !kvPageOk (peek s d (i.addr + (first + k) * 65536) 65536) x.dim))

/-- Why a tile fails, with the input concerned, in the order of R346. -/
def Xform.fault (x : Xform) (s : State) (d : Def) (ended first n : Nat) : Option TileOut :=
  firstCause ((if x.badPage s d first n then some (.fail (xFail cMalformed ended 0 16)) else none) ::
    x.inputs.zipIdx.map (fun p => (readsFail s d (x.inRanges p.1 first n)).map (xAccess ended p.2)) ++
    [(writesFail s d (x.outRanges first n)).map (xAccess ended noInput)])

def xformEnd (s : State) (id : Nat) (d : Def) (c : Cmd) (first n : Nat) (order : List Nat) : TileOut :=
  let x := parseXform c.entry c.desc
  match x.fault s d c.folds first n with
  | some f => f
  | none =>
    if x.clash then .ok [] (fun c => c) (scramble id (x.outRanges first n))
    else .ok (x.writes s d order first n) (fun c => c) (fun s => s)

/-- Chunks all of whose tiles have ended. A switch leaves a command without its waiting tiles (R185): a chunk's ended tiles
have to cover it. -/
def Xform.ended (x : Xform) (c : Cmd) : List Nat :=
  (List.range x.chunks).filter (fun k => min x.chunk (x.units - k * x.chunk) ≤
    ((c.tiles.filter (fun t => x.chunkOf t == k && t.state == .ended)).map (fun t => match t.kind with
      | .reduce _ n => n
      | .convert _ n => n
      | _ => 0)).sum)

/-- Ended chunks counted from chunk 0 without a gap. -/
def leadRun (l : List Nat) : Nat := (l.zipIdx.takeWhile (fun p => p.1 == p.2)).length

/-- After a tile has ended: the count of ended chunks, and the PROGRESS fence when its value grows (R342). -/
def xformProgress (id ring : Nat) (s : State) : State :=
  match getCur s id ring with
  | none => s
  | some c =>
    if !isXform c || c.failed.isSome then s
    else
      let x := parseXform c.entry c.desc
      let done := x.ended c
      let lead := leadRun done
      let s1 := setCur id ring (fun c => { c with folds := done.length, progress := lead }) s
      if x.progEn && c.progress < lead then
        signalFence id (x.progFence + 2 ^ 18) (BitVec.ofNat 64 (x.progBase + lead)) s1
      else s1

/-- The fences that an `ABANDONED` command abandons (R345). -/
def xformFences (c : Cmd) : List Nat :=
  (if fMode (eSignalFence c.entry) == 0 then [] else [fIndex (eSignalFence c.entry)]) ++
  (let x := parseXform c.entry c.desc
   if x.progEn then [x.progFence] else [])

/-- The command fails because no chunk became ready within the limit (R345). -/
def arrivalFail (d : Def) (c : Cmd) : Option Fail :=
  let x := parseXform c.entry c.desc
  match (List.range x.chunks).find? (fun k => !c.ready.contains k && (x.blocker d k).isSome) with
  | some k => some (xFail cRemoteTimeout c.folds ((x.blocker d k).getD 0) k)
  | none => none

/-- When the arrival limit of a command falls due: WAIT_LIMIT_US after its admission or the last chunk that became ready. -/
def Cmd.limitAt (c : Cmd) : Nat := c.armedAt + (parseXform c.entry c.desc).limitUs * 1000

/-- ARRIVAL_LIMIT_EXPIRY for the executing command, or for the one admitted behind it: the one whose limit falls due first
(R345). -/
def arrivalLimit (id ring : Nat) (s : State) : State :=
  match getDef s id, getRing s id ring with
  | some d, some r =>
    if d.state != .running || r.state != .active then s
    else
      let due (c : Cmd) : Option (Nat × Fail) :=
        if isXform c && c.failed.isNone then (arrivalFail d c).map (fun f => (c.limitAt, f)) else none
      let failNxt (f : Fail) : State := setRing id ring (fun r => { r with nxt := r.nxt.map (fun c => { c with failed := some f }) }) s
      match r.cur.bind due, r.nxt.bind due with
      | some f, some g => if g.1 < f.1 then failNxt g.2 else failCur id ring f.2 s
      | some f, none => failCur id ring f.2 s
      | none, some g => failNxt g.2
      | none, none => s
  | _, _ => s

end Sys2Proof.Machine
end

