-- ==== Sys2Proof/Machine/Lantern.lean ====
section
/-! DEFINITION. LANTERN_RUN: routine tiles, the queue extension, QCRC and traps (R228 to R236, R359, R360). -/

namespace Sys2Proof.Machine

/-! ### The command (R233, R234) -/

/-- One tile for each run of the routine, holding 128 KiB of drum (R225, R234). -/
def routineBegin (e : List Byte) : TileOut :=
  .ok [] (fun c => { c with
    tiles := number 0 ((List.range (fld e 34 2)).map (fun i => (TileKind.routine i, 131072, 0)))
    uses := c.uses ++ [(fld e 16 8, fld e 32 2), (fld e 24 8, 256)] }) (fun s => s)

/-- User-mode rights in local memory (R229): the jump table, the library code, whose place inside the vendor region the vendor
firmware sets, the routine's code, its argument block, and its data and stack. The other regions of the 16 are off (R228). -/
def userRegions : List Pmp :=
  [{ lo := 0, hi := 0xFF, r := false, w := false, x := true },
   { lo := max 0x100 Config.libFirst, hi := min 0x1FFFF Config.libLast, r := false, w := false, x := true },
   { lo := codeBase, hi := argsBase - 1, r := false, w := false, x := true },
   { lo := argsBase, hi := dataBase - 1, r := true, w := false, x := false },
   { lo := dataBase, hi := localTop - 1, r := true, w := true, x := false }] ++
  List.replicate 11 { lo := 0, hi := 0, r := false, w := false, x := false }

/-- A run at its start (R229, R234, R359): user mode, `pc` at ENTRY, a0 the instance index, a1 the argument block, a2
INSTANCES, sp the top of local memory, context U and the data zero. -/
def Lantern.start (entry index instances : Nat) (code args : List Byte) : Lantern :=
  { mode := .user, resv := none
    x := (List.range 32).map (fun i => BitVec.ofNat 64
      (if i == 2 then localTop else if i == 10 then index else if i == 11 then argsBase else if i == 12 then instances else 0))
    f := List.replicate 32 0, pc := BitVec.ofNat 64 (codeBase + entry), fcsr := 0, pmp := userRegions
    mem := writeBytes (writeBytes [] codeBase code) argsBase args, staged := [], stagedBytes := 0, clocks := 0
    crcU := CrcCtx.reset, rd := 0, result := none }

/-- A routine tile starts: its code and argument block are loaded anew. -/
def routineLoad (s : State) (d : Def) (e : List Byte) (index : Nat) : Option TileOut × Lantern :=
  (readsFail s d [(fld e 16 8, fld e 32 2), (fld e 24 8, 256)],
   Lantern.start (fld e 36 2) index (fld e 34 2) (peek s d (fld e 16 8) (fld e 32 2)) (peek s d (fld e 24 8) 256))

/-! ### A running routine -/

/-- The definition, its identifier, the command, the tile and the lantern of a routine that runs. -/
structure Running where
  id : Nat
  d : Def
  c : Cmd
  t : Tile
  l : Lantern

def running (s : State) (u : LRef) : Option Running :=
  match inSlot s u.slot with
  | none => none
  | some (id, d) =>
    match (mfind d.rings u.ring).bind (fun r => r.cur) with
    | none => none
    | some c =>
      match c.tile u.tile with
      | none => none
      | some t =>
        match t.state, t.lantern with
        | .issued, some l => if l.result.isNone then some { id := id, d := d, c := c, t := t, l := l } else none
        | _, _ => none

def setLantern (id ring tile : Nat) (f : Lantern → Lantern) (s : State) : State :=
  setCur id ring (fun c => c.setTile tile (fun t => { t with lantern := t.lantern.map f })) s

/-- A trap is a `CONTAINED` fault of the partition (R235), with the core's PC; its cause code is a free value (log 4). -/
def trap (id : Nat) (pc : Word) (s : State) : State :=
  detect1 (slotCause s id 0x0802 (BitVec.ofNat 64 (bits (Config.free s.freeCtr).toNat 63 56 * 2 ^ 56 + bits pc.toNat 31 0)))
    { s with freeCtr := s.freeCtr + 1 }

/-- Runs an operation of a routine, or traps. Nothing happens where no such routine runs. -/
def onLantern (u : LRef) (ok : Running → Bool) (f : Running → State → State) (s : State) : State :=
  match running s u with
  | none => s
  | some r => if ok r then f r s else trap r.id r.l.pc s

/-! ### QREAD and QWRITE (R231, R235) -/

def copyLocal (rs2 : Word) : Nat := bits rs2.toNat 31 0
def copyLen (rs2 : Word) : Nat := bits rs2.toNat 47 32

/-- The window of the argument block holds a range. -/
def inWindow (l : Lantern) (va n : Nat) : Bool :=
  let base := leNat (readBytes l.mem argsBase 8)
  let len := leNat (readBytes l.mem (argsBase + 8) 8)
  base ≤ va && va + n ≤ base + len

/-- Address, length and window of a copy: a length of 0, above 4,096 or of no whole 8 bytes traps (R231, log 92). -/
def copyOk (l : Lantern) (rs1 rs2 : Word) : Bool :=
  rs1.toNat % 8 == 0 && 8 ≤ copyLen rs2 && copyLen rs2 ≤ 4096 && copyLen rs2 % 8 == 0 && inWindow l rs1.toNat (copyLen rs2)

/-- Local addresses that user mode may write, and read (R229). -/
def localOk (lo : Nat) (rs2 : Word) : Bool := lo ≤ copyLocal rs2 && copyLocal rs2 + copyLen rs2 ≤ localTop

def qread (u : LRef) (rs1 rs2 : Word) (s : State) : State :=
  onLantern u (fun r => copyOk r.l rs1 rs2 && localOk dataBase rs2) (fun r s =>
    let n := copyLen rs2
    match readsFail s r.d [(rs1.toNat, n)] with
    | some (.denied f va) => denyCur r.id u.ring f va s
    | some (.fail f) => failCur r.id u.ring f s
    | _ =>
      let bs := peek s r.d rs1.toNat n
      setLantern r.id u.ring u.tile (fun l => { l with mem := writeBytes l.mem (copyLocal rs2) bs, rd := 0 })
        (chargeRanges r.id false [(rs1.toNat, n)] s)) s

/-- Room for `n` further staged bytes (R235). -/
def stageRoom (l : Lantern) (n : Nat) : Bool := l.stagedBytes + n ≤ 131072

def Lantern.stage (l : Lantern) (kind addr : Nat) (data : List Byte) : Lantern :=
  { l with staged := l.staged ++ [{ kind := kind, addr := addr, data := data }], stagedBytes := l.stagedBytes + data.length }

def qwrite (u : LRef) (rs1 rs2 : Word) (s : State) : State :=
  onLantern u (fun r => copyOk r.l rs1 rs2 && localOk argsBase rs2 && stageRoom r.l (copyLen rs2)) (fun r s =>
    setLantern r.id u.ring u.tile (fun l =>
      { l.stage 0 rs1.toNat (readBytes l.mem (copyLocal rs2) (copyLen rs2)) with rd := 0 }) s) s

/-! ### The persistent share (R231, R235) -/

/-- An offset of the persistent share. -/
def shareOk (g : Grant) (rs1 : Word) : Bool := rs1.toNat % 8 == 0 && rs1.toNat < g.persistKib * 1024

def qdrumLd (u : LRef) (rs1 : Word) (s : State) : State :=
  onLantern u (fun r => shareOk r.d.grant rs1) (fun r s =>
    setLantern r.id u.ring u.tile (fun l =>
      { l with rd := BitVec.ofNat 64 (leNat (readBytes r.d.persist rs1.toNat 8)) }) s) s

/-- A staged store (kind 1) or add (kind 2). -/
def qdrumStage (kind : Nat) (u : LRef) (rs1 rs2 : Word) (s : State) : State :=
  onLantern u (fun r => shareOk r.d.grant rs1 && stageRoom r.l 8) (fun r s =>
    setLantern r.id u.ring u.tile (fun l => l.stage kind rs1.toNat (leBytes 8 rs2.toNat)) s) s

/-- QEXIT: the run ends with a result, and the vendor firmware goes on in machine mode; its tile's local end follows. -/
def qexit (u : LRef) (rs1 : Word) (s : State) : State :=
  onLantern u (fun _ => true) (fun r s =>
    setLantern r.id u.ring u.tile (fun l => { l with result := some rs1, mode := .machine }) s) s

/-! ### QCRC (R354, R360) -/

/-- The clocks of a check-value operation count toward the limit, and the run traps beyond it. -/
def onCrc (u : LRef) (ok : Bool) (clocks : Nat) (f : Lantern → Lantern) (s : State) : State :=
  onLantern u (fun r => ok && r.l.clocks + clocks ≤ 100000) (fun r s =>
    setLantern r.id u.ring u.tile (fun l => { f l with clocks := l.clocks + clocks }) s) s

/-- The selectors of R360: INIT takes ALG and FOLD in rs2[6:4]; every other operation leaves rs2[63:4] zero. -/
def crcSelOk (rs2 : Word) : Bool :=
  bits rs2.toNat 63 7 == 0 && bits rs2.toNat 3 0 ≤ 4 && (bits rs2.toNat 3 0 == 0 || bits rs2.toNat 6 4 == 0)

/-- A feed of the low `n` bytes of rs1 to context U. -/
def Lantern.feed (n : Nat) (rs1 : Word) (l : Lantern) : Lantern := { l with crcU := l.crcU.feed (leBytes n rs1.toNat), rd := 0 }

/-- The check-value context U of a run's lantern, as a parity error names it (log 49). -/
def crcLaneU (dome lane : Nat) : Nat := 0x200 + dome * 8 + (lane - 8)

/-- Context U starts anew: a parity error of its old remainder is gone. -/
def crcFresh (dome lane : Nat) (s : State) : State := { s with crcBad := s.crcBad.filter (· != crcLaneU dome lane) }

/-- QCRC: rs2[3:0] selects the operation, whichever row brings it (R360). RESULT traps where the remainder has a parity error
(R363). -/
def qcrc (u : LRef) (rs1 rs2 : Word) (s : State) : State :=
  let fold := bit rs2.toNat 6
  match bits rs2.toNat 3 0 with
  | 0 => onLantern u (fun r => crcSelOk rs2 && r.l.clocks + (if fold then 9 else 1) ≤ 100000) (fun r s =>
      setLantern r.id u.ring u.tile (fun l => { l with
        crcU := CrcCtx.init (bits rs2.toNat 5 4) fold rs1, rd := 0, clocks := l.clocks + (if fold then 9 else 1) })
        (crcFresh r.t.dome r.t.lane s)) s
  | 1 => onCrc u (crcSelOk rs2) 1 (Lantern.feed 1 rs1) s
  | 2 => onCrc u (crcSelOk rs2) 2 (Lantern.feed 2 rs1) s
  | 3 => onCrc u (crcSelOk rs2) 4 (Lantern.feed 4 rs1) s
  | _ => onLantern u (fun r => crcSelOk rs2 && r.l.clocks ≤ 100000 && !s.crcBad.contains (crcLaneU r.t.dome r.t.lane))
      (fun r s => setLantern r.id u.ring u.tile (fun l => { l with rd := l.crcU.value }) s) s

/-- LANTERN_CLOCK_LIMIT: a run takes more than 100,000 lantern clocks (R235). -/
def lanternLimit (u : LRef) (s : State) : State := onLantern u (fun _ => false) (fun _ s => s) s

/-! ### The core (R228 to R232, R235; log 70) -/

/-- An encoding of custom-0 or custom-1 (R231): the operation by funct3, or a trap. -/
def customOp (u : LRef) (w : BitVec 32) (rs1 rs2 : Word) (s : State) : State :=
  if bits w.toNat 6 0 != 0x0B then onLantern u (fun _ => false) (fun _ s => s) s
  else match bits w.toNat 14 12 with
    | 0 => qread u rs1 rs2 s
    | 1 => qwrite u rs1 rs2 s
    | 2 => qdrumLd u rs1 s
    | 3 => qdrumStage 1 u rs1 rs2 s
    | 4 => qdrumStage 2 u rs1 rs2 s
    | 5 => qcrc u rs1 rs2 s
    | 6 => qexit u rs1 s
    | _ => onLantern u (fun _ => false) (fun _ s => s) s

/-- `rd` of an operation of the queue extension takes its result; x0 stays zero, and the core goes on with the next
instruction. -/
def Lantern.retire (w : BitVec 32) (l : Lantern) : Lantern :=
  { l with x := if bits w.toNat 11 7 == 0 then l.x else setNth l.x (bits w.toNat 11 7) (fun _ => l.rd), pc := l.pc + 4 }

def custom (u : LRef) (w : BitVec 32) (rs1 rs2 : Word) (s : State) : State :=
  let s1 := customOp u w rs1 rs2 s
  match running s1 u with
  | some r => setLantern r.id u.ring u.tile (Lantern.retire w) s1
  | none => s1

/-- Argument registers a0 to a7 of the calling convention. -/
def Lantern.arg (l : Lantern) (i : Nat) : Nat := (l.rx (10 + i)).toNat

/-- Registers that the calling convention lets a routine change. -/
def callerSaved (i : Nat) : Bool := (5 ≤ i && i ≤ 7) || (10 ≤ i && i ≤ 17) || 28 ≤ i
def fCallerSaved (i : Nat) : Bool := i ≤ 7 || (10 ≤ i && i ≤ 17) || 28 ≤ i

/-- A core back from a library routine: at its return address, with the routine's own values in the registers that the calling
convention lets it change (log 70). -/
def Lantern.back (l : Lantern) (off : Nat) : Lantern :=
  { l with
    x := l.x.zipIdx.map (fun p => if callerSaved p.2 then Config.libLeft off l.x p.2 else p.1)
    f := l.f.zipIdx.map (fun p => if fCallerSaved p.2 then Config.libLeft off l.x (32 + p.2) else p.1)
    pc := l.rx 1 &&& ~~~1 }

/-- A group of a KV-4o page by a5, a6 and a7: head dimension, token group, and channel with its side. -/
def Lantern.kvOk (l : Lantern) : Bool :=
  dimOk (l.arg 5) && decide (l.arg 6 < kvTokens (l.arg 5) / 16) && decide (l.arg 7 / 2 < l.arg 5) && l.arg 4 == 16

/-- A format that lib_cvt converts, with the elements it takes: one of R189 by its code of R215, an MX one in whole blocks, or a
group of a KV-4o page (code 0x10). -/
def Lantern.cvtOk (l : Lantern) (fmt : Nat) : Bool :=
  if fmt == 0x10 then l.kvOk else vecFmtOk fmt && (!isMx fmt || l.arg 4 % 32 == 0)

/-- Bytes of a vector of lib_cvt, with its scales, or its KV-4o page. -/
def cvtRanges (fmt addr scales n : Nat) : List (Nat × Nat) :=
  if fmt == 0x10 then [(addr, 65536)]
  else (addr, packedBytes fmt n) :: (if isMx fmt then [(scales, n / 32)] else [])

/-- Ranges that a library routine reads and writes, on its caller's rights. The manual gives the routines' functions and not
their arguments; these are the model's (log 70): lib_cvt (destination, its format, source, its format, elements, scales of the
destination and of the source, or for KV-4o head dimension, token group, and twice the channel plus the side),
lib_fold_triple (record folded into, record, head dimension), lib_quant_kv4o (page, 16 FP32 values, token group, twice the
channel plus the side, head dimension), lib_memcpy and lib_memset as in C. -/
def libReads (off : Nat) (l : Lantern) : List (Nat × Nat) :=
  match off with
  | 0x10 => if l.cvtOk (l.arg 1) && l.cvtOk (l.arg 3) then
      cvtRanges (l.arg 3) (l.arg 2) (l.arg 6) (l.arg 4) ++ (if l.arg 1 == 0x10 then [(l.arg 0, 65536)] else []) else []
  | 0x20 => if dimOk (l.arg 2) then [(l.arg 0, recSize (l.arg 2) false), (l.arg 1, recSize (l.arg 2) false)] else []
  | 0x30 => if dimOk (l.arg 4) then [(l.arg 0, 65536), (l.arg 1, 64)] else []
  | 0x40 => [(l.arg 1, l.arg 2)]
  | _ => []
def libWrites (off : Nat) (l : Lantern) : List (Nat × Nat) :=
  match off with
  | 0x10 => if l.cvtOk (l.arg 1) && l.cvtOk (l.arg 3) then cvtRanges (l.arg 1) (l.arg 0) (l.arg 5) (l.arg 4) else []
  | 0x20 => if dimOk (l.arg 2) then [(l.arg 0, recSize (l.arg 2) false)] else []
  | 0x30 => if dimOk (l.arg 4) then [(l.arg 0, 65536)] else []
  | 0x40 => [(l.arg 0, l.arg 2)]
  | 0x50 => [(l.arg 0, l.arg 2)]
  | _ => []

/-- Element `i` of the source of lib_cvt, widened to FP32 (R190, R196, R203). -/
def Lantern.cvtElem (l : Lantern) (i : Nat) : FV :=
  if l.arg 3 == 0x10 then
    f32v (toF32 (kvElem (readBytes l.mem (l.arg 2) 65536) (l.arg 5) (l.arg 6 * 16 + i) (l.arg 7 / 2) (l.arg 7 % 2 == 1)))
  else
    let v := elemValue (l.arg 3) (packedCode (readBytes l.mem (l.arg 2) (packedBytes (l.arg 3) (l.arg 4))) (fmtBits (l.arg 3)) i)
    widen (if isMx (l.arg 3) then v.mul (scaleValue (leNat (readBytes l.mem (l.arg 6 + i / 32) 1))) else v)

/-- What lib_cvt writes: a vector with its scales (R203, R204), or a KV-4o page with one group quantised anew (R197). -/
def Lantern.cvtWrites (l : Lantern) : List (Nat × List Byte) :=
  if l.arg 1 == 0x10 then
    [(l.arg 0, kvRequant (readBytes l.mem (l.arg 0) 65536) (l.arg 5) (l.arg 6) (l.arg 7 / 2) (l.arg 7 % 2 == 1)
      ((List.range 16).map l.cvtElem))]
  else vecBytes (l.arg 1) (l.arg 0) (l.arg 5) 0 (l.arg 4) l.cvtElem

/-- A library routine of R232: what it leaves in local memory and in the result register, 0 where it has acted and 1 where the
formats, the dimension or the group it was given are none (log 70). -/
def libRun (off : Nat) (l : Lantern) : Lantern :=
  let rd (a n : Nat) : List Byte := readBytes l.mem a n
  let put (ok : Bool) (w : List (Nat × List Byte)) (v : Word) : Lantern :=
    let l1 := (l.back off).wx 10 (if ok then v else 1)
    if ok then { l1 with mem := w.foldl (fun m p => writeBytes m p.1 p.2) l.mem } else l1
  match off with
  | 0x00 => (l.back off).wf 10 (f32.box (fExp (BitVec.ofNat 32 (f32.unbox (l.rf 10)))).toNat)
  | 0x10 => put (l.cvtOk (l.arg 1) && l.cvtOk (l.arg 3)) l.cvtWrites 0
  | 0x20 =>
    let t (a : Nat) : Triple := tripleOf (rd a (recSize (l.arg 2) false)) (l.arg 2)
    put (dimOk (l.arg 2))
      [(l.arg 0, tripleBytes (foldTriple (t (l.arg 0)) (t (l.arg 1))) (recRow (rd (l.arg 0) 32)) (l.arg 2) false)] 0
  | 0x30 =>
    let vals := (List.range 16).map (fun i => f32v (BitVec.ofNat 32 (leNat (rd (l.arg 1 + 4 * i) 4))))
    put (dimOk (l.arg 4) && decide (l.arg 2 < kvTokens (l.arg 4) / 16) && decide (l.arg 3 / 2 < l.arg 4))
      [(l.arg 0, kvRequant (rd (l.arg 0) 65536) (l.arg 4) (l.arg 2) (l.arg 3 / 2) (l.arg 3 % 2 == 1) vals)] 0
  | 0x40 => put true [(l.arg 0, rd (l.arg 1) (l.arg 2))] (BitVec.ofNat 64 (l.arg 0))
  | _ => put true [(l.arg 0, List.replicate (l.arg 2) (BitVec.ofNat 8 (l.arg 1)))] (BitVec.ofNat 64 (l.arg 0))

/-- Entries of the jump table, and those that run a routine: 0x60 to 0xF0 trap (R232). -/
def tableEntry (pc : Nat) : Bool := pc % 16 == 0 && pc ≤ 0xF0
def libEntry (pc : Nat) : Bool := pc % 16 == 0 && pc ≤ 0x50

/-- A routine of the library may run: what it reads and writes is in its caller's regions. -/
def libMay (off : Nat) (l : Lantern) : Bool :=
  libEntry off && (libReads off l).all (fun x => userMay l (·.r) x.1 x.2) && (libWrites off l).all (fun x => userMay l (·.w) x.1 x.2)

/-- The instruction at the program counter, or the library routine whose entry it is, runs in user mode or traps (R228, R231,
R232, R235). -/
def coreAct (u : LRef) (r : Running) (s : State) : State :=
  let put (l : Lantern) : State := setLantern r.id u.ring u.tile (fun _ => l) s
  if tableEntry r.l.pc.toNat then
    if libMay r.l.pc.toNat r.l then put (libRun r.l.pc.toNat r.l) else trap r.id r.l.pc s
  else match r.l.execute with
    | .next l => put l
    | .queue w rs1 rs2 => custom u w rs1 rs2 s
    | .trap => trap r.id r.l.pc s

/-- One lantern clock of a routine, which is one instruction (R235, log 70). -/
def coreClock (u : LRef) (s : State) : State :=
  match running s u with
  | none => s
  | some r =>
    if 100000 ≤ r.l.clocks then trap r.id r.l.pc s
    else
      let l := { r.l with clocks := r.l.clocks + 1 }
      coreAct u { r with l := l } (setLantern r.id u.ring u.tile (fun _ => l) s)

/-- The routines that run. -/
def runningRoutines (s : State) : List LRef :=
  s.defs.flatMap (fun p => match p.2.slot with
    | none => []
    | some sl => p.2.rings.flatMap (fun q => match q.2.cur with
      | none => []
      | some c => (c.tiles.filter (fun t => t.state == .issued && (match t.lantern with
          | some l => l.result.isNone
          | none => false))).map (fun t => { slot := sl, ring := q.1, tile := t.idx })))

/-- Every core runs for one of its clocks, which are as long as the fabric's (R228). -/
def coresClock (s : State) : State := (runningRoutines s).foldl (fun s u => coreClock u s) s

/-! ### The end of a routine tile (R170, R231) -/

/-- Staged effects on the persistent share, in program order. -/
def commitShare (id : Nat) : List Staged → State → State
  | [], s => s
  | x :: l, s =>
    commitShare id l (setDef s id (fun d =>
      if x.kind == 1 then { d with persist := writeBytes d.persist x.addr x.data }
      else if x.kind == 2 then
        let v := (leNat (readBytes d.persist x.addr 8) + leNat x.data) % 2 ^ 64
        { d with persist := writeBytes d.persist x.addr (leBytes 8 v) }
      else d))

def routineEnd (s : State) (id : Nat) (d : Def) (index : Nat) (l : Lantern) : TileOut :=
  let w := (l.staged.filter (fun x => x.kind == 0)).map (fun x => (x.addr, x.data))
  match writesFail s d (w.map (fun x => (x.1, x.2.length))) with
  | some f => f
  | none => .ok w (fun c => if index == 0 then { c with result := l.result.getD 0 } else c) (commitShare id l.staged)

/-! ### The operations as commands -/

/-- QREAD (R231). -/
def execQread (u : LRef) (rs1 rs2 : Word) (s : State) : Result := .next (whenOp (qread u rs1 rs2) s)
/-- QWRITE (R231). -/
def execQwrite (u : LRef) (rs1 rs2 : Word) (s : State) : Result := .next (whenOp (qwrite u rs1 rs2) s)
/-- QDRUM_LD (R231). -/
def execQdrumLd (u : LRef) (rs1 : Word) (s : State) : Result := .next (whenOp (qdrumLd u rs1) s)
/-- QDRUM_ST (R231). -/
def execQdrumSt (u : LRef) (rs1 rs2 : Word) (s : State) : Result := .next (whenOp (qdrumStage 1 u rs1 rs2) s)
/-- QDRUM_ADD (R231). -/
def execQdrumAdd (u : LRef) (rs1 rs2 : Word) (s : State) : Result := .next (whenOp (qdrumStage 2 u rs1 rs2) s)
/-- QEXIT (R231). -/
def execQexit (u : LRef) (rs1 : Word) (s : State) : Result := .next (whenOp (qexit u rs1) s)
/-- QCRC_INIT (R360). -/
def execQcrcInit (u : LRef) (rs1 rs2 : Word) (s : State) : Result := .next (whenOp (qcrc u rs1 rs2) s)
/-- QCRC_FEED8 (R360). -/
def execQcrcFeed8 (u : LRef) (rs1 rs2 : Word) (s : State) : Result := .next (whenOp (qcrc u rs1 rs2) s)
/-- QCRC_FEED16 (R360). -/
def execQcrcFeed16 (u : LRef) (rs1 rs2 : Word) (s : State) : Result := .next (whenOp (qcrc u rs1 rs2) s)
/-- QCRC_FEED32 (R360). -/
def execQcrcFeed32 (u : LRef) (rs1 rs2 : Word) (s : State) : Result := .next (whenOp (qcrc u rs1 rs2) s)
/-- QCRC_RESULT (R360). -/
def execQcrcResult (u : LRef) (rs1 rs2 : Word) (s : State) : Result := .next (whenOp (qcrc u rs1 rs2) s)
/-- LANTERN_CLOCK_LIMIT (R235). -/
def execLanternClockLimit (u : LRef) (s : State) : Result := .next (whenOp (lanternLimit u) s)

end Sys2Proof.Machine
end

