-- ==== Sys2Proof/Machine/Sched.lean ====
section
/-! DEFINITION. Entries at the head of a command ring: checks, admission, the commands' start and completion, and fall-backs
(R144, R145, R160, R163 to R185, R302). -/

namespace Sys2Proof.Machine

/-! ### A refused head -/

/-- RESULT of an entry refused with `MALFORMED` (R264, R297, R346). -/
def refusedResult (s : State) (e : List Byte) : Word :=
  match eOp e with
  | 0x40 => attResult (headless s) noEntry false
  | 0x50 => BitVec.ofNat 64 (headless s * 2 ^ 32)
  | 0x20 => xResult 0 noInput
  | 0x21 => xResult 0 noInput
  | _ => 0

/-- The head entry completes `MALFORMED` before admission. -/
def refuseHead (id ring : Nat) (r : CmdRing) (e : List Byte) (detail : Nat) (s : State) : State :=
  jobEntry id ring (eJobEnd e) cMalformed
    (setRing id ring (fun r => { r with head := r.head + 1, waitSat := false })
      (pushPend id r.cpl { source := hCmd ring, pos := r.head, status := cMalformed, opcode := eOp e
                           result := refusedResult s e, detail := detail, bellAt := s.bell.ns, entry := none
                           base := r.base, log2 := r.log2, held := false } { s with freeCtr := s.freeCtr + 1 }))

/-! ### Descriptors, read at admission -/

def descLen (op : Nat) : Nat :=
  match op with
  | 0x20 => 64
  | 0x21 => 128
  | 0x30 => 128
  | 0x40 => 128
  | 0x41 => 64
  | 0x50 => 128
  | _ => 0

/-- A failed access at admission takes the result of its opcode. -/
def wrapFail (s : State) (e : List Byte) (f : TileOut) : TileOut :=
  match eOp e with
  | 0x40 => attAccess (headless s) noEntry f
  | 0x50 => attAccess (headless s) noEntry f
  | 0x20 => xAccess 0 noInput f
  | 0x21 => xAccess 0 noInput f
  | _ => f

/-- The list that MERGE and REDUCE read behind their descriptor. -/
def listRange (op : Nat) (p : List Byte) : Nat × Nat :=
  match op with
  | 0x20 => reduceList p
  | 0x41 => mergeList p
  | _ => (0, 0)

/-- Reads the descriptor of a command, and its list. -/
def readDesc (s : State) (d : Def) (e : List Byte) : Option TileOut × List Byte :=
  let n := descLen (eOp e)
  match readsFail s d [(fld e 16 8, n)] with
  | some f => (some (wrapFail s e f), [])
  | none =>
    let p := if n == 0 then [] else peek s d (fld e 16 8) n
    let l := listRange (eOp e) p
    match readsFail s d [l] with
    | some f => (some (wrapFail s e f), [])
    | none => (none, p ++ (if l.2 == 0 then [] else peek s d l.1 l.2))

/-- The ranges of a descriptor and its list. -/
def descRanges (e p : List Byte) : List (Nat × Nat) :=
  if descLen (eOp e) == 0 then [] else (fld e 16 8, descLen (eOp e)) :: [listRange (eOp e) p]

/-! ### Fall-back lists (R182, R183) -/

def fallOf (p : List Byte) : Fall :=
  { list := fld p 0 8, count := fld p 8 2, jobDeadline := fld p 12 4, marginUs := fld p 16 4, switched := false
    switchPos := 0, next := 0, primary := [], endStatus := 0, endDetail := 0 }

/-- A fall-back descriptor obeys R182, its JOB_DEADLINE as it is written, before the first lock too (R77, log 91). -/
def fallDescOk (p : List Byte) : Bool :=
  let f := fallOf p
  f.list % 64 == 0 && 1 ≤ f.count && f.count ≤ 64 && zeros p 10 2 && f.jobDeadline != 0 && f.marginUs ≤ 1000000 &&
  zeros p 20 12

def listEntryOk (e : List Byte) : Bool :=
  (isCompute (eOp e) || eOp e == 1) && zeros e 1 1 && zeros e 4 12 && zeros e 40 24 && (reservedFault e).isNone

/-- The list reads and every entry obeys R182. -/
def listFault (s : State) (d : Def) (f : Fall) : Option TileOut :=
  match readsFail s d [(f.list, f.count * 64)] with
  | some x => some x
  | none =>
    if (List.range f.count).all (fun i => listEntryOk (peek s d (f.list + i * 64) 64)) then none
    else some (.fail (malformed 40))

/-- The fall-back of a job's first entry, or its failure. -/
def readFall (s : State) (d : Def) (va : Nat) : Option TileOut × Option Fall :=
  if va == 0 then (none, none)
  else match readsFail s d [(va, 32)] with
    | some f => (some f, none)
    | none =>
      let p := peek s d va 32
      if !fallDescOk p then (some (.fail (malformed 40)), none)
      else match listFault s d (fallOf p) with
        | some f => (some f, none)
        | none => (none, some (fallOf p))

/-! ### The start of a command (R171, R230) -/

def beginCmd (s : State) (d : Def) (c : Cmd) : TileOut :=
  match eOp c.entry with
  | 0x30 =>
    let g := parseGemm c.desc c.entry
    match g.check c.desc d.grant with
    | some f => .fail f
    | none => .ok [] (fun c => { c with tiles := gemmTiles g d.grant, uses := c.uses ++ gemmUses g }) (fun s => s)
  | 0x40 => attendBegin s d c.desc
  | 0x41 => mergeBegin c.desc
  | 0x20 => xformBegin d c.entry c.desc
  | 0x21 => xformBegin d c.entry c.desc
  | 0x50 => batchBegin s d c.desc c.entry
  | 0x60 => routineBegin c.entry
  | _ => kvBegin c.entry

/-! ### The predictor (R184, R265, R302, R347; log 47) -/

/-- Remote entries of a tile without an accepted reply. -/
def tileRemote (c : Chain) (t : Tile) (first count : Nat) : Nat :=
  ((tileEnts c first count).filter (fun e => e.remote)).length - t.replies

/-- The chain that a head of a command is attended over. -/
def headChain (c : Cmd) (h : Nat) : Chain :=
  if eOp c.entry == 0x50 then laneView c h else nth c.chains h Chain.absent

/-- The attend descriptor of an ATTEND or BATCH_STEP. -/
def attOf (c : Cmd) : AttDesc :=
  if eOp c.entry == 0x50 then batchAtt c.desc (c.lanes.map (·.rowMeta)) else parseAttend c.desc

/-- The page of a chain entry lies in drum for a command: its tile took it when it was issued, or the watch has brought it,
under the chain's epoch and the slot's load generation (R25, R253, R254). -/
def fetched (s : State) (sl : Nat) (c : Cmd) (h i : Nat) : Bool :=
  (match tileOfEntry c h i with | some t => t.asked.contains i | none => false) ||
  s.fetches.any (fun f => f.2.slot == sl && f.2.pos == c.pos && f.2.head == h && f.2.entry == i && f.2.arrived &&
    f.2.chainVa == some (headChain c h).va && f.2.epoch == (headChain c h).epoch &&
    f.2.loadGen == (getSlot s sl).loadGen && ((headChain c h).ents[i]?).map (·.addr) == some f.2.page)

/-- Pages that lie in drum for a tile of a command without chains (R9). -/
def fetchedPages (s : State) (sl : Nat) (c : Cmd) (t : Tile) : List Nat :=
  t.asked ++ (s.fetches.filter (fun f => f.2.slot == sl && f.2.pos == c.pos && f.2.head == t.idx && f.2.chainVa.isNone &&
    f.2.arrived && f.2.loadGen == (getSlot s sl).loadGen)).map (fun f => f.2.page)

/-- What of some ranges does not lie in pages given. -/
def outsideOf (pages : List Nat) (l : List (Nat × Nat)) : List (Nat × Nat) :=
  if pages.isEmpty then l
  else l.flatMap (fun r => (pieceList r.1 r.2).filter (fun p => !pages.contains (p.1 / 65536 * 65536)))

/-- The operands of a tile that runs on an engine, of a command without chains. -/
def tensorReads (c : Cmd) (t : Tile) : List (Nat × Nat) :=
  let x := parseXform c.entry c.desc
  match t.kind with
  | .gemmSplit _ _ _ _ _ => gemmReads (parseGemm c.desc c.entry) t.kind
  | .reduce first n => x.inputs.flatMap (fun i => x.inRanges i first n)
  | .convert first n => x.inputs.flatMap (fun i => x.inRanges i first n)
  | _ => []

/-- Local entries of an attend tile that have not been read. -/
def unread (s : State) (sl : Nat) (c : Cmd) (h first count : Nat) : List ChainEnt :=
  (((tileEnts (headChain c h) first count).zipIdx first).filter (fun p => !p.1.remote && !fetched s sl c h p.2)).map (·.1)

/-- What lies in drum for a tile as it is issued: local entries of an attend tile, pages of another. -/
def broughtIn (s : State) (sl : Nat) (c : Cmd) (t : Tile) : List Nat :=
  match t.kind with
  | .attend h first count => (List.range count).filterMap (fun k =>
      if (((headChain c h).ents[first + k]?).map (fun e => !e.remote)).getD false && fetched s sl c h (first + k) then
        some (first + k) else none)
  | _ => fetchedPages s sl c t

/-- What lies in drum for a tile is marked poisoned (R375). -/
def markedBad (s : State) (sl : Nat) (c : Cmd) (t : Tile) (x : Nat) : Bool :=
  s.fetches.any (fun f => f.2.slot == sl && f.2.pos == c.pos && f.2.arrived && f.2.poisoned &&
    (match t.kind with
     | .attend h _ _ => f.2.chainVa.isSome && f.2.head == h && f.2.entry == x
     | _ => f.2.chainVa.isNone && f.2.head == t.idx && f.2.page == x))

/-- Ranges that a tile reads, for the charges of R98. The pages that the watch has fetched were charged then; a KV command
and a phase of a BATCH_STEP charge what they touch when they take effect. -/
def tileReads (s : State) (sl : Nat) (c : Cmd) (t : Tile) : List (Nat × Nat) :=
  let a := attOf c
  let outs := [(a.out, a.heads * a.rows * recSize a.dim false)]
  match t.kind with
  | .gemmCombine _ _ _ _ => gemmReads (parseGemm c.desc c.entry) t.kind
  | .attendOpen => if a.accum then outs else []
  | .attend h first n => rowReads a h ++ (unread s sl c h first n).map (fun e => (e.addr, pageUsed e.fmt a.dim))
  | .attendClose => outs
  | .merge first n =>
    let g := parseMerge c.desc
    (g.inputs c.desc).map (fun b => (b + first * g.inSize, n * g.inSize))
  | .routine _ => [(fld c.entry 16 8, fld c.entry 32 2), (fld c.entry 24 8, 256)]
  | _ => outsideOf (fetchedPages s sl c t) (tensorReads c t)

/-- Ranges that a tile writes. -/
def tileWrites (c : Cmd) (t : Tile) : List (Nat × Nat) :=
  let a := attOf c
  let outs := [(a.out, a.heads * a.rows * recSize a.dim false)]
  let x := parseXform c.entry c.desc
  match t.kind with
  | .gemmSplit _ _ _ _ _ => gemmWrites (parseGemm c.desc c.entry) t.kind
  | .gemmCombine _ _ _ _ => gemmWrites (parseGemm c.desc c.entry) t.kind
  | .attendOpen => if a.accum then [] else outs
  | .attend h _ _ => [(outAt a h 0 false, a.rows * recSize a.dim false)]
  | .attendClose => (if a.oBf16 then [(a.out, a.heads * a.rows * recSize a.dim true)] else []) ++
      (if a.norm == 0 then [] else [(a.norm, a.heads * a.rows * (a.dim * (fmtBits a.normFmt / 8)))])
  | .merge first n =>
    let g := parseMerge c.desc
    (g.out + first * g.outSize, n * g.outSize) :: (if g.norm == 0 then [] else [(g.norm + first * g.normSize, n * g.normSize)])
  | .reduce first n => x.outRanges first n
  | .convert first n => x.outRanges first n
  | .routine _ => match t.lantern with
    | some l => (l.staged.filter (fun x => x.kind == 0)).map (fun x => (x.addr, x.data.length))
    | none => []
  | _ => []

/-- Bytes that a tile still moves: of an ATTEND its unread pages (R265), of a phase nothing (R301). -/
def tileBytes (s : State) (d : Def) (sl : Nat) (c : Cmd) (t : Tile) : Nat :=
  if t.state == .remoteWait then 0
  else match t.kind with
    | .attendOpen => 0
    | .attendClose => 0
    | .attend h first count => 65536 * (unread s sl c h first count).length
    | .kv =>
      let a := kvAccess s d c.entry
      ((a.reads ++ a.writes).map (·.2)).sum
    | _ => ((tileReads s sl c t ++ tileWrites c t).map (·.2)).sum

/-- What remains of a command: engine clocks, bytes, and fragment replies. -/
structure Left where
  clocks : Nat
  bytes : Nat
  frags : Nat
  deriving DecidableEq, Repr

def leftOf (s : State) (d : Def) (sl : Nat) (c : Cmd) : Left :=
  let l := c.tiles.filter (fun t => t.state != .ended)
  { clocks := (l.map (fun t => t.clocks)).sum, bytes := (l.map (tileBytes s d sl c)).sum
    frags := (l.map (fun t => match t.kind with
      | .attend h first count => tileRemote (headChain c h) t first count
      | _ => 0)).sum }

/-- A reply of a chain entry of a command counts for the tile that covers the entry. -/
def Cmd.countReply (c : Cmd) (h i : Nat) (recs : List Triple) : Cmd :=
  match tileOfEntry c h i with
  | none => c
  | some t => c.setTile t.idx (fun t => { t with
      asked := t.asked ++ [i], replies := t.replies + 1
      acc := if t.acc.isEmpty then recs else (t.acc.zip recs).map (fun p => foldTriple p.1 p.2) })

/-- An entry of the snapshot is remote, and its chain stands at an epoch. -/
def Cmd.asksFor (c : Cmd) (h i epoch : Nat) : Bool :=
  match c.chains[h]? with
  | some ch => ch.epoch == epoch && ((ch.ents[i]?).map (·.remote)).getD false
  | none => false

/-- The replies that an ATTEND collected before it executes count for its tiles, where they were asked for under the epochs of
its snapshot (R253, R254, R261). -/
def Cmd.joinEarly (c : Cmd) : Cmd :=
  (c.early.filter (fun x => c.asksFor x.1 x.2.1 x.2.2.1)).foldl (fun c x => c.countReply x.1 x.2.1 x.2.2.2) { c with early := [] }

/-- A command as it will be once expanded: an estimate for one that is not (R184). -/
def expanded (s : State) (d : Def) (c : Cmd) : Cmd :=
  let c1 := if c.began then c else match beginCmd s d c with
    | .ok _ u _ => (u c).joinEarly
    | _ => c
  if eOp c1.entry == 0x50 && c1.progress == 0 then
    let c2 := { c1 with lanes := c1.lanes.map (fun l => { l with attends := l.op != 2 && l.status == 0 }) }
    match batchAttend s d c2 with
    | .ok _ u _ => u c2
    | _ => c1
  else c1

/-- Twelve times the entries of R184's n for a dome. -/
def share12 (s : State) (sl dome : Nat) : Nat :=
  let t := s.car.live
  12 * owned t (11 + dome) sl + openCount t (11 + dome) * (12 / max 1 (grantedDome s dome).length)

/-- T of R184 in whole ns; none where nothing is served to the slot. -/
def timeLeft (s : State) (d : Def) (sl : Nat) (l : Left) : Option Nat :=
  let e12 := ((grantedDomes d.grant).map (share12 s sl)).sum
  let g := max (8 * guarantee s s.car.live d sl 0) (getSlot s sl).prevMem
  let t1 := if l.clocks == 0 then some 0 else if e12 == 0 then none
    else some (l.clocks * 1000 * 1536 / (s.power.clock * e12))
  let t2 := if l.bytes == 0 then some 0 else if g == 0 then none else some (l.bytes * 1048576 / g)
  match t1, t2 with
  | some a, some b => some (max a b + (if l.frags == 0 then 0 else (getSlot s sl).rtt))
  | _, _ => none

/-- The predicted end is later than a deadline by more than the margin (R184). -/
def predictsLate (s : State) (deadline marginUs : Nat) (ts : List (Option Nat)) : Bool :=
  if ts.any (fun t => t.isNone) then true
  else
    let p := now s + (ts.map (fun t => t.getD 0)).sum
    let diff := (p / 16 % 2 ^ 32 + 2 ^ 32 - deadline) % 2 ^ 32
    diff < 2 ^ 31 && marginUs * 1000 < diff * 16

/-- Tiles that a switch leaves: those that ended and those that run to their end. -/
def switchTiles (noFold : Bool) (l : List Tile) : List Tile :=
  (l.filter (fun t => t.state == .ended || t.state == .issued)).map (fun t =>
    if noFold && t.state == .issued then { t with noFold := true } else t)

/-- The executing command stops issuing at a switch; the epoch advances where a waiting tile is dropped (R178, R185). -/
def switchCur (id ring : Nat) (noFold : Bool) (s : State) : State :=
  match getCur s id ring with
  | none => s
  | some c =>
    let s1 := setCur id ring (fun c => { c with tiles := switchTiles noFold c.tiles }) s
    if c.tiles.any (fun t => t.state == .remoteWait) then advanceFragEpoch id ring s1 else forgetAhead id ring s1

/-- What is left of the commands of a ring that are admitted, in ring order. -/
def jobLeft (s : State) (d : Def) (sl : Nat) (r : CmdRing) : List (Option Nat) :=
  [r.cur, r.nxt].flatMap (fun c => match c with
    | some c => [timeLeft s d sl (leftOf s d sl (expanded s d c))]
    | none => [])

/-- The job's fall-back is due: it has not switched, and its end is predicted too late (R184). -/
def fallDue (s : State) (d : Def) (sl : Nat) (r : CmdRing) (f : Fall) : Bool :=
  !f.switched && s.bell.everLocked && predictsLate s f.jobDeadline f.marginUs (jobLeft s d sl r)

/-- The job's predictor (R184). -/
def evalJob (id ring : Nat) (s : State) : State :=
  match getDef s id, getRing s id ring with
  | some d, some r =>
    match r.fall, r.cur, d.slot with
    | some f, some c, some sl =>
      if !c.listed && c.failed.isNone && fallDue s d sl r f then
        switchCur id ring false (setRing id ring (fun r => { r with
          fall := some { f with switched := true, switchPos := c.pos.toNat } }) s)
      else s
    | _, _, _ => s
  | _, _ => s

/-- A BATCH_STEP that its predictor switches to the shadows: it counts this entry only (R302). -/
def batchDue (s : State) (d : Def) (sl : Nat) (c : Cmd) : Bool :=
  let b := parseBatch c.desc
  eOp c.entry == 0x50 && c.failed.isNone && b.shadowFall && !c.switched &&
  (c.progress == 0 || c.tiles.any (fun t => t.state == .waiting)) && deadlineOf s c.entry != 0 &&
  predictsLate s (deadlineOf s c.entry) b.marginUs [timeLeft s d sl (leftOf s d sl (expanded s d c))]

/-- The predictor of a BATCH_STEP with SHADOW_FALLBACK, from its admission until phase 4 issues its last tile (R302). -/
def evalBatch (id ring : Nat) (s : State) : State :=
  match getDef s id, getRing s id ring with
  | some d, some r =>
    match d.slot with
    | some sl =>
      let s1 := setRing id ring (fun r => { r with
        nxt := r.nxt.map (fun c => if batchDue s d sl c then { c with switched := true } else c) }) s
      match r.cur with
      | some c =>
        if batchDue s d sl c then
          let s2 := setCur id ring (fun c => { c with switched := true }) s1
          if c.progress == 0 then s2 else switchCur id ring true s2
        else s1
      | none => s1
    | none => s
  | _, _ => s

/-- Every evaluation that falls due at an admission or a tile boundary. -/
def evaluate (id ring : Nat) (s : State) : State := evalBatch id ring (evalJob id ring s)

/-! ### Completion (R146, R262, R264, R301, R346) -/

/-- Status, RESULT and DETAIL of a command that succeeds. -/
def finishOf (c : Cmd) : Nat × Nat × Nat :=
  match eOp c.entry with
  | 0x30 => (cOk, 0, 0)
  | 0x40 => (cOk, c.pages % 2 ^ 32 + min c.frags 65535 * 2 ^ 32 + min c.resends 65535 * 2 ^ 48, 0)
  | 0x41 => (cOk, c.folds, 0)
  | 0x20 => (cOk, c.folds, 0)
  | 0x21 => (cOk, c.folds, 0)
  | 0x50 => (batchStatus c, (batchResult c).toNat, batchDetail c)
  | 0x60 => (cOk, c.result.toNat, 0)
  | _ => (if c.lateStatus == 0 then cOk else c.lateStatus, c.result.toNat, 0)

/-- The admitted command behind a failed one is cancelled (R165). -/
def cancelNext (id ring : Nat) (c : Cmd) (st : Nat) (s : State) : State :=
  let ended := match getRing s id ring with
    | some r => r.prior.isSome && !(admittedEntries r).any (fun x => eJobEnd x.2.1)
    | none => true
  if isSuccess st || eJobEnd c.entry || ended || c.listed then s
  else setCur id ring (fun x => { x with failed := some (Fail.of cCancelled (cancelDetail x.entry)) }) s

/-- The executing command ends with a status: its completion, or the next entry of the fall-back list. -/
def endCmd (id ring : Nat) (c : Cmd) (st result detail : Nat) (s : State) : State :=
  if c.listed then endListed id ring st detail s
  else cancelNext id ring c st (completeCur id ring st result detail s)

def failEnd (id ring : Nat) (c : Cmd) (f : Fail) (s : State) : State :=
  let s1 := endCmd id ring c f.status f.result.toNat f.detail (leaveMemory id c (lostRanges c) s)
  if f.status == cAbandoned && isXform c then
    match getDef s1 id with
    | some d => (abandonAll id (abandonFuel d) (xformFences c) 0 s1).2
    | none => s1
  else s1

def successEnd (id ring : Nat) (c : Cmd) (s : State) : State :=
  let o := finishOf c
  endCmd id ring c o.1 o.2.1 o.2.2 (scramble id (usedUp c) s)

/-! ### Settling a ring -/

/-- Applies what a start or a tile's end gives. -/
def applyOut (id ring : Nat) (o : TileOut) (s : State) : State :=
  match o with
  | .ok w u after => after (setCur id ring u (writeAll id w s))
  | .fail f => failCur id ring f s
  | .denied f va => denyCur id ring f va s

/-- Ranges that the start of a command reads: chain lists, chain objects and lane records (R242, R295). -/
def startReads (c : Cmd) : List (Nat × Nat) :=
  match eOp c.entry with
  | 0x40 => (fld c.desc 8 8, c.chains.length * 8) :: c.chains.flatMap chainRanges
  | 0x50 => ((parseBatch c.desc).lanes, c.lanes.length * 64) :: c.lanes.map (fun l => (l.chain, 64))
  | _ => []

/-- Charges reads, or writes, with the walks of their pages. -/
def chargeReads (id : Nat) (l : List (Nat × Nat)) (s : State) : State := chargeRanges id false l (chargeWalks id l s)
def chargeWrites (id : Nat) (l : List (Nat × Nat)) (s : State) : State := chargeRanges id true l (chargeWalks id l s)

/-- What was fetched or asked for ahead of an ATTEND joins its tiles where its stamps still hold; a fragment under another
epoch is forgotten (R253, R254). -/
def joinAhead (id ring : Nat) (s : State) : State :=
  match getCur s id ring, (getDef s id).bind (fun d => d.slot) with
  | some c, some sl =>
    if eOp c.entry != 0x40 then s
    else
      let own (f : Frag) : Bool := f.slot == sl && f.ring == ring && f.pos == c.pos
      let ok (f : Frag) : Bool := c.asksFor f.head f.entry f.epoch
      let asked := ((s.frags.map (·.2)).filter (fun f => own f && ok f)).map (fun f => (f.head, f.entry))
      let c1 := asked.foldl (fun c x => match tileOfEntry c x.1 x.2 with
        | some t => c.setTile t.idx (fun t => { t with asked := t.asked ++ [x.2] })
        | none => c) c.joinEarly
      setCur id ring (fun _ => c1) { s with frags := s.frags.filter (fun f => !own f.2 || ok f.2) }
  | _, _ => s

/-- The executing command begins. -/
def beginCur (id ring : Nat) (d : Def) (c : Cmd) (s : State) : State :=
  let s1 := applyOut id ring (beginCmd s d c) (setCur id ring (fun c => { c with began := true }) s)
  let s2 := match getCur s1 id ring with
    | some c => chargeReads id (startReads c) s1
    | none => s1
  refreshReady id ring (joinAhead id ring s2)

/-- The fall-back list begins once the switched command is at a boundary; the list is read again (R183, R185). -/
def toList (id ring : Nat) (d : Def) (f : Fall) (c : Cmd) (s : State) : State :=
  match (listFault s d f).map (wrapFail s c.entry) with
  | some (.denied x va) => denyCur id ring x va s
  | some (.fail x) => failCur id ring x (setRing id ring (fun r => { r with fall := none }) s)
  | _ =>
    setRing id ring (fun r => { r with cur := none, nxt := none })
      (setRing id ring (fun r => { r with fall := some { f with
        primary := (c.pos, c.entry) :: (match r.nxt with | some x => [(x.pos, x.entry)] | none => []) } })
        (chargeReads id [(f.list, f.count * 64)] (leaveMemory id c (usedUp c)
          { s with frags := s.frags.filter (fun x => !(some x.2.slot == d.slot && x.2.ring == ring)) })))

/-- The next entry of a fall-back list starts, as DEADLINE class with JOB_DEADLINE (R185). -/
def startListed (id ring : Nat) (d : Def) (f : Fall) (s : State) : State :=
  let e0 := peek s d (f.list + f.next * 64) 64
  let skip := setRing id ring (fun r => { r with fall := some { f with next := f.next + 1 } }) s
  if eOp e0 == 1 then skip
  else
    let e := e0.take 4 ++ leBytes 4 f.jobDeadline ++ e0.drop 8
    let pos := (f.primary.head?.map (·.1)).getD 0
    let put (c : Cmd) (s : State) : State := setRing id ring (fun r => { r with cur := some c }) s
    match rangeFault e, readDesc s d e with
    | some o, _ => put { Cmd.admitHead pos e [] with listed := true, failed := some (malformed o) } s
    | none, (some (.denied x va), _) => denyCur id ring x va (put { Cmd.admitHead pos e [] with listed := true } s)
    | none, (some (.fail x), _) => put { Cmd.admitHead pos e [] with listed := true, failed := some x } s
    | none, (_, p) => put { Cmd.admitHead pos e p with armedAt := now s, listed := true, uses := descRanges e p }
        (chargeReads id (descRanges e p) s)

/-- Every tile of the command has ended. -/
def allEnded (c : Cmd) : Bool := c.tiles.all (fun t => t.state == .ended)

/-- A primary entry of a job that has switched. -/
def switchedPrimary (r : CmdRing) (c : Cmd) : Bool :=
  !c.listed && (match r.fall with | some f => f.switched | none => false)

/-- The tile sequencers may start lantern work for a definition: it runs, and its slot has not spent its energy allowance
(R456). -/
def mayExpand (s : State) (d : Def) : Bool :=
  d.state == .running && (match d.slot with | some sl => !(getSlot s sl).held | none => true)

/-- The next thing a ring does without a further event; none where it has nothing to do. -/
def settleStep (id ring : Nat) (s : State) : Option State :=
  match getDef s id, getRing s id ring with
  | some d, some r =>
    if r.state != .active then none
    else match r.cur, r.fall with
      | none, some f =>
        if !f.switched || f.primary.isEmpty then none
        else if f.next < f.count then (if d.state == .running then some (startListed id ring d f s) else none)
        else some (completePrimaries id ring s)
      | none, none => none
      | some c, fall =>
        match c.failed with
        | some f => if atBoundary c then some (failEnd id ring c f s) else none
        | none =>
          match (if switchedPrimary r c then fall else none) with
          | some f => if atBoundary c && d.state == .running then some (toList id ring d f c s) else none
          | none =>
            if !c.began then (if mayExpand s d then some (beginCur id ring d c s) else none)
            else if !allEnded c then none
            else if eOp c.entry == 0x50 && (c.progress == 0 || (c.progress == 1 && c.switched)) then
              if !mayExpand s d then none else some (applyOut id ring (batchAttend s d c) s)
            else some (successEnd id ring c s)
  | _, _ => none

def settleLoop (id ring : Nat) : Nat → State → State
  | 0, s => s
  | fuel + 1, s =>
    match settleStep id ring s with
    | some t => settleLoop id ring fuel t
    | none => s

/-- A ring goes on until it waits for an event: at most two commands end, and at most 64 of a list. -/
def settleRing (id ring : Nat) (s : State) : State := settleLoop id ring 400 (refreshReady id ring s)

/-! ### Aborts (R152) -/

/-- The admitted commands of an `ABORTING` ring complete `CANCELLED` at their tile boundary; one that had failed before the
abort completes with its own cause (R152, R263). -/
def abortSettle (id ring : Nat) (s : State) : State :=
  match (getDef s id).bind (fun d => (mfind d.rings ring).map (fun r => (d, r))) with
  | none => s
  | some (d, r) =>
    if r.state == .aborting && (match r.cur with | some c => atBoundary c | none => true) then
      let s1 := match r.cur with
        | some c => (match c.failed with
          | some f => if f.status == cCancelled then leaveMemory id c (lostRanges c) s else failEnd id ring c f s
          | none => leaveMemory id c (lostRanges c) s)
        | none => s
      let l := ((getRing s1 id ring).map admittedEntries).getD []
      addAborted (boundFn d) l.length
        (setRing id ring (fun r => { r with cur := none, nxt := none, fall := none, jobOpen := false, jobStarted := false
                                            jobFault := false, jobHost := false, cancelRest := false, prior := none })
          (l.foldl (fun s x => decideAdmitted id r.cpl (hCmd ring) x.1 x.2.1 r.base r.log2 cCancelled x.2.2
            (cancelDetail x.2.1) s) s1))
    else s

/-- The command of a ring, executing or admitted behind it, at a position. -/
def cmdAt (s : State) (id ring : Nat) (pos : BitVec 32) : Option Cmd :=
  (getRing s id ring).bind (fun r => [r.cur, r.nxt].findSome? (fun c => match c with
    | some c => if c.pos == pos then some c else none
    | none => none))

def setCmdAt (id ring : Nat) (pos : BitVec 32) (f : Cmd → Cmd) (s : State) : State :=
  setRing id ring (fun r => { r with
    cur := r.cur.map (fun c => if c.pos == pos then f c else c), nxt := r.nxt.map (fun c => if c.pos == pos then f c else c) }) s

/-- A command that has asked for fragments fails: at once if it executes, and else when its turn comes (R260, R262). -/
def failAt (id ring : Nat) (pos : BitVec 32) (f : Fail) (s : State) : State :=
  match getCur s id ring, (getDef s id).bind (fun d => d.slot) with
  | some c, some sl =>
    if c.pos == pos then (if c.failed.isNone then failCur id ring f s else s)
    else setCmdAt id ring pos (fun c => { c with failed := some (c.failed.getD f), early := [] })
      { s with frags := s.frags.filter (fun x => !(x.2.slot == sl && x.2.ring == ring && x.2.pos == pos)) }
  | _, _ => s

/-- A fragment fails its command with `REMOTE_TIMEOUT` (R260, R264). -/
def timeoutFrag (id : Nat) (f : Frag) (s : State) : State :=
  failAt id f.ring f.pos (attFail cRemoteTimeout f.head f.entry true f.qp) s

/-- Fragments of a definition whose QP has left `READY`: they fail their commands at once (R260). -/
def deadFrags (s : State) (d : Def) : List Frag :=
  (s.frags.map (·.2)).filter (fun f => some f.slot == d.slot && f.loadGen == (getSlot s f.slot).loadGen &&
    (match mfind d.qps f.qp with | some q => q.state != .ready | none => true))

def sweepFrags (id : Nat) (s : State) : State :=
  match getDef s id with
  | some d => (deadFrags s d).foldl (fun s f => timeoutFrag id f s) s
  | none => s

/-! ### The head of a command ring -/

/-- Commands of a partition admitted and not completed (R171). -/
def admittedCount (d : Def) : Nat := (d.rings.map (fun p => (admittedEntries p.2).length)).sum

/-- Whether the scheduler admits a further command of the ring: at most one behind the executing one, of the same job. -/
def admits (d : Def) (r : CmdRing) : Bool :=
  admittedCount d < 1024 && (match r.cur, r.nxt with
    | none, _ => (match r.fall with | some f => f.primary.isEmpty | none => true)
    | some c, none => r.jobOpen && !eJobEnd c.entry && c.failed.isNone && r.prior.isNone && !c.listed && !switchedPrimary r c
    | some _, some _ => false)

/-- Fence fields of the entry as its wait stands. -/
inductive WaitState where
  | reached
  | waits
  | abandoned (i : Nat)

def waitState (d : Def) (r : CmdRing) (e : List Byte) : WaitState :=
  if fMode (eWaitFence e) != 1 || r.waitSat then .reached
  else
    let f := getFence d (fIndex (eWaitFence e))
    if f.abandoned then .abandoned (fIndex (eWaitFence e))
    else if reaches f.value (eWaitValue e) then .reached
    else .waits

/-! ### What a tile waits for within its command (R219, R252, R278, R298, R338) -/

def isOpening (k : TileKind) : Bool :=
  match k with
  | .attendOpen => true
  | _ => false

/-- Every tile of lower index has ended. -/
def lowerEnded (c : Cmd) (t : Tile) : Bool := c.tiles.all (fun x => t.idx ≤ x.idx || x.state == .ended)

/-- A chain object and its shadow's, as the object names it. -/
def withShadow (s : State) (d : Def) (va : Nat) : List Nat :=
  let y := peekNat s d (va + 40) 8
  if y == 0 then [va] else [va, y]

/-- Chain objects that a tile changes, shadows among them. -/
def tileChains (s : State) (d : Def) (c : Cmd) (t : Tile) : List Nat :=
  match t.kind with
  | .kv => withShadow s d (kvChainVa c.entry)
  | .phase k first count => (phaseLanes k first count c.lanes).flatMap (fun p => withShadow s d p.2.chain)
  | _ => []

/-- No running tile changes a chain object that this one changes (R278). -/
def chainsFree (s : State) (d : Def) (l : List Nat) : Bool :=
  l.isEmpty || !d.rings.any (fun p => match p.2.cur with
    | some c => c.tiles.any (fun t => t.state == .issued && (tileChains s d c t).any (fun va => l.contains va))
    | none => false)

/-- What a tile of its kind waits for within its command. -/
def kindReady (s : State) (d : Def) (c : Cmd) (t : Tile) : Bool :=
  match t.kind with
  | .gemmCombine row col _ _ => c.tiles.all (fun x => match x.kind with
      | .gemmSplit _ r k _ _ => !(r == row && k == col) || x.state == .ended
      | _ => true)
  | .attendOpen => lowerEnded c t
  | .attend _ _ _ => c.tiles.all (fun x => !isOpening x.kind || x.state == .ended)
  | .attendClose => c.tiles.all (fun x => x.idx == t.idx || x.state == .ended)
  | .phase _ _ _ => lowerEnded c t && chainsFree s d (tileChains s d c t)
  | .kv => chainsFree s d (tileChains s d c t)
  | .reduce _ _ => c.ready.contains ((parseXform c.entry c.desc).chunkOf t)
  | .convert _ _ => c.ready.contains ((parseXform c.entry c.desc).chunkOf t)
  | _ => true

/-- A command has work at hand: it has not begun, a tile runs, or one waits for nothing but an engine or a lantern. -/
def cmdReady (s : State) (d : Def) (c : Cmd) : Bool :=
  !c.began || c.tiles.any (fun t => t.state == .issued || (t.state == .waiting && kindReady s d c t))

/-- A ring is backlogged: it has something ready (R173), which is its executing command's work, or else its head entry. -/
def backlogged (s : State) (d : Def) (r : CmdRing) : Bool :=
  r.state == .active &&
  (match r.cur with
   | some c => cmdReady s d c
   | none => r.head != r.tail && (match mfind d.cpls r.cpl with | some c => decide (1 ≤ cplRoom c) | none => false) &&
     (r.cancelRest || (match waitState d r (entryAt s (boundFn d) r.base r.log2 r.head) with | .waits => false | _ => true)))

/-- The vt of a ring that becomes backlogged: the lowest of the partition's other backlogged rings, if larger (R173). -/
def catchUp (d : Def) (ring : Nat) (r : CmdRing) : Word :=
  match (d.rings.filter (fun p => p.1 != ring && p.2.hot)).map (fun p => p.2.vt) ++
      (if d.serving.isEmpty then [] else [d.servedVt]) with
  | [] => r.vt
  | v :: l =>
    let m := l.foldl (fun a b => if b.toNat < a.toNat then b else a) v
    if r.vt.toNat < m.toNat then m else r.vt

/-- Rings that become backlogged catch up; others are noted as idle (R173). -/
def noteBacklog (id : Nat) (s : State) : State :=
  eachRing id (fun ring s => match getDef s id, getRing s id ring with
    | some d, some r =>
      let b := backlogged s d r
      if b == r.hot then s else setRing id ring (fun r => { r with hot := b, vt := if b then catchUp d ring r else r.vt }) s
    | _, _ => s) s

/-- Every ring of a definition goes on. -/
def settleAll (id : Nat) (s : State) : State :=
  noteBacklog id (eachRing id (fun ring s => abortSettle id ring (settleRing id ring s)) (sweepFrags id s))

/-- The head entry waits on an abandoned fence (R161). -/
def abandonHead (id ring i : Nat) (d : Def) (e : List Byte) (s : State) : State :=
  let next := if fMode (eSignalFence e) == 0 then [] else [fIndex (eSignalFence e)]
  (abandonAll id (abandonFuel d) next 0 (completeHead id ring e cAbandoned i s)).2

/-- Takes the head entry into a reserved completion slot. -/
def takeHead (id ring : Nat) (r : CmdRing) (s : State) : State :=
  setRing id ring (fun r => { r with head := r.head + 1, waitSat := false }) (reserve id r.cpl s)

/-- The head entry is admitted and completes at once. -/
def completeAtOnce (id ring : Nat) (r : CmdRing) (e : List Byte) (st detail : Nat) (s : State) : State :=
  jobEntry id ring (eJobEnd e) (lateStatusOf s e st)
    (decideAdmitted id r.cpl (hCmd ring) r.head e r.base r.log2 st 0 detail (takeHead id ring r s))

/-- The predictor switches at the admission of NOP, FENCE_WAIT or FENCE_SIGNAL (R184, R185): the list is read again, and where
it fails the entry fails (R183); else the entry is the first of the primary entries. -/
def switchAtHead (id ring : Nat) (d : Def) (r : CmdRing) (f : Fall) (e : List Byte) (s : State) : State :=
  let ends (x : Fail) : State :=
    completeAtOnce id ring r e x.status x.detail (setRing id ring (fun r => { r with fall := none }) s)
  match listFault s d f with
  | some (.fail x) => ends x
  | some (.denied x va) => translationFault id va (ends x)
  | _ =>
    chargeReads id [(f.list, f.count * 64)] (setRing id ring (fun x => { x with
      fall := some { f with switched := true, switchPos := r.head.toNat, primary := [(r.head, e)] } }) (takeHead id ring r s))

/-- NOP, FENCE_WAIT or FENCE_SIGNAL is admitted: it completes at once, unless the predictor of its job's fall-back switches at
its admission. -/
def admitPlain (id ring : Nat) (d : Def) (r : CmdRing) (e : List Byte) (s : State) : State :=
  let s1 := jobBegin id ring s
  match r.fall, d.slot with
  | some f, some sl =>
    if fallDue s d sl r f then switchAtHead id ring d r f e s1 else completeAtOnce id ring r e cOk 0 s1
  | _, _ => completeAtOnce id ring r e cOk 0 s1

/-- Ranges that an admission reads: descriptor, list, fall-back descriptor and its list (R183, R350). -/
def admitReads (first : Bool) (e p : List Byte) (f : Option Fall) : List (Nat × Nat) :=
  descRanges e p ++ (if !first || fld e 40 8 == 0 then [] else (fld e 40 8, 32) :: (match f with
    | some f => [(f.list, f.count * 64)]
    | none => []))

/-- A compute command is admitted: its job starts, its descriptor is read (R144, R164, R183). -/
def admitCmd (id ring : Nat) (d : Def) (r : CmdRing) (e : List Byte) (s : State) : State :=
  let first := !r.jobOpen
  let fb0 := if first then readFall s d (fld e 40 8) else (none, none)
  let fb := (fb0.1.map (wrapFail s e), fb0.2)
  let rd := readDesc s d e
  let fault := fb.1.orElse (fun _ => rd.1)
  let c0 := Cmd.admitHead r.head e rd.2
  let c := { c0 with
    armedAt := now s
    uses := descRanges e rd.2
    failed := match fault with
      | some (.fail f) => some f
      | some (.denied f _) => some f
      | _ => none }
  let s1 := chargeReads id (admitReads first e rd.2 fb.2) (jobBegin id ring (takeHead id ring r s))
  let s2 := setRing id ring (fun r => { r with
    fall := if first then fb.2 else r.fall
    cur := if r.cur.isNone then some c else r.cur
    nxt := if r.cur.isNone then none else some c }) s1
  match fault with
  | some (.denied _ va) => translationFault id va (if r.cur.isNone then settleRing id ring s2
      else jobEntry id ring (eJobEnd e) cAccessDenied
        (setRing id ring (fun r => { r with nxt := none })
          (decideAdmitted id r.cpl (hCmd ring) c.pos e r.base r.log2 cAccessDenied
            ((c.failed.map (fun f => f.result.toNat)).getD 0) ((c.failed.map (fun f => f.detail)).getD 0) s2)))
  | _ => evaluate id ring s2

/-- The head entry of a running ring. After a list entry's fault each entry of the job that is fetched completes with that
status (R165, R185; log 91). -/
def headStep (id ring : Nat) (d : Def) (r : CmdRing) (e : List Byte) (s : State) : State :=
  let idle := r.cur.isNone && (match r.fall with | some f => f.primary.isEmpty | none => true)
  let sw := match r.fall with | some f => if f.switched then some f.outcome else none | none => none
  let ended := match sw with | some o => isFaultClass o.1 | none => false
  if r.cancelRest && !ended then
    if idle then completeHead id ring e cCancelled (cancelDetail e) s else s
  else match entryFault s d (!r.jobOpen) e with
    | some o => if idle then refuseHead id ring r e o s else s
    | none =>
      match waitState d r e with
      | .waits => s
      | .abandoned i => if idle then abandonHead id ring i d e s else s
      | .reached =>
        let s1 := setRing id ring (fun r => { r with waitSat := true }) s
        let room := match mfind d.cpls r.cpl with | some c => decide (1 ≤ cplRoom c) | none => false
        match sw with
        | some o => if idle && room then completeAtOnce id ring r e o.1 o.2 s1 else s1
        | none =>
          if isCompute (eOp e) then (if room && admits d r then admitCmd id ring d r e s1 else s1)
          else if idle && room && decide (admittedCount d < 1024) then admitPlain id ring d r e s1
          else s1

/-- Charges the fetch of a ring's head entry when the head moves past it: 64 bytes of the host port (R98). -/
def chargeEntry (id ring : Nat) (head : BitVec 32) (s : State) : State :=
  match getRing s id ring with
  | some r => if r.head == head then s else chargeOwn id 64 false s
  | none => s

/-- A row of the table for command-ring entries: it acts on a head entry of its opcode, or of an opcode that no row has. -/
def ringRow (op slot ring : Nat) (s : State) : State :=
  match inSlot s slot with
  | none => s
  | some (id, d) =>
    if d.state != .running then s
    else
      let s0 := settleAll id s
      match getDef s0 id, getRing s0 id ring with
      | some d, some r =>
        let e := entryAt s0 (boundFn d) r.base r.log2 r.head
        if d.state != .running || r.state != .active || r.head == r.tail || (eOp e != op && cmdOpOk (eOp e)) then s0
        else settleAll id (chargeEntry id ring r.head (headStep id ring d r e s0))
      | _, _ => s0

/-! ### The entries as commands -/

/-- NOP (R141). -/
def execNop (slot ring : Nat) (s : State) : Result := .next (whenOp (ringRow 0x01 slot ring) s)
/-- FENCE_WAIT (R160). -/
def execFenceWait (slot ring : Nat) (s : State) : Result := .next (whenOp (ringRow 0x02 slot ring) s)
/-- FENCE_SIGNAL (R160). -/
def execFenceSignal (slot ring : Nat) (s : State) : Result := .next (whenOp (ringRow 0x03 slot ring) s)
/-- GEMM (R218). -/
def execGemm (slot ring : Nat) (s : State) : Result := .next (whenOp (ringRow 0x30 slot ring) s)
/-- ATTEND (R238). -/
def execAttend (slot ring : Nat) (s : State) : Result := .next (whenOp (ringRow 0x40 slot ring) s)
/-- MERGE (R267). -/
def execMerge (slot ring : Nat) (s : State) : Result := .next (whenOp (ringRow 0x41 slot ring) s)
/-- REDUCE (R340). -/
def execReduce (slot ring : Nat) (s : State) : Result := .next (whenOp (ringRow 0x20 slot ring) s)
/-- CONVERT (R349). -/
def execConvert (slot ring : Nat) (s : State) : Result := .next (whenOp (ringRow 0x21 slot ring) s)
/-- KV_APPEND (R287). -/
def execKvAppend (slot ring : Nat) (s : State) : Result := .next (whenOp (ringRow 0x48 slot ring) s)
/-- KV_COMMIT (R289). -/
def execKvCommit (slot ring : Nat) (s : State) : Result := .next (whenOp (ringRow 0x49 slot ring) s)
/-- KV_ROLLBACK (R290). -/
def execKvRollback (slot ring : Nat) (s : State) : Result := .next (whenOp (ringRow 0x4A slot ring) s)
/-- KV_TRIM (R291). -/
def execKvTrim (slot ring : Nat) (s : State) : Result := .next (whenOp (ringRow 0x4B slot ring) s)
/-- BATCH_STEP (R298). -/
def execBatchStep (slot ring : Nat) (s : State) : Result := .next (whenOp (ringRow 0x50 slot ring) s)
/-- LANTERN_RUN (R234). -/
def execLanternRun (slot ring : Nat) (s : State) : Result := .next (whenOp (ringRow 0x60 slot ring) s)

/-- ARRIVAL_LIMIT_EXPIRY (R345). -/
def arrivalRow (slot ring : Nat) (s : State) : State :=
  match inSlot s slot with
  | none => s
  | some (id, _) => settleAll id (arrivalLimit id ring (refreshReady id ring s))

def execArrivalLimitExpiry (slot ring : Nat) (s : State) : Result := .next (whenOp (arrivalRow slot ring) s)

end Sys2Proof.Machine
end

