-- ==== Sys2Proof/Machine/Tiles.lean ====
section
/-! DEFINITION. Tiles on engines and lanterns, and the writing of completions (R99, R146, R147, R168 to R173, R225, R234,
R252). -/

namespace Sys2Proof.Machine

/-! ### Which tile may be issued (R168, R171, R219, R225, R234, R252, R278, R298, R338) -/

/-- Tiles that run on a lantern. -/
def onLanternLane (k : TileKind) : Bool :=
  match k with
  | .gemmSplit _ _ _ _ _ => false
  | .attend _ _ _ => false
  | .reduce _ _ => false
  | .convert _ _ => false
  | _ => true

def isRoutine (k : TileKind) : Bool :=
  match k with
  | .routine _ => true
  | _ => false

/-- The instance that a routine tile runs. -/
def instanceOf (k : TileKind) : Nat :=
  match k with
  | .routine i => i
  | _ => 0

/-- Lantern tiles of a definition that run on a dome. -/
def lanternsBusy (d : Def) (dome : Nat) (routines : Bool) : Nat :=
  ((liveTiles d).filter (fun t => t.state == .issued && t.dome == dome && onLanternLane t.kind &&
    (!routines || isRoutine t.kind))).length

/-- Vendor work of the partition is queued on a dome: it runs there, or waits on a ring that is homed there (R9, R234). -/
def vendorQueued (d : Def) (dome : Nat) : Bool :=
  d.rings.any (fun p => match p.2.cur with
    | some c => c.began && c.tiles.any (fun t => onLanternLane t.kind && !isRoutine t.kind &&
        ((t.state == .waiting && p.2.homeDome == dome) || (t.state == .issued && t.dome == dome)))
    | none => false)

/-- A lantern of the dome is free for a tile (R228, R234). -/
def lanternRoom (d : Def) (dome : Nat) (k : TileKind) : Bool :=
  let n := nth d.grant.lanterns dome 0
  if !onLanternLane k then true
  else
    lanternsBusy d dome false < n &&
    (!isRoutine k || (if 2 ≤ n then lanternsBusy d dome true < n - 1 else !vendorQueued d dome))

/-- A tile may be issued on a dome. -/
def tileReady (s : State) (d : Def) (dome : Nat) (lantern : Bool) (c : Cmd) (t : Tile) : Bool :=
  t.state == .waiting && onLanternLane t.kind == lantern && t.idx ≤ lowestOpen c + 64 && kindReady s d c t &&
  drumHeld d dome + t.drum ≤ drumOn d.grant dome && lanternRoom d dome t.kind

/-- The place of a tile in the order of issue: by index, or by the order in which chunks became ready (R338). -/
def issueKey (c : Cmd) (t : Tile) : Nat :=
  if isXform c then c.ready.idxOf ((parseXform c.entry c.desc).chunkOf t) * 2 ^ 32 + t.idx else t.idx

/-- The next tile of a ring's executing command for a dome. -/
def nextTile (s : State) (d : Def) (dome : Nat) (lantern : Bool) (r : CmdRing) : Option (Cmd × Tile) :=
  match r.cur with
  | none => none
  | some c =>
    if r.state == .active && c.began && c.failed.isNone && !switchedPrimary r c then
      ((sortBy (issueKey c) (c.tiles.filter (tileReady s d dome lantern c))).head?).map (fun t => (c, t))
    else none

/-! ### The choice of partition and ring (R99, R172) -/

structure Cand where
  ring : Nat
  c : Cmd
  t : Tile
  vt : Nat

/-- The ring number of the served fragments: one further ring behind those granted (R258). -/
def servedRing (d : Def) : Nat := d.grant.cmdRings

/-- The class and deadline of a served fragment, as an entry's: DEADLINE where the fragment carries a deadline (R258). -/
def servingEntry (x : Serving) : List Byte :=
  [0x40, 0, 0, 0] ++ leBytes 4 (fldBe x.body 44 4) ++ List.replicate 56 0

/-- The next tile of a served fragment. -/
def servingTile (x : Serving) : Option Tile :=
  x.parts.head?.map (fun p =>
    { idx := x.qp, kind := p.1, state := .waiting, dome := 0, lane := 0, drum := p.2.1, clocks := p.2.2, asked := [], bad := [], replies := 0
      acc := [], loc := [], noFold := false, lantern := none })

/-- Served fragments with a tile for a dome. -/
def servingCands (d : Def) (dome : Nat) : List Cand :=
  d.serving.filterMap (fun x => match servingTile x with
    | some t =>
      if x.tile.isNone && drumHeld d dome + t.drum ≤ drumOn d.grant dome then
        some { ring := servedRing d, c := Cmd.admitHead 0 (servingEntry x) [], t := t, vt := d.servedVt.toNat }
      else none
    | none => none)

def candidates (s : State) (d : Def) (dome : Nat) (lantern : Bool) : List Cand :=
  d.rings.filterMap (fun p => (nextTile s d dome lantern p.2).map (fun x =>
    { ring := p.1, c := x.1, t := x.2, vt := p.2.vt.toNat })) ++ (if lantern then [] else servingCands d dome)

/-- How soon a deadline falls, as a sort key (R81). -/
def deadlineKey (s : State) (e : List Byte) : Nat :=
  (deadlineOf s e + 2 ^ 31 + 2 ^ 32 - now s / 16 % 2 ^ 32) % 2 ^ 32

/-- The ring of R172. -/
def chooseRing (s : State) (l : List Cand) : Option Cand :=
  let cls (k : Nat) : List Cand := l.filter (fun x => classOfEntry s x.c.entry == k)
  ((sortBy (fun x => deadlineKey s x.c.entry) (cls 2)).head?).orElse (fun _ =>
    ((sortBy (fun x => x.vt) (cls 1)).head?).orElse (fun _ => (sortBy (fun x => x.vt) (cls 0)).head?))

/-- How far a slot lies below its share of a dome over the window, times 12 (R99). -/
def shortfall (s : State) (sl dome : Nat) : Int :=
  ((share12 s sl dome * 1024 : Nat) : Int) - 12 * (mfind (getSlot s sl).served (11 + dome)).getD 0

/-- Partitions that may issue a tile on a dome: the running ones that are granted it, have a tile for it, and own entries or
share `OPEN` ones (R87, R90, R99). Nobody starts a tile in a carillon slot that is `EMPTY` for the dome. A lantern serves
only the slot that it is assigned to (R228). -/
def eligible (s : State) (dome lane : Nat) : List (Nat × Nat × Def) :=
  sortBy (fun x => x.1) (s.defs.filterMap (fun p => match p.2.slot with
    | some sl =>
      if p.2.state == .running && bit p.2.grant.domeMask dome && !(getSlot s sl).held && 0 < share12 s sl dome &&
          ownerNow s (11 + dome) != ownerEmpty && (lane < 8 || (getSlot s sl).lanes.contains (8 * dome + (lane - 8))) &&
          !(candidates s p.2 dome (decide (8 ≤ lane))).isEmpty then some (sl, p.1, p.2) else none
    | none => none))

/-- The partition furthest below its share; the lowest slot of equals. -/
def choosePart (s : State) (dome : Nat) (l : List (Nat × Nat × Def)) : Option (Nat × Nat × Def) :=
  match l with
  | [] => none
  | a :: l => some (l.foldl (fun b x => if shortfall s b.1 dome < shortfall s x.1 dome then x else b) a)

/-- A tile runs on an engine or lantern. -/
def laneBusy (s : State) (dome lane : Nat) : Bool :=
  s.defs.any (fun p => (liveTiles p.2).any (fun t => t.state == .issued && t.dome == dome && t.lane == lane))

/-- Changes a served fragment, which its QP names. -/
def setServing (id qp : Nat) (f : Serving → Serving) (s : State) : State :=
  setDef s id (fun d => { d with serving := d.serving.map (fun x => if x.qp == qp then f x else x) })

/-- A tile of a served fragment is issued; the pages that it reads are charged to the sibling (R258). -/
def issueServing (id dome lane : Nat) (d : Def) (t : Tile) (s : State) : State :=
  let pages := (d.serving.filter (fun x => x.qp == t.idx)).flatMap (fun x => match t.kind with
    | .attend _ first n => ((x.ents.drop first).take n).map (fun e => (e.addr, pageUsed e.fmt (fldBe x.body 12 2)))
    | _ => [])
  chargeReads id pages
    (setServing id t.idx (fun x => { x with tile := some { t with state := .issued, dome := dome, lane := lane } }) s)

/-- A chosen tile is issued, and what it reads is charged; a routine is loaded. -/
def issueTile (id ring dome lane : Nat) (d : Def) (c : Cmd) (t : Tile) (s : State) : State :=
  let pay (s : State) : State := match d.slot with | some sl => chargeReads id (tileReads s sl c t) s | none => s
  let put (l : Option Lantern) (s : State) : State :=
    let drum := match d.slot with | some sl => broughtIn s sl c t | none => []
    let bad := match d.slot with | some sl => drum.filter (markedBad s sl c t) | none => []
    setCur id ring (fun c => c.setTile t.idx (fun t => { t with
      state := .issued, dome := dome, lane := lane, lantern := l, asked := t.asked ++ drum, bad := bad })) s
  if isRoutine t.kind then
    let r := routineLoad s d c.entry (instanceOf t.kind)
    match r.1 with
    | some f => settleAll id (applyOut id ring f s)
    | none => put (some r.2) (pay (crcFresh dome lane s))
  else put none (pay s)

/-- Every running partition's rings go on first. -/
def settleEvery (s : State) : State :=
  (s.defs.map (·.1)).foldl (fun s id => match getDef s id with
    | some d => if d.state == .running then settleAll id s else s
    | none => s) s

/-- TILE_ISSUE: an engine (lanes 0 to 7) or a lantern (8 to 15) of a dome becomes free (R172). -/
def tileIssue (dome lane : Nat) (s : State) : State :=
  if 16 ≤ dome || 16 ≤ lane || s.domes.fenced.getLsbD dome || laneBusy s dome lane then s
  else
    let s0 := settleEvery s
    let lantern := decide (8 ≤ lane)
    match choosePart s0 dome (eligible s0 dome lane) with
    | none => s0
    | some (_, id, d) =>
      match chooseRing s0 (candidates s0 d dome lantern) with
      | none => s0
      | some x =>
        if x.ring == servedRing d then issueServing id dome lane d x.t s0 else issueTile id x.ring dome lane d x.c x.t s0

def execTileIssue (dome lane : Nat) (s : State) : Result := .next (whenOp (tileIssue dome lane) s)

/-! ### The end of a tile (R169, R170, R172) -/

/-- An engine is released after its clocks: the ring's virtual time and the dome time served, an eighth of the engine time,
rounded down to whole ns for each tile (R98, R172; log 67). -/
def releaseEngine (id ring : Nat) (t : Tile) (s : State) : State :=
  if onLanternLane t.kind then s
  else
    match (getDef s id).bind (fun d => d.slot), getRing s id ring with
    | some sl, some _ =>
      charge sl (11 + t.dome) (t.clocks * 1000 / s.power.clock / 8)
        (setRing id ring (fun r => { r with vt := r.vt + BitVec.ofNat 64 (t.clocks * 256 / r.weight) }) s)
    | _, _ => s

/-- Adds the status entries that fall due to what a tile of phase 4 writes (R300). -/
def withStatuses (s : State) (d : Def) (c : Cmd) (t : Tile) (o : TileOut) : TileOut :=
  if eOp c.entry != 0x50 then o
  else
    let w2 := statusWrites c (lanesEnding c (attOf c) t)
    match o with
    | .ok w u after =>
      (match writesFail s d (w2.map (fun x => (x.1, x.2.length))) with
       | some f => attAccess (headless s) noEntry f
       | none => .ok (w ++ w2) u after)
    | x => x

/-- What a tile that ends gives, once an attend tile has all its replies. -/
def tileOut (s : State) (id : Nat) (d : Def) (c : Cmd) (t : Tile) (order : List Nat) : TileOut :=
  match t.kind with
  | .gemmSplit p r k mt nt => gemmSplitEnd s id d (parseGemm c.desc c.entry) p r k mt nt
  | .gemmCombine r k mt nt => gemmCombineEnd s id d (parseGemm c.desc c.entry) r k mt nt
  | .attendOpen => withStatuses s d c t (attOpenEnd s d (attOf c))
  | .attend h _ _ => withStatuses s d c t (foldOut s d (attOf c) h (joinReplies (attOf c).dim t.loc t.acc))
  | .attendClose => withStatuses s d c t (attCloseEnd s d (attOf c))
  | .merge first n => mergeEnd s id d c.desc first n order
  | .reduce first n => xformEnd s id d c first n order
  | .convert first n => xformEnd s id d c first n order
  | .kv => kvEnd s id d c.entry
  | .phase k first n => phaseEnd s id d c t.idx k first n
  | .routine i => match t.lantern with
    | some l => routineEnd s id d i l
    | none => .ok [] (fun c => c) (fun s => s)

/-- A tile without chains whose drum holds a page marked poisoned fails its command (R375). -/
def drumOut (s : State) (c : Cmd) (t : Tile) (o : TileOut) : TileOut :=
  match t.kind, t.bad, o with
  | .attend _ _ _, _, _ => o
  | _, page :: _, .ok _ _ _ => wrapFail s c.entry (poisonFail page)
  | _, _, _ => o

/-- A tile enters `ENDED`: it writes, unless its command has failed or switched; then everything that waited goes on. -/
def tileEnded (id ring : Nat) (c : Cmd) (t : Tile) (order : List Nat) (s : State) : State :=
  match getDef s id with
  | none => s
  | some d =>
    let s1 := setCur id ring (fun c => c.setTile t.idx (fun t => { t with state := .ended, acc := [], loc := [] })) s
    let s2 := if t.noFold || c.failed.isSome then s1
      else xformProgress id ring (applyOut id ring (drumOut s1 c t (tileOut s1 id d c t order))
        (chargeWrites id (tileWrites c t) s1))
    settleAll id (evaluate id ring s2)

/-- A tile of a switched job, or one whose ring's job has gone over to its list, drops what it waits for (R185). -/
def tileDropped (id ring : Nat) (t : Tile) (s : State) : State :=
  settleAll id (advanceFragEpoch id ring
    (setCur id ring (fun c => c.setTile t.idx (fun t => { t with state := .dropped, acc := [], loc := [] })) s))

/-- The local end of an attend tile: its own triples, then its replies or the wait for them. -/
def attendLocalEnd (id ring : Nat) (d : Def) (r : CmdRing) (c : Cmd) (t : Tile) (h first count : Nat) (s : State) : State :=
  let ch := headChain c h
  let ents := tileEnts ch first count
  if t.noFold || c.failed.isSome then tileEnded id ring c t [] s
  else
    let l := attLocal s id d (attOf c) c t.bad ch h first count
    let t1 := { t with loc := l.1 }
    let s1 := setCur id ring (fun c =>
      { c.setTile t.idx (fun t => { t with loc := l.1 }) with pages := c.pages + (ents.filter (fun e => !e.remote)).length }) s
    match l.2 with
    | some f => tileEnded id ring { c with failed := some (malformed 0) } t1 [] (applyOut id ring f s1)
    | none =>
      if t.replies == (ents.filter (fun e => e.remote)).length then
        (match getCur s1 id ring with
         | some c1 => tileEnded id ring c1 t1 [] s1
         | none => s1)
      else if switchedPrimary r c then tileDropped id ring t s1
      else setCur id ring (fun c => c.setTile t.idx (fun t => { t with state := .remoteWait })) s1

/-- The chains whose epoch a tile advances if it ends now (R284): what a KV command and each lane of a phase would do. -/
def advances (s : State) (id : Nat) (d : Def) (c : Cmd) (t : Tile) : List Nat :=
  let late (o : TileOut) : Bool := match o with | .ok _ u _ => (u c).lateStatus != 0 | _ => false
  match t.kind with
  | .kv => if kvAdvances c.entry || (bit (fld c.entry 34 1) 0 && late (kvEnd s id d c.entry)) then [kvChainVa c.entry] else []
  | .phase k first n =>
    let after := (phaseWork id c k first n s).lanes
    (phaseLanes k first n c.lanes).filterMap (fun p =>
      let st := (after[p.1]?.map (·.status)).getD 0
      if k == 1 || (k == 3 && ((p.2.undo != 0 && st != 0x18) || st == 0x11)) then some p.2.chain else none)
  | _ => []

/-- A change that advances an epoch waits 2 µs after the last one on the chain (R284). -/
def tooSoon (s : State) (id : Nat) (d : Def) (c : Cmd) (t : Tile) : Bool :=
  (advances s id d c t).any (epochTooSoon s id)

/-- TILE_LOCAL_END (R169). `order` is the order in which a tile's reads return. -/
def tileLocalEnd (slot ring tile : Nat) (order : List Nat) (s : State) : State :=
  match inSlot s slot with
  | none => s
  | some (id, d) =>
    match mfind d.rings ring with
    | none => s
    | some r =>
      match r.cur with
      | none => s
      | some c =>
        match c.tile tile with
        | none => s
        | some t =>
          let runs := match t.lantern with | some l => l.result.isNone | none => false
          if t.state != .issued || runs || tooSoon s id d c t then s
          else
            let s1 := releaseEngine id ring t s
            match t.kind with
            | .attend h first count => attendLocalEnd id ring d r c t h first count s1
            | _ => tileEnded id ring c t order s1

/-! ### Writing a completion (R146, R147) -/

/-- DETAIL of a completion whose entry is read only now (R264). -/
def pendDetail (p : Pend) (e : List Byte) : Nat :=
  if p.entry.isNone && p.status == cCancelled then cancelDetail e else p.detail

/-- The 32 bytes of a completion entry. -/
def completionBytes (p : Pend) (e : List Byte) (phase : Bool) : List Byte :=
  leBytes 2 (eTag e) ++ leBytes 1 p.status ++ leBytes 1 (eOp e) ++ leBytes 4 p.source ++ leBytes 8 p.bellAt.toNat ++
  leBytes 8 p.result.toNat ++ leBytes 4 (pendDetail p e) ++ leBytes 2 p.pos.toNat ++
  leBytes 1 (bitAt phase 0 + bitAt (eJobEnd e) 1) ++ [0]

/-- A slot of the completion ring is free. -/
def cplHasSlot (c : CplRing) : Bool := (c.wcount - c.head).toNat < 2 ^ c.log2

/-- Bytes of CONTROL requests that a host port's owner has issued in the present carillon slot. -/
def hostControl (s : State) (port : Nat) : Nat :=
  if s.fabric.slotNo == now s / 128 then (mfind s.fabric.hostCtl port).getD 0 else 0

/-- A label has had its turn on a host port in the present `OPEN` slot. -/
def hostTurnTaken (s : State) (slot port : Nat) : Bool :=
  s.fabric.slotNo == now s / 128 && s.fabric.hostTurns.contains (port * 256 + slot)

/-- The present carillon slot carries a CONTROL write of `n` bytes to a slot's host port: an `OPEN` entry once for each label,
and one that the slot owns up to 1/16 of its capacity (R83, R85, R90). CONTROL traffic is never lent an entry (R99). -/
def hostMay (s : State) (slot port n : Nat) : Bool :=
  if ownerNow s (1 + port) == ownerOpen then !hostTurnTaken s slot port
  else ownsNow s slot (1 + port) && decide (hostControl s port + hostCost port n true ≤ 1024)

/-- What such a write takes of the present carillon slot. -/
def noteHost (slot port n : Nat) (s : State) : State :=
  if ownerNow s (1 + port) == ownerOpen then
    { s with fabric := { s.fabric with hostTurns := insNat (port * 256 + slot) s.fabric.hostTurns } }
  else { s with fabric := { s.fabric with hostCtl := mput s.fabric.hostCtl port (hostControl s port + hostCost port n true) } }

/-- The completion that a completion ring may write: its definition, the ring, the oldest decided completion and those after it.
While a slot is `SCRUBBING` it has no DMA (R123), and the DMA of a confidential definition whose TDI is in `ERROR` has stopped
(R406). -/
def cplNext (s : State) (slot cpl : Nat) : Option ((Nat × Def) × CplRing × Pend × List Pend) :=
  match inSlot s slot with
  | none => none
  | some (id, d) =>
    match mfind d.cpls cpl with
    | none => none
    | some c =>
      match c.waiting with
      | [] => none
      | p :: rest =>
        if !cplHasSlot c || d.state == .scrubbing || (d.grant.confidential && (getFn s (boundFn d)).tdi == .error) then none
        else some ((id, d), c, p, rest)

/-- The oldest decided completion is written and charged, then its interrupt raised. An entry that completes without admission is
read for it (R147). -/
def cplWrite (slot cpl : Nat) (s : State) : State :=
  match cplNext s slot cpl with
  | none => s
  | some ((id, d), c, p, rest) =>
    let fn := boundFn d
    let e := p.entry.getD (entryAt s fn p.base p.log2 p.pos)
    let phase := c.wcount.toNat / 2 ^ c.log2 % 2 == 0
    let s1 := hostWrite s fn (c.base + c.wcount.toNat % 2 ^ c.log2 * 32) (completionBytes p e phase)
    let s2 := (if p.entry.isNone then chargeHost slot (portOf fn) 64 false else fun s => s) (chargeHost slot (portOf fn) 32 true
      (setCpl id cpl (fun c => { c with wcount := c.wcount + 1, waiting := rest }) s1))
    raise fn (eIrq e || !(p.status == cOk || p.status == cOkFallback)) (BitVec.ofNat 11 c.vector) s2

/-- COMPLETION_WRITE: the oldest decided completion is written, where the present carillon slot carries it on the host port. -/
def completionWrite (slot cpl : Nat) (s : State) : State :=
  match cplNext s slot cpl with
  | none => s
  | some ((_, d), _) =>
    let port := portOf (boundFn d)
    if hostMay s slot port 32 then noteHost slot port 32 (cplWrite slot cpl s) else s

def execCompletionWrite (slot cpl : Nat) (s : State) : Result := .next (whenOp (completionWrite slot cpl) s)

end Sys2Proof.Machine
end

