-- ==== Sys2Proof/Machine/Wire.lean ====
section
/-! DEFINITION. The sending half of a queue pair: paths, congestion control, messages, bursts, acknowledgements received,
losses and completions (R310, R318 to R330), and the ACKs that the receiving half owes (R309, R324). -/

namespace Sys2Proof.Machine

/-! ### Sequence numbers (R322) -/

/-- The 48-bit value nearest an expected count whose low 32 bits are given. -/
def extendPsn (expected p : Nat) : Nat :=
  let d := (p + 2 ^ 32 - expected % 2 ^ 32) % 2 ^ 32
  if d < 2 ^ 31 then (expected + d) % 2 ^ 48 else (expected + d + 2 ^ 48 - 2 ^ 32) % 2 ^ 48

/-- Message bytes of one packet. -/
def payloadAt (c : List Byte) (m : Msg) (idx : Nat) : List Byte := (m.data.drop (idx * fullPayload c)).take (fullPayload c)

/-- The field of bytes 24 to 31: REMOTE_VA, or REQ_PSN of a response (R304). -/
def midField (m : Msg) : Nat := if 0x20 ≤ m.op then m.reqPsn % 2 ^ 32 else m.remoteVa

/-- SND_UNA: the lowest PSN not acknowledged. -/
def lowestUnacked (q : Qp) : Nat := (q.sent.map (fun x => x.psn)).foldl min (nextToSend q)

/-! ### Paths (R326) -/

def qdOf (g : Cong) (p : Nat) : Int := nth g.qd p 0
def suspendedAt (g : Cong) (p : Nat) : Nat := nth g.suspended p 0

def pathEligible (q : Qp) (p : Nat) : Bool :=
  suspendedAt q.cong p == 0 && qdOf q.cong p ≤ ((2 * tTarget q.conn * 65536 : Nat) : Int)

/-- The paths in rotation after the last one used. -/
def rotation (q : Qp) : List Nat := (List.range (cnPaths q.conn)).map (fun i => (q.cong.lastPath + 1 + i) % cnPaths q.conn)

/-- The first of those with the least key. -/
def leastBy (key : Nat → Int) : List Nat → Option Nat
  | [] => none
  | a :: l => some (l.foldl (fun b x => if key x < key b then x else b) a)

/-- The path of a burst. -/
def choosePath (q : Qp) : Nat :=
  let l := rotation q
  ((l.find? (pathEligible q)).orElse (fun _ =>
    (leastBy (qdOf q.cong) (l.filter (fun p => suspendedAt q.cong p == 0))).orElse (fun _ =>
      leastBy (fun p => ((suspendedAt q.cong p : Nat) : Int)) l))).getD 0

/-- The path of a packet sent again: another eligible one when there is one. -/
def resendPath (q : Qp) (old : Nat) : Nat :=
  ((rotation q).find? (fun p => p != old && pathEligible q p)).getD (if pathEligible q old then old else choosePath q)

/-! ### Congestion control (R327 to R329) -/

/-- A sample enters those of the last 10 s that may still be the smallest. -/
def pushMin (t : Nat) (v : Int) (l : List (Nat × Int)) : List (Nat × Int) :=
  l.filter (fun x => t ≤ x.1 + 10000000000 && x.2 < v) ++ [(t, v)]

def minOf (l : List (Nat × Int)) : Int := (l.head?.map (·.2)).getD 0

/-- RTO at its start (R325). -/
def rtoStart (g : Cong) : Nat :=
  match g.srtt with
  | some x => max 20000 (x + 4 * g.rttvar)
  | none => 20000

/-- A round-trip sample (R325): the first one is taken as it stands, with half of it as its variation (log 48). -/
def rttSample (g : Cong) (r : Nat) : Cong :=
  match g.srtt with
  | none => { g with srtt := some r, rttvar := r / 2 }
  | some x =>
    let dev := if x < r then r - x else x - r
    { g with rttvar := (3 * g.rttvar + dev) / 4, srtt := some ((7 * x + r) / 8) }

def cutHold (g : Cong) (t : Nat) : Nat := t + g.srtt.getD 0

/-- An ACK on a path: its delay sample, then W (R327, R328). -/
def ackCong (c : List Byte) (t path pkts ce : Nat) (owd : Option Int) (echo acked : Nat) (g : Cong) : Cong :=
  let base := match owd with
    | some v => setNth g.base path (pushMin t v)
    | none => g.base
  let trip : Int := (t : Int) - echo
  let minrtt := setNth g.minrtt path (pushMin t trip)
  let d : Int := match owd with
    | some v => (v - minOf (nth base path [])) * 65536
    | none => (trip - minOf (nth minrtt path [])) * 32768
  let alpha := if 0 < pkts then ((g.alpha : Int) + ((ce * 65536 / pkts : Nat) - (g.alpha : Int)) / 16).toNat else g.alpha
  let qd := setNth g.qd path (fun x => x + (d - x) / 8)
  let cur := nth qd path 0
  let target : Int := ((tTarget c * 65536 : Nat) : Int)
  let free := decide (g.hold ≤ t)
  let slow := decide (target < cur)
  let cutW :=
    if 0 < ce then g.w * (131072 - alpha) / 131072
    else
      let num := (5 * cur - 4 * (cur - target)).toNat
      let den := (5 * cur).toNat
      if 2 * num < den then g.w / 2 else g.w * num / den
  let cut := free && (decide (0 < ce) || slow)
  let w1 := if cut then cutW else g.w
  let w2 := if ce == 0 && !slow then w1 + aiBytes c * acked * 4294967296 / w1 else w1
  { g with
    base := base, minrtt := minrtt, alpha := alpha, qd := qd, hold := if cut then cutHold g t else g.hold
    w := min (max w2 (fullPayload c * 65536)) (wMax c * fullPayload c * 65536) }

/-- A loss (R328). -/
def lossCong (c : List Byte) (t : Nat) (g : Cong) : Cong :=
  if g.hold ≤ t then { g with w := max (g.w / 2) (fullPayload c * 65536), hold := cutHold g t } else g

/-- The retransmission timer runs while a packet waits for its acknowledgement (R325). -/
def armTimer (t : Nat) (q : Qp) : Qp :=
  { q with cong := { q.cong with timer := if q.sent.isEmpty then none else some (t + q.cong.rto) } }

/-! ### Bursts (R310, R330) -/

/-- Sends the segments of a burst one by one, as Amimet does without large sends. -/
def sendSegments (slot : Nat) (q : Qp) (cls path : Nat) : List (List Byte × List Byte) → State → State
  | [], s => s
  | (h, b) :: l, s => sendSegments slot q cls path l (sendFrame slot q cls path h b s)

/-- One large send (R47, R48, R310): the header of ordinal 0 and the segments' bodies, with the sideband that tells the MAC how
to cut it. -/
def sendLarge (slot : Nat) (q : Qp) (cls path : Nat) (l : List (List Byte × List Byte)) (s : State) : State :=
  match l with
  | [] => s
  | (h, b) :: _ =>
    let lower := lowerLayers q.conn path (h ++ b)
    let lso : Lso := { hdrLen := lower.length + 48, segLen := fullPayload q.conn + 20, ordOffset := lower.length + 2 }
    sendHeld { port := cnPort q.conn, slot := slot, cls := cls, lso := some lso, lower := lower, hdr := h
               body := l.flatMap (·.2) } s

/-- A burst of packets of one message leaves. -/
def sendBurst (slot : Nat) (d : Def) (q : Qp) (m : Msg) (n path : Nat) (s : State) : State :=
  let first := m.firstPsn + m.released
  let cls := classOfEntry s m.entry
  let l := (List.range n).map (fun i =>
    dataPacket s d q m.op i first (first + i) path 0 m.sendSeq (midField m) m.released m.len false
      (payloadAt q.conn m (m.released + i)))
  if s.pins.lsoEn.getLsbD (cnPort q.conn) then sendLarge slot q cls path l s
  else sendSegments slot q cls path l s

/-- Payload bytes sent and not acknowledged. -/
def unackedBytes (q : Qp) : Nat := (q.sent.map (fun x => x.bytes)).sum

/-- Bytes released over the last SRTT (R330). -/
def recentBytes (q : Qp) (t : Nat) : Nat :=
  ((q.cong.window.filter (fun x => match q.cong.srtt with | some r => decide (t < x.1 + r) | none => false)).map (·.2)).sum

/-- Payload bytes of the next `n` packets of a message. -/
def burstBytes (q : Qp) (m : Msg) (n : Nat) : Nat :=
  ((List.range n).map (fun i => (payloadAt q.conn m (m.released + i)).length)).sum

/-- The sender's own conditions on a burst of `n` packets; none goes past the last PSNs that it uses (R322). -/
def burstFits (q : Qp) (t : Nat) (m : Msg) (n : Nat) : Bool :=
  let b := burstBytes q m n
  (unackedBytes q + b) * 65536 ≤ q.cong.w && m.firstPsn + m.released + n ≤ lowestUnacked q + 1024 &&
  (recentBytes q t + b) * 262144 ≤ 5 * q.cong.w && m.firstPsn + m.released + n + 1024 ≤ 2 ^ 48

/-- The largest burst that may leave; none where not even one packet may. -/
def burstSize (q : Qp) (t : Nat) (m : Msg) : Option Nat :=
  let k := min (burstLimit q.conn) (m.pkts - m.released)
  ((List.range k).map (fun i => k - i)).find? (burstFits q t m)

/-- The packets of a burst enter the list of those sent. -/
def noteSent (t path n : Nat) (m : Msg) (q : Qp) : Qp :=
  let l := (List.range n).map (fun i =>
    ({ psn := m.firstPsn + m.released + i, path := path, tries := 0, at_ := t
       bytes := (payloadAt q.conn m (m.released + i)).length, idx := m.released + i, firstPsn := m.firstPsn } : Sent))
  let bytes := (l.map (fun x => x.bytes)).sum
  armTimer t { q with
    sent := q.sent ++ l
    msgs := q.msgs.map (fun x => if x.firstPsn == m.firstPsn then { x with released := x.released + n } else x)
    cong := { q.cong with
      lastPath := path
      window := q.cong.window.filter (fun x => match q.cong.srtt with | some r => decide (t < x.1 + r) | none => false) ++
        [(t, bytes)] } }

/-- The burst that a QP's own conditions let go: the message and its packets. -/
def burstOf (s : State) (q : Qp) : Option (Msg × Nat) :=
  if q.state == .ready then (unreleased q).bind (fun m => (burstSize q (now s) m).map (fun n => (m, n))) else none

def burstRank (s : State) (m : Msg) : Nat := classRank s (classOfEntry s m.entry) (eDeadline m.entry)

/-- Bytes that a network port has carried in the present carillon slot. -/
def netSpent (s : State) (port : Nat) : Nat :=
  if s.fabric.slotNo == now s / 128 then (mfind s.fabric.netUsed port).getD 0 else 0

/-- The slot's egress ownership and the buttress let a frame start on a port now: an entry that the slot owns, or an `OPEN`
one, not used up yet (R90, R98, R330; log 72). -/
def egressOpen (s : State) (slot port : Nat) : Bool :=
  (ownsNow s slot (3 + port) || ownerNow s (3 + port) == ownerOpen) && netSpent s port < 12800

/-- No other burst of the slot goes before this one on its port: a higher class, or an earlier deadline (R84). -/
def firstOnPort (s : State) (d : Def) (slot : Nat) (q : Qp) (m : Msg) : Bool :=
  d.qps.all (fun x => match burstOf s x.2 with
    | some (m2, _) => cnPort x.2.conn != cnPort q.conn || !queueReady s (cnPort q.conn) slot (classOfEntry s m2.entry) ||
        burstRank s m ≤ burstRank s m2
    | none => true)

/-- The scheduler's READY, the slot's egress ownership and the buttress permit a burst of a message (R330). -/
def burstPermitted (s : State) (d : Def) (slot : Nat) (q : Qp) (m : Msg) : Bool :=
  d.state != .scrubbing && egressOpen s slot (cnPort q.conn) && queueReady s (cnPort q.conn) slot (classOfEntry s m.entry) &&
  firstOnPort s d slot q m

/-- A port's READY levels as the scheduler drives them now; frames kept for them go out (R43, R51). -/
def takeReady (port : Nat) (ready : BitVec 256) (s : State) : State :=
  releaseHeld { s with xpt := { s.xpt with ready := setNth s.xpt.ready port (fun _ => ready) } }

/-- A burst of a QP leaves where all of R330 holds. -/
def releaseBurst (id slot qp : Nat) (s : State) : State :=
  match getDef s id with
  | none => s
  | some d =>
    match mfind d.qps qp with
    | none => s
    | some q =>
      match burstOf s q with
      | none => s
      | some (m, n) =>
        if burstPermitted s d slot q m then
          setQp id qp (noteSent (now s) (choosePath q) n m) (sendBurst slot d q m n (choosePath q) s)
        else s

/-- BURST_RELEASE, with the READY levels of the QP's port as they stand (R51, R330). -/
def burstRelease (slot qp : Nat) (ready : BitVec 256) (s : State) : State :=
  match inSlot s slot with
  | none => s
  | some (id, d) =>
    match mfind d.qps qp with
    | none => s
    | some q => releaseBurst id slot qp (if q.state == .ready then takeReady (cnPort q.conn) ready s else s)

def execBurstRelease (slot qp : Nat) (ready : BitVec 256) (s : State) : Result := .next (whenOp (burstRelease slot qp ready) s)

/-! ### Completions of send entries (R318, R321) -/

/-- Every packet of a message is released and acknowledged, and its response has been placed. -/
def msgDone (q : Qp) (m : Msg) : Bool :=
  m.released == m.pkts && !q.sent.any (fun x => x.firstPsn == m.firstPsn) &&
  (m.failed.isSome || m.answered || (m.op != 0x11 && m.op != 0x12))

/-- How a finished message completes. -/
def msgEnd (m : Msg) : Fail :=
  m.failed.getD { status := cOk, result := if m.op == 0x12 then m.result else BitVec.ofNat 64 m.len, detail := 0 }

/-- Finished messages leave: those of entries in ring order, the others as they end. -/
def progressMsgs (id qi : Nat) : Nat → State → State
  | 0, s => s
  | fuel + 1, s =>
    match getQp s id qi with
    | none => s
    | some q =>
      let rest := q.msgs.filter (fun m => m.pos.isSome || !msgDone q m)
      let drop (m : Msg) (s : State) : State :=
        setQp id qi (fun q => { q with msgs := rest.filter (fun x => x.firstPsn != m.firstPsn) }) s
      match rest.find? (fun m => m.pos.isSome), q.sq with
      | some m, some sq =>
        if msgDone q m then
          let f := msgEnd m
          progressMsgs id qi fuel (decideAdmitted id sq.cpl (hSend qi) (m.pos.getD 0) m.entry sq.base sq.log2 f.status
            f.result.toNat f.detail (drop m s))
        else setQp id qi (fun q => { q with msgs := rest }) s
      | _, _ => setQp id qi (fun q => { q with msgs := rest }) s

/-- The end of the PSNs (R322): once the PSNs that messages take come within 1,024 of it and the packets sent are acknowledged,
the QP is in error, whatever is still to be sent or answered (log 48). -/
def psnCheck (id qi : Nat) (s : State) : State :=
  match getQp s id qi with
  | some q =>
    if q.state == .ready && !psnsLeft q && q.sent.isEmpty then
      qpError id qi 0x06 cCancelled true s
    else s
  | none => s

/-- After an acknowledgement or a response: completions, and what waited for their fences. -/
def qpProgress (id qi : Nat) (s : State) : State :=
  match getQp s id qi with
  | some q => settleAll id (psnCheck id qi (progressMsgs id qi (q.msgs.length + 1) s))
  | none => s

/-- A message fails and its QP goes into error (R315, R321). -/
def msgFatal (id qi firstPsn reason : Nat) (f : Fail) (s : State) : State :=
  settleAll id (qpError id qi reason cCancelled true
    (setQp id qi (fun q => { q with msgs := q.msgs.map (fun m =>
      if m.firstPsn == firstPsn then { m with failed := some f } else m) }) s))

/-! ### Losses and retransmission (R325) -/

/-- Packets that wait for an RNR resend are neither lost nor timed (R319). -/
def heldByRnr (q : Qp) (psn : Nat) : Bool :=
  match q.rnrFrom with
  | some p => decide (p ≤ psn)
  | none => false

/-- Sends one packet again, alone, under its own PSN (R310). -/
def transmitAgain (slot id qi : Nat) (x : Sent) (tries : Nat) (s : State) : State :=
  match (getDef s id).bind (fun d => (mfind d.qps qi).map (fun q => (d, q))) with
  | none => s
  | some (d, q) =>
    match q.msgs.find? (fun m => m.firstPsn == x.firstPsn) with
    | none => s
    | some m =>
      let path := resendPath q x.path
      let p := dataPacket s d q m.op 0 x.psn x.psn path tries m.sendSeq (midField m) x.idx m.len true (payloadAt q.conn m x.idx)
      setQp id qi (fun q => armTimer (now s) { q with
          counts := { q.counts with retransmitted := satN 32 q.counts.retransmitted 1 }
          cong := { q.cong with lastPath := path }
          sent := q.sent.filter (fun y => y.psn != x.psn) ++ [{ x with path := path, tries := tries, at_ := now s }] })
        (sendFrame slot q (classOfEntry s m.entry) path p.1 p.2 s)

/-- A lost packet is sent again with the next TRY; one lost with TRY 7 ends its entry and the QP. -/
def resendLost (slot id qi : Nat) (x : Sent) (s : State) : State :=
  match getQp s id qi with
  | none => s
  | some q =>
    if q.state != .ready then s
    else if 7 ≤ x.tries then
      msgFatal id qi x.firstPsn 0x01 (Fail.of cRemoteTimeout (lowestUnacked q % 2 ^ 32)) s
    else transmitAgain slot id qi x (x.tries + 1) s

/-- Packets declared lost by newly acknowledged ones. -/
def lostBy (q : Qp) (acked : Sent → Bool) : List Sent :=
  let l := q.sent.zipIdx
  let gap := max 4000 (q.cong.srtt.getD 0 / 8)
  (l.filter (fun x => !acked x.1 && !heldByRnr q x.1.psn &&
    l.any (fun y => acked y.1 && ((x.2 < y.2 && y.1.path == x.1.path) || x.1.at_ + gap ≤ y.1.at_)))).map (·.1)

/-- What losses do (R325, R328). -/
def loseAll (slot id qi : Nat) (l : List Sent) (s : State) : State :=
  if l.isEmpty then s
  else l.foldl (fun s x => resendLost slot id qi x s)
    (setQp id qi (fun q => { q with cong := lossCong q.conn (now s) q.cong }) s)

/-- RTO_EXPIRY: every packet unacknowledged for longer than RTO, the oldest among them. -/
def rtoExpiry (slot qp : Nat) (s : State) : State :=
  match inSlot s slot with
  | none => s
  | some (id, d) =>
    match mfind d.qps qp with
    | none => s
    | some q =>
      let l := q.sent.filter (fun x => !heldByRnr q x.psn)
      match q.cong.timer, l.map (fun x => x.at_) with
      | some _, a :: rest =>
        if q.state != .ready || d.state == .scrubbing then s
        else
          let t := max (now s) (rest.foldl min a + q.cong.rto)
          let old := l.filter (fun x => x.at_ + q.cong.rto ≤ t)
          let s1 := setQp id qp (fun q => { q with cong := { q.cong with
            rto := min (2 * q.cong.rto) 8000000
            suspended := old.foldl (fun u x => setNth u x.path (fun _ => now s + 1000000)) q.cong.suspended } }) s
          loseAll slot id qp old s1
      | _, _ => s

def execRtoExpiry (slot qp : Nat) (s : State) : Result := .next (whenOp (rtoExpiry slot qp) s)

/-- PATH_SUSPEND_END: a suspension of 1 ms is over (R326). -/
def pathSuspendEnd (slot qp path : Nat) (s : State) : State :=
  match inSlot s slot with
  | some (id, _) => setQp id qp (fun q => { q with cong := { q.cong with
      suspended := setNth q.cong.suspended path (fun _ => 0) } }) s
  | none => s

def execPathSuspendEnd (slot qp path : Nat) (s : State) : Result := .next (whenOp (pathSuspendEnd slot qp path) s)

/-- RNR_RESEND: 50 µs after an RNR the packets from NAK_PSN on are sent again, with their TRY as it was (R319, log 48). -/
def rnrResend (slot qp : Nat) (s : State) : State :=
  match inSlot s slot with
  | none => s
  | some (id, d) =>
    match mfind d.qps qp with
    | none => s
    | some q =>
      match if d.state == .scrubbing then none else q.rnrFrom with
      | none => s
      | some p =>
        (q.sent.filter (fun x => p ≤ x.psn)).foldl (fun s x => transmitAgain slot id qp x x.tries s)
          (setQp id qp (fun q => { q with rnrFrom := none }) s)

def execRnrResend (slot qp : Nat) (s : State) : Result := .next (whenOp (rnrResend slot qp) s)

/-- The SEND that has been refused for longest. -/
def oldestRefused (q : Qp) : Option Nat := (leastBy (fun f => (((mfind q.rnrs f).getD 0 : Nat) : Int)) (q.rnrs.map (·.1)))

/-- RNR_LIMIT_EXPIRY, RNR_LIMIT_MS after its first RNR: the SEND refused for longest, still refused, ends, and with it the QP
(R319; a timer's row, log 2). -/
def rnrLimit (slot qp : Nat) (s : State) : State :=
  match inSlot s slot with
  | none => s
  | some (id, d) =>
    match mfind d.qps qp with
    | none => s
    | some q =>
      if q.state != .ready then s
      else match oldestRefused q with
        | some f => msgFatal id qp f 0x07 (Fail.of cRemoteTimeout (lowestUnacked q % 2 ^ 32)) s
        | none => s

def execRnrLimitExpiry (slot qp : Nat) (s : State) : Result := .next (whenOp (rnrLimit slot qp) s)

/-! ### ACKs received (R309, R325 to R328) -/

def akFlags (b : List Byte) : Nat := fldBe b 56 1

/-- OWD of an ACK, signed; none where it is invalid. -/
def akOwd (b : List Byte) : Option Int :=
  let v := fldBe b 44 4
  if v == 2 ^ 31 then none else some (if v < 2 ^ 31 then (v : Int) else (v : Int) - 2 ^ 32)

/-- Whether an ACK acknowledges a packet: below CUM_PSN, or in SACK. -/
def akCovers (q : Qp) (b : List Byte) (x : Sent) : Bool :=
  let cum := extendPsn q.sndUna (fldBe b 0 4)
  let base := extendPsn q.sndUna (fldBe b 4 4)
  x.psn < cum || (base ≤ x.psn && x.psn < base + 256 && bit (fldBe b 8 32) (x.psn - base))

/-- Newly acknowledged packets leave; RTT, window and timer follow. A SEND with a packet acknowledged is refused no longer
(R319). -/
def takeAcked (t path : Nat) (b : List Byte) (q : Qp) : Qp :=
  let got := q.sent.filter (akCovers q b)
  let echo := fldBe b 48 8
  let g1 := if got.any (fun x => x.tries == 0 && x.at_ == echo) then rttSample q.cong (t - echo) else q.cong
  let g2 := ackCong q.conn t path (fldBe b 40 2) (fldBe b 42 2) (akOwd b) echo ((got.map (fun x => x.bytes)).sum) g1
  let q1 := { q with sent := q.sent.filter (fun x => !akCovers q b x), cong := g2 }
  let una := lowestUnacked q1
  let q2 := { q1 with sndUna := una, cong := { g2 with rto := if q.sndUna < una then rtoStart g2 else g2.rto } }
  let left := q2.rnrs.filter (fun x => !got.any (fun y => y.firstPsn == x.1))
  armTimer t { q2 with rnrs := left, rnrFrom := if left.isEmpty then none else q2.rnrFrom }

/-- What NAK and RNR of an ACK do (R317, R319, R321). -/
def takeNak (id qi : Nat) (b : List Byte) (s : State) : State :=
  match getQp s id qi with
  | none => s
  | some q =>
    let p := extendPsn q.sndUna (fldBe b 60 4)
    let s1 := if bit (akFlags b) 0 then
        match q.msgs.find? (fun m => m.op == 0x13 && m.firstPsn ≤ p && p < m.firstPsn + m.pkts) with
        | some m => setQp id qi (fun q => { q with
            rnrs := mput q.rnrs m.firstPsn ((mfind q.rnrs m.firstPsn).getD (now s))
            rnrFrom := some (min p (q.rnrFrom.getD p)) }) s
        | none => s
      else s
    if !bit (akFlags b) 1 then s1
    else match q.msgs.find? (fun m => m.firstPsn == p) with
      | none => s1
      | some m =>
        let fail (f : Fail) : State := setQp id qi (fun q => { q with msgs := q.msgs.map (fun x =>
          if x.firstPsn == p then { x with failed := some (x.failed.getD f) } else x) }) s1
        match fldBe b 57 1 with
        | 1 => msgFatal id qi p 0x02 (Fail.of cAccessDenied (vaDetail m.remoteVa)) s1
        | 2 => fail (malformed 32)
        | 3 => fail (Fail.of cPoisoned (vaDetail m.remoteVa))
        | _ => s1

/-- An ACK is accepted. -/
def ackArrives (slot id qi path : Nat) (b : List Byte) (s : State) : State :=
  match getQp s id qi with
  | none => s
  | some q =>
    let s1 := takeNak id qi b (setQp id qi (takeAcked (now s) path b) s)
    let lost := (lostBy q (akCovers q b)).filter (fun x => match getQp s1 id qi with
      | some q1 => !heldByRnr q1 x.psn
      | none => false)
    qpProgress id qi (loseAll slot id qi lost s1)

/-- An ABORT is accepted: reason PEER_ERROR (R315). -/
def abortArrives (id qi : Nat) (s : State) : State := settleAll id (qpError id qi 0x03 cCancelled false s)

/-! ### ACKs sent (R309, R324) -/

/-- OWD as the ACK carries it. -/
def owdField (o : Option Int) : Nat :=
  match o with
  | some v => if -(2 ^ 31) < v && v < 2 ^ 31 then (v % 2 ^ 32).toNat else 2 ^ 31
  | none => 2 ^ 31

def ackBody (q : Qp) (flags code nak : Nat) : List Byte :=
  let blk := q.ack.psn / 256 * 256
  let sack := (q.got.filter (fun p => blk ≤ p && p < blk + 256)).foldl (fun n p => n + 2 ^ (p - blk)) 0
  beBytes 4 (q.rcvNxt % 2 ^ 32) ++ beBytes 4 (blk % 2 ^ 32) ++ beBytes 32 sack ++ beBytes 2 q.ack.pkts ++
  beBytes 2 q.ack.ce ++ beBytes 4 (owdField q.ack.owd) ++ beBytes 8 q.ack.echo.toNat ++ beBytes 1 flags ++ beBytes 1 code ++
  [0, 0] ++ beBytes 4 (nak % 2 ^ 32)

/-- Sends an ACK on the path of the packet that triggers it, and starts its counts again. -/
def sendAck (id qi flags code nak : Nat) (s : State) : State :=
  match getQp s id qi with
  | none => s
  | some q =>
    setQp id qi (fun q => { q with ack := { q.ack with pkts := 0, ce := 0, owd := none, oldest := none } })
      (sendControl id qi 0x30 q.ack.path (ackBody q flags code nak) s)

/-- ACK_DELAY_TIMER: 4 µs since the oldest packet accepted and not acknowledged (R324). -/
def ackDelay (slot qp : Nat) (s : State) : State :=
  match inSlot s slot with
  | none => s
  | some (id, d) =>
    match mfind d.qps qp with
    | none => s
    | some q => if q.state == .ready && q.ack.oldest.isSome && d.state != .scrubbing then sendAck id qp 0 0 0 s else s

def execAckDelayTimer (slot qp : Nat) (s : State) : Result := .next (whenOp (ackDelay slot qp) s)

end Sys2Proof.Machine
end

