-- ==== Sys2Proof/Machine/Clock.lean ====
section
/-! DEFINITION. One fabric clock without a command: the bell counts, and what falls due on it happens (R72, R94, R102, R228, R467;
logs 2, 61, 70). -/

namespace Sys2Proof.Machine

/-! ### Backlog (R102) -/

/-- A completion waits to be written, and its ring has a slot for it. -/
def writeWaits (d : Def) : Bool := d.cpls.any (fun p => !p.2.waiting.isEmpty && cplHasSlot p.2)

/-- The entry at the head of a command ring has not been fetched: it does not wait on a fence. -/
def fetchWaits (s : State) (d : Def) : Bool :=
  d.state == .running && d.rings.any (fun p => p.2.state == .active && p.2.head != p.2.tail &&
    (match waitState d p.2 (entryAt s (boundFn d) p.2.base p.2.log2 p.2.head) with | .waits => false | _ => true))

/-- A frame of class above BULK waits for a port: kept for its READY, or a burst that its QP would release. -/
def frameWaits (s : State) (d : Def) (sl port : Nat) : Bool :=
  s.car.heldFrames.any (fun f => f.slot == sl && f.port == port && f.cls != 0) ||
  d.qps.any (fun p => cnPort p.2.conn == port && (match burstOf s p.2 with
    | some (m, _) => classOfEntry s m.entry != 0
    | none => false))

/-- A slot has a CONTROL, DEADLINE or GUARANTEED request waiting for a resource; for a dome, an admissible tile. -/
def waitsFor (s : State) (sl res : Nat) : Bool :=
  match inSlot s sl with
  | none => false
  | some (_, d) =>
    if res == 0 then s.fabric.waiting.any (fun w => w.req.cls != 0 && worksFor s w == some sl)
    else if res < 3 then portOf (boundFn d) + 1 == res && fetchWaits s d
    else if res < 11 then frameWaits s d sl (res - 3)
    else if res < 27 then (candidates s d (res - 11) false).any (fun x => classOfEntry s x.c.entry != 0)
    else portOf (boundFn d) + 27 == res && writeWaits d

/-- At the start of an entry, its owners that have nothing waiting are not backlogged in this window. -/
def noteSlack (s : State) : State :=
  (List.range 29).foldl (fun s res =>
    let o := ownerNow s res
    if o < 64 && (inSlot s o).isSome && !waitsFor s o res then setSlot s o (fun x => { x with slack := insNat res x.slack })
    else s) s

/-! ### The clock -/

/-- What a new carillon slot brings: the counts of the buttress start again, backlog is looked at, and frames kept for an
egress entry are offered. -/
def enterEntry (s : State) : State :=
  if s.fabric.slotNo == now s / 128 then s
  else
    let s1 := noteSlack (rollSlot s)
    if s1.car.heldFrames.isEmpty then s1 else releaseHeld s1

/-- The end of a window, where it is due. -/
def windowEndDue (s : State) : State := if windowDue s then windowEnd [] s else s

/-- The armed time lies in the window that begins now: the window that has ended is tested before the switchover (R102). -/
def switchesLater (s : State) : Bool := s.car.armed && s.car.armTime.toNat / 1048576 == now s / 1048576

/-- What falls due by the bell: the switchover and the end of a window, in the order of their times, and the end of the egress
hold-back. -/
def fallDueNow (s : State) : State :=
  let s1 := if switchesLater s then switchover (windowEndDue s) else windowEndDue (switchover s)
  if s1.car.hold.isEmpty then s1 else egressHoldEnd s1

/-- The units that have a cause waiting record the oldest (R467). -/
def recordWaiting (s : State) : State := s.faults.foldl (fun t p => if p.2.staging.isEmpty then t else recordClock p.1 [] t) s

/-- One fabric clock. The bell counts while the block is out of reset, in the safe state too (R72, R74, R480). -/
def idleClock (s : State) : State :=
  let s1 := { s with clk := s.clk + 1 }
  if alive s then
    whenOp (fun s => coresClock (runFabric (bindClock (wakeBusy (enterEntry (fallDueNow s))))))
      (recordWaiting { s1 with bell := s1.bell.tick })
  else s1

end Sys2Proof.Machine
end

