-- ==== Sys2Proof/Machine/Control.lean ====
section
/-! DEFINITION. The control page: doorbells, ring create, destroy and abort, the page-table base, invalidation and fences
(R132 to R162, R530). -/

namespace Sys2Proof.Machine

/-! ### What a write to a doorbell page acts on (R407, R530) -/

/-- The definition behind a PF's window of a slot while the window is live (R530). -/
def windowDef (s : State) (pf slot : Nat) : Option (Nat × Def) :=
  match inSlot s slot with
  | some p => if p.2.grant.bindPort == portOf pf && !p.2.grant.confidential then some p else none
  | none => none

/-- A host request reaches a VF whose TDI runs only over the locked stream with T set (R407). -/
def hostAccepts (s : State) (fn : Nat) (d : Def) (t : Bool) : Bool :=
  !(d.grant.confidential && (getFn s fn).tdi == .run) || t

/-- The VF and the definition that a doorbell page belongs to: the VF's own BAR0, or a PF's window. -/
def pageTarget (s : State) (fn : Nat) (slot : Option Nat) (t : Bool) : Option (Nat × Nat × Def) :=
  match slot with
  | some sl => (windowDef s fn sl).map (fun p => (boundFn p.2, p.1, p.2))
  | none => match boundTo s fn with
    | some p => if hostAccepts s fn p.2 t then some (fn, p.1, p.2) else none
    | none => none

/-- A discarded write to a page counts there (R137, R138). -/
def countDiscard (fn page : Nat) (s : State) : State :=
  setFn s fn (fun f => { f with discards := mput f.discards page (satAdd ((mfind f.discards page).getD 0) 1) })

/-! ### DB.RING (R136, R137) -/

/-- A producer pointer moves to a value (R137). -/
def tailOk (head tail v : BitVec 32) (log2 : Nat) : Bool :=
  (v - tail).toNat ≤ 2 ^ log2 && (v - head).toNat ≤ 2 ^ log2

/-- A doorbell of a known object; none where R137 discards it. -/
def ringPointer (id : Nat) (d : Def) (page h : Nat) (v : BitVec 32) (s : State) : Option State :=
  let i := h % 65536
  match h / 65536 with
  | 0 => match mfind d.rings i with
    | some r =>
      if r.state == .active && r.group == page && tailOk r.head r.tail v r.log2 then
        some (setRing id i (fun r => { r with tail := v }) s)
      else none
    | none => none
  | 1 => match mfind d.cpls i with
    | some c =>
      if c.group == page && (v - c.head).toNat ≤ (c.wcount - c.head).toNat then
        some (setCpl id i (fun c => { c with head := v }) s)
      else none
    | none => none
  | k =>
    match (mfind d.qps i).bind (fun q => queueOf q (k == 2)) with
    | some q =>
      if q.state == .active && q.group == page && tailOk q.head q.tail v q.log2 then
        some (setQp id i (setQueue (k == 2) (fun q => { q with tail := v })) s)
      else none
    | none => none

/-- A write of DB.RING on a page (R136, R137). -/
def ringBell (fn id page : Nat) (d : Def) (data : List Byte) (s : State) : State :=
  let v := leNat data
  if data.length != 8 || bits v 31 18 != 0 then countDiscard fn page s
  else match ringPointer id d page (bits v 17 0) (BitVec.ofNat 32 (v / 2 ^ 32)) s with
    | some t => t
    | none => countDiscard fn page s

/-- The offset in a doorbell region that a write names, and the slot window it is written through (R134, R529). -/
def doorbellAt (fn off : Nat) : Option (Option Nat × Nat) :=
  if fn % 65 != 0 then (if 65536 ≤ off && off < 1048576 then some (none, off - 65536) else none)
  else if 1048576 ≤ off && off < 68157440 && 65536 ≤ off % 1048576 then
    some (some ((off - 1048576) / 1048576), off % 1048576 - 65536)
  else none

/-- DB_RING: a write to the DB.RING register of a doorbell page (R137). -/
def dbRing (w : HostWrite) (s : State) : State :=
  match doorbellAt w.fn w.off with
  | none => s
  | some (slot, o) =>
    if 8 ≤ o % 4096 then s
    else match pageTarget s w.fn slot w.window with
      | none => s
      | some (fn, id, d) =>
        if o % 4096 == 0 then ringBell fn id (o / 4096) d w.data s else countDiscard fn (o / 4096) s

def execDbRing (w : HostWrite) (s : State) : Result := .next (whenOp (dbRing w) s)

/-! ### Running a control operation (R149, R151) -/

/-- How a control operation goes on: it ends with a status, a result and DRAINED, or it keeps running. -/
inductive CtlEnd where
  | done (st : Nat) (result : Word) (drained : Bool) (s : State)
  | runs (s : State)

/-- The work of a control operation on a function's definition. -/
abbrev CtlBody := Nat → Nat → Def → Ctl → State → CtlEnd

/-- Runs an operation whose BUSY is set. -/
def runCtl (body : CtlBody) (fn id : Nat) (c : Ctl) (s : State) : State :=
  match getDef s id with
  | none => s
  | some d =>
    match (if d.state == .faulted then .done cPartitionReset 0 false s else body fn id d c s) with
    | .done st res dr t => resumeUnload fn (endCtl fn st res dr (followRecords d id t))
    | .runs t => followRecords d id t

/-- A write of DB.CTL_OP after its arguments: BUSY rises, and DRAINED tells of this operation from then on (R149, R151). -/
def ctlOp (op : Nat) (body : CtlBody) (c : Ctl) (s : State) : State :=
  match pageTarget s c.fn c.slot c.window with
  | none => s
  | some (fn, id, d) =>
    let s1 := setFn s fn (fun f => { f with arg0 := c.arg0, arg1 := c.arg1, arg2 := c.arg2, arg3 := c.arg3 })
    if (getFn s fn).busy then countDiscard fn 0 s1
    else if d.state == .quiescing then setFn s1 fn (fun f => { f with busy := true, drained := false, waitOp := some (op, c) })
    else runCtl body fn id c (setFn s1 fn (fun f => { f with busy := true, drained := false }))

/-- The end of an operation that changes nothing. -/
def ends (st : Nat) (s : State) : CtlEnd := .done st 0 false s

/-! ### Objects (R132, R133, R152) -/

/-- Whether a handle's index lies in the partition's reservation (R151). -/
def handleHeld (g : Grant) (h : Nat) : Bool :=
  let n := match h / 65536 with
    | 0 => g.cmdRings
    | 1 => g.cplRings
    | _ => g.qps
  h % 65536 < n

/-- State of a command ring or QP queue; none is `NONE`. -/
def objState (d : Def) (h : Nat) : Option RingState :=
  match h / 65536 with
  | 0 => (mfind d.rings (h % 65536)).map (fun r => r.state)
  | 1 => (mfind d.cpls (h % 65536)).map (fun _ => .active)
  | k => ((mfind d.qps (h % 65536)).bind (fun q => queueOf q (k == 2))).map (fun q => q.state)

/-- The group of a command ring or QP queue. -/
def objGroup (d : Def) (h : Nat) : Option Nat :=
  match h / 65536 with
  | 0 => (mfind d.rings (h % 65536)).map (fun r => r.group)
  | 1 => (mfind d.cpls (h % 65536)).map (fun c => c.group)
  | k => ((mfind d.qps (h % 65536)).bind (fun q => queueOf q (k == 2))).map (fun q => q.group)

/-- A completion of an object that is decided and not written. -/
def unwritten (d : Def) (h : Nat) : Bool := d.cpls.any (fun c => c.2.waiting.any (fun p => p.source == h))

/-- An object has an entry posted or admitted that has not completed. -/
def hasEntries (d : Def) (h : Nat) : Bool :=
  let i := h % 65536
  unwritten d h ||
  (match h / 65536 with
   | 0 => (match mfind d.rings i with
     | some r => r.head != r.tail || !(admittedEntries r).isEmpty || r.cur.isSome
     | none => false)
   | 2 => (match mfind d.qps i with
     | some q => queueLeft q.sq != 0 || q.msgs.any (fun m => m.pos.isSome)
     | none => false)
   | 3 => (match mfind d.qps i with
     | some q => queueLeft q.rq != 0 || !q.recvs.isEmpty
     | none => false)
   | _ => false)

/-- A completion ring named by an object that is not `NONE`. -/
def cplNamed (d : Def) (i : Nat) : Bool :=
  d.rings.any (fun p => p.2.cpl == i) ||
  d.qps.any (fun p => (match p.2.sq with | some q => q.cpl == i | none => false) ||
    (match p.2.rq with | some q => q.cpl == i | none => false))

/-- An entry is admitted and not completed anywhere in the partition (R151). -/
def anyAdmitted (d : Def) : Bool :=
  d.rings.any (fun p => p.2.cur.isSome || !(admittedEntries p.2).isEmpty) ||
  d.qps.any (fun p => p.2.msgs.any (fun m => m.pos.isSome) || !p.2.recvs.isEmpty) ||
  d.cpls.any (fun c => c.2.waiting.any (fun p => p.held))

/-! ### RING_CREATE and RING_DESTROY (R150 to R152) -/

/-- The largest and smallest log2 of an object's entries (R132). -/
def log2Ok (kind log2 : Nat) : Bool :=
  6 ≤ log2 && (match kind with
    | 0 => log2 ≤ 16
    | 1 => log2 ≤ 18
    | _ => log2 ≤ 14)

/-- The arguments of RING_CREATE are in range (R150). -/
def createOk (d : Def) (c : Ctl) : Bool :=
  let a := c.arg0.toNat
  let kind := bits a 17 16
  bits a 23 18 == 0 && bits a 47 44 == 0 && bits a 63 56 == 0 &&
  1 ≤ bits a 31 24 && bits a 31 24 ≤ 239 && log2Ok kind (bits a 39 32) &&
  (if kind == 0 then bit d.grant.domeMask (bits a 43 40) && 1 ≤ bits a 55 48 else bits a 43 40 == 0 && bits a 55 48 == 0) &&
  c.arg1.toNat % 4096 == 0 && c.arg3 == 0 &&
  (if kind == 1 then c.arg2.toNat < 32 else (mfind d.cpls c.arg2.toNat).isSome)

/-- A command ring after RING_CREATE (R152). -/
def CmdRing.fresh (group log2 base cpl home weight : Nat) : CmdRing :=
  { state := .active, group := group, log2 := log2, base := base, cpl := cpl, homeDome := home, weight := weight, head := 0
    tail := 0, vt := 0, hot := false, fragEpoch := 0, jobOpen := false, jobStarted := false, jobFault := false, jobHost := false
    cancelRest := false, prior := none, waitSat := false, cur := none, nxt := none, fall := none }

def ringCreate : CtlBody := fun _ id d c s =>
  let a := c.arg0.toNat
  let h := bits a 17 0
  let i := h % 65536
  let group := bits a 31 24
  let log2 := bits a 39 32
  let base := c.arg1.toNat
  let cpl := c.arg2.toNat
  let q : Queue := { state := .active, group := group, log2 := log2, base := base, cpl := cpl, head := 0, tail := 0 }
  if !createOk d c then ends cMalformed s
  else if !handleHeld d.grant h then ends cAccessDenied s
  else if (objState d h).isSome then ends cInUse s
  else
    ends cOk (match h / 65536 with
      | 0 => setDef s id (fun d => { d with
          rings := mput d.rings i (CmdRing.fresh group log2 base cpl (bits a 43 40) (bits a 55 48)) })
      | 1 => setDef s id (fun d => { d with
          cpls := mput d.cpls i { group := group, log2 := log2, base := base, vector := cpl, head := 0, wcount := 0
                                  reserved := 0, waiting := [] } })
      | 2 => setQp id i (fun x => { x with sq := some q }) s
      | _ => setQp id i (fun x => { x with rq := some q }) s)

/-- Takes an object away. -/
def dropObject (id h : Nat) (s : State) : State :=
  let i := h % 65536
  match h / 65536 with
  | 0 => setDef s id (fun d => { d with rings := mdrop d.rings i })
  | 1 => setDef s id (fun d => { d with cpls := mdrop d.cpls i })
  | 2 => setQp id i (fun q => { q with sq := none }) s
  | _ => setQp id i (fun q => { q with rq := none }) s

/-- RING_DESTROY of an object that may not go (R151, R312). -/
def destroyBusy (d : Def) (h : Nat) : Bool :=
  let i := h % 65536
  let ready := 2 ≤ h / 65536 && (match mfind d.qps i with | some q => q.state == .ready | none => false)
  match objState d h with
  | none => false
  | some .aborting => true
  | some .aborted => ready
  | some .active =>
    match h / 65536 with
    | 0 => hasEntries d h
    | 1 => cplNamed d i || (match mfind d.cpls i with | some c => !c.waiting.isEmpty | none => false)
    | _ => hasEntries d h || ready

def ringDestroy : CtlBody := fun _ id d c s =>
  let h := c.arg0.toNat
  if 2 ^ 18 ≤ h || c.arg1 != 0 || c.arg2 != 0 || c.arg3 != 0 then ends cMalformed s
  else if !handleHeld d.grant h then ends cAccessDenied s
  else if destroyBusy d h then ends cInUse s
  else ends cOk (dropObject id h s)

/-! ### RING_ABORT (R152, R175 to R178) -/

/-- Completions decided and not written, over all completion rings. -/
def cancelledWaiting (s : State) (id : Nat) : Nat :=
  match getDef s id with
  | none => 0
  | some d => (d.cpls.map (fun c => (c.2.waiting.filter (fun p => p.status == cCancelled)).length)).sum

/-- The remaining entries of a QP complete `CANCELLED`, and the QP is in the error state (R113, R152, R315). -/
def qpFlush (id i : Nat) (s : State) : State :=
  match getQp s id i with
  | none => s
  | some q => if q.state == .error then flushEntries id i cCancelled s else qpError id i 0x04 cCancelled true s

/-- One object of a RING_ABORT enters `ABORTING` (R152). -/
def abortObject (id h : Nat) (s : State) : State :=
  let i := h % 65536
  let before := cancelledWaiting s id
  match getDef s id with
  | none => s
  | some d =>
    let t := match h / 65536 with
      | 0 => match mfind d.rings i with
        | some r => advanceFragEpoch id i (completePosted id i cCancelled (posted r.head r.tail)
            (setRing id i (fun r => { r with state := .aborting }) s))
        | none => s
      | 2 => qpFlush id i (setQp id i (setQueue true (fun q => { q with state := .aborting })) s)
      | _ => match mfind d.qps i with
        | some q =>
          setQp id i (fun q => { q with recvs := [] })
            (failRecvs id i cCancelled q.recvs (completeQueue id i false cCancelled (queueLeft q.rq)
              (setQp id i (setQueue false (fun q => { q with state := .aborting })) s)))
        | none => s
    let u := addAborted (boundFn d) (cancelledWaiting t id - before) t
    if h / 65536 == 0 then abortSettle id i u else u

/-- The command rings and QP queues of a group that are `ACTIVE`. -/
def groupObjects (d : Def) (group : Nat) : List Nat :=
  ((d.rings.filter (fun p => p.2.group == group && p.2.state == .active)).map (fun p => hCmd p.1)) ++
  d.qps.flatMap (fun p =>
    (match p.2.sq with | some q => if q.group == group && q.state == .active then [hSend p.1] else [] | none => []) ++
    (match p.2.rq with | some q => if q.group == group && q.state == .active then [hRecv p.1] else [] | none => []))

def ringAbort : CtlBody := fun fn id d c s =>
  let a := c.arg0.toNat
  let h := bits a 17 0
  let group := bits a 31 24
  let whole := bit a 32
  let objs := if whole then groupObjects d group else if objState d h == some .active then [h] else []
  if bits a 23 18 != 0 || bits a 63 33 != 0 || c.arg1 != 0 || c.arg2 != 0 || c.arg3 != 0 then ends cMalformed s
  else if whole && (group == 0 || 239 < group || h != 0) then ends cMalformed s
  else if !whole && (h / 65536 == 1 || (group != 0 && objGroup d h != some group)) then ends cMalformed s
  else if !whole && !handleHeld d.grant h then ends cAccessDenied s
  else if objs.isEmpty then .done cOk 0 true s
  else
    .runs (settleAll id (objs.foldl (fun t h => abortObject id h t)
      (setFn s fn (fun f => { f with abort := some { handles := objs, count := 0, reset := false } }))))

/-- A page read of a command ring is in flight (R156, R253). -/
def fetchInFlight (s : State) (d : Def) (h : Nat) : Bool :=
  h / 65536 == 0 && s.fetches.any (fun f => some f.2.slot == d.slot && f.2.ring == h && !f.2.arrived)

/-- An aborted object's last DMA has ended, a watch fetch among them, and every completion of it is written. -/
def objDrained (s : State) (d : Def) (h : Nat) : Bool := !hasEntries d h && !fetchInFlight s d h

/-- An object goes from `ABORTING` to `ABORTED`. -/
def setAborted (id h : Nat) (s : State) : State :=
  let i := h % 65536
  match h / 65536 with
  | 0 => setRing id i (fun r => { r with state := .aborted }) s
  | 2 => setQp id i (setQueue true (fun q => { q with state := .aborted })) s
  | _ => setQp id i (setQueue false (fun q => { q with state := .aborted })) s

/-- RING_ABORT_DRAINED (R152). -/
def abortDrained (fn : Nat) (s : State) : State :=
  match (getFn s fn).abort, boundTo s fn with
  | some a, some (id, d) =>
    if a.handles.all (objDrained s d) then
      resumeUnload fn (endCtl fn (if a.reset then cPartitionReset else cOk) (BitVec.ofNat 64 a.count) true
        (a.handles.foldl (fun t h => setAborted id h t) s))
    else s
  | _, _ => s

/-! ### PT_SET and INVALIDATE (R154, R156) -/

def ptSet : CtlBody := fun _ id d c s =>
  if c.arg0.toNat % 4096 != 0 || c.arg1 != 0 || c.arg2 != 0 || c.arg3 != 0 then ends cMalformed s
  else if anyAdmitted d then ends cInUse s
  else ends cOk (setDef s id (fun d => { d with ptBase := some c.arg0.toNat }))

/-- The range of virtual addresses that a QP entry's own end uses (R316): none for an ATOMIC without RESULT_VA. -/
def entryRange (e : List Byte) : Nat × Nat :=
  if eOp e == 0x12 then (fld e 16 6, if fld e 16 6 == 0 then 0 else 8) else (fld e 16 6, fld e 32 4)

/-- The ranges that an admitted command refers to: once it has begun those of its tiles, before that those it will have. -/
def cmdUses (s : State) (d : Def) (c : Cmd) : List (Nat × Nat) :=
  if c.began || c.failed.isSome then c.uses
  else match beginCmd s d c with
    | .ok _ u _ => (u c).uses
    | _ => c.uses

/-- The ranges of the admitted entries of a ring: its commands', the fall-back list of its job, and the descriptors of the
primary entries that wait for the list. -/
def ringUses (s : State) (d : Def) (r : CmdRing) : List (Nat × Nat) :=
  [r.cur, r.nxt].flatMap (fun c => match c with | some c => cmdUses s d c | none => []) ++
  (match r.fall with
   | some f => (f.list, f.count * 64) :: f.primary.map (fun p => (fld p.2 16 8, descLen (eOp p.2)))
   | none => [])

/-- What an inbound message that is in flight uses: the range of a PUT or GET, the operand of an ATOMIC. A SEND's address is that
of its receive entry, and a reply's field is no address (R304, R316). -/
def inboundRange (m : Inbound) : Nat × Nat :=
  if m.op == 0x10 || m.op == 0x11 then (m.va, m.len) else if m.op == 0x12 then (m.va, 8) else (0, 0)

/-- What a fragment in service uses: its chain object and the pages it is served from. -/
def servingUses (x : Serving) : List (Nat × Nat) := (x.chain, 64) :: x.ents.map (fun e => (e.addr, 65536))

/-- What a weight bind in progress uses: its package and where the weights go. -/
def bindUses (b : Bind) : List (Nat × Nat) := [(b.pkgVa, packageLen b.records b.payloadLen), (b.dstVa, b.payloadLen)]

/-- The ranges of virtual addresses in use by a definition's entries, transfers and watch fetches (R156). -/
def usedRanges (s : State) (d : Def) : List (Nat × Nat) :=
  d.rings.flatMap (fun p => ringUses s d p.2) ++
  d.qps.flatMap (fun p =>
    (p.2.msgs.filterMap (fun m => if m.pos.isSome then some (entryRange m.entry) else none)) ++
    p.2.recvs.map (fun m => entryRange m.entry) ++
    p.2.inbound.map inboundRange) ++
  d.serving.flatMap servingUses ++ (match d.bind with | some b => bindUses b | none => []) ++
  (s.fetches.filter (fun f => some f.2.slot == d.slot && !f.2.arrived)).map (fun f => (f.2.page, 65536))

/-- Pages of `[first, first + n)` that some range touches. -/
def referencedPages (l : List (Nat × Nat)) (first n : Nat) : Nat :=
  (l.foldl (fun acc r =>
    (pagesOf r.1 r.2).foldl (fun acc p =>
      if first ≤ p / 65536 && p / 65536 < first + n then insNat (p / 65536) acc else acc) acc) []).length

/-- Every use walks the table afresh and ends within its step, so there is no cached translation to drop (log 78). A range that
runs past the 48-bit addresses is out of its range (log 28). -/
def invalidate : CtlBody := fun _ _ d c s =>
  let va := c.arg0.toNat
  let n := c.arg1.toNat
  if va % 65536 != 0 || 2 ^ 48 ≤ va || n == 0 || 2 ^ 32 < n || 2 ^ 48 < va + n * 65536 || c.arg2 != 0 || c.arg3 != 0 then ends cMalformed s
  else
    let k := referencedPages (usedRanges s d) (va / 65536) n
    .done (if k == 0 then cOk else cInUse) (BitVec.ofNat 64 k) false s

/-! ### Fences (R158 to R161) -/

def fenceInit : CtlBody := fun _ id d c s =>
  if 2 ^ 18 ≤ c.arg0.toNat || c.arg2 != 0 || c.arg3 != 0 then ends cMalformed s
  else if d.grant.fences ≤ c.arg0.toNat then ends cAccessDenied s
  else if anyAdmitted d then ends cInUse s
  else ends cOk (setFence id c.arg0.toNat { value := c.arg1, abandoned := false } s)

/-- Completions `ABANDONED` decided and not written, over all completion rings. -/
def abandonedWaiting (s : State) (id : Nat) : Nat :=
  match getDef s id with
  | none => 0
  | some d => (d.cpls.map (fun c => (c.2.waiting.filter (fun p => p.status == cAbandoned)).length)).sum

/-- The rings of a running partition on which a transform waits for arrivals go on: a command that needs an abandoned fence
fails at once (R345). -/
def settleArrivals (id : Nat) (s : State) : State :=
  eachRing id (fun ring s => match getDef s id, getRing s id ring with
    | some d, some r => if d.state == .running && [r.cur, r.nxt].any (fun c => (c.map isXform).getD false) then
        abortSettle id ring (settleRing id ring s) else s
    | _, _ => s) s

def fenceAbandon : CtlBody := fun _ id d c s =>
  if 2 ^ 18 ≤ c.arg0.toNat || c.arg1 != 0 || c.arg2 != 0 || c.arg3 != 0 then ends cMalformed s
  else if d.grant.fences ≤ c.arg0.toNat then ends cAccessDenied s
  else
    let r := abandonAll id (abandonFuel d) [c.arg0.toNat] 0 s
    let t := settleArrivals id r.2
    .done cOk (BitVec.ofNat 64 (r.1 + (abandonedWaiting t id - abandonedWaiting r.2 id))) false t

def fenceRead : CtlBody := fun _ _ d c s =>
  if 2 ^ 18 ≤ c.arg0.toNat || c.arg1 != 0 || c.arg2 != 0 || c.arg3 != 0 then ends cMalformed s
  else if d.grant.fences ≤ c.arg0.toNat then ends cAccessDenied s
  else
    let f := getFence d c.arg0.toNat
    .done (if f.abandoned then cAbandoned else cOk) f.value false s

/-! ### The control operations as commands -/

/-- RING_CREATE (R152). -/
def execRingCreate (c : Ctl) (s : State) : Result := .next (whenOp (ctlOp 1 ringCreate c) s)
/-- RING_DESTROY (R152). -/
def execRingDestroy (c : Ctl) (s : State) : Result := .next (whenOp (ctlOp 2 ringDestroy c) s)
/-- RING_ABORT (R152). -/
def execRingAbort (c : Ctl) (s : State) : Result := .next (whenOp (ctlOp 3 ringAbort c) s)
/-- RING_ABORT_DRAINED (R152). -/
def execRingAbortDrained (fn : Nat) (s : State) : Result := .next (whenOp (abortDrained fn) s)
/-- PT_SET (R154). -/
def execPtSet (c : Ctl) (s : State) : Result := .next (whenOp (ctlOp 4 ptSet c) s)
/-- INVALIDATE (R156). -/
def execInvalidate (c : Ctl) (s : State) : Result := .next (whenOp (ctlOp 5 invalidate c) s)
/-- FENCE_INIT (R161). -/
def execFenceInit (c : Ctl) (s : State) : Result := .next (whenOp (ctlOp 8 fenceInit c) s)
/-- FENCE_ABANDON (R161). -/
def execFenceAbandon (c : Ctl) (s : State) : Result := .next (whenOp (ctlOp 9 fenceAbandon c) s)
/-- FENCE_READ (R150). -/
def execFenceRead (c : Ctl) (s : State) : Result := .next (whenOp (ctlOp 10 fenceRead c) s)

end Sys2Proof.Machine
end

