-- ==== Sys2Proof/Machine/Fragments.lean ====
section
/-! DEFINITION. The watch and attention fragments: fetches and their arrival, requests, the sibling's service, replies and
limits (R25, R178, R253 to R261, R284, R508). -/

namespace Sys2Proof.Machine

/-! ### Entries that the watch walks (R253) -/

/-- A command as its entries stand: with its snapshot if it executes, and else as it would begin now. -/
def watchView (s : State) (d : Def) (c : Cmd) : Option Cmd :=
  if c.began then some c
  else match beginCmd s d c with
    | .ok _ u _ => some (u c)
    | _ => none

/-- The entries of all heads, in order. -/
def flatEntries (v : Cmd) : List (Nat × Nat × ChainEnt) :=
  (List.range (attOf v).heads).flatMap (fun h => ((headChain v h).ents.zipIdx).map (fun p => (h, p.2, p.1)))

/-- A fragment of an entry is outstanding. -/
def outstanding (s : State) (sl ring : Nat) (c : Cmd) (h i : Nat) : Bool :=
  s.frags.any (fun f => f.2.slot == sl && f.2.ring == ring && f.2.pos == c.pos && f.2.head == h && f.2.entry == i &&
    f.2.loadGen == (getSlot s sl).loadGen)

/-- A fragment of an entry has been issued, for the tile or ahead of the command. -/
def wasAsked (s : State) (sl ring : Nat) (v : Cmd) (h i : Nat) : Bool :=
  outstanding s sl ring v h i || (match tileOfEntry v h i with | some t => t.asked.contains i | none => false) ||
  v.early.any (fun x => x.1 == h && x.2.1 == i && x.2.2.1 == (headChain v h).epoch)

/-- A tile has consumed an entry: a local one when the tile was issued, a remote one when its reply was folded. -/
def consumed (s : State) (sl ring : Nat) (v : Cmd) (h i : Nat) (e : ChainEnt) : Bool :=
  match tileOfEntry v h i with
  | none => true
  | some t => if e.remote then wasAsked s sl ring v h i && !outstanding s sl ring v h i else t.state != .waiting

/-- The entry lies within the 32 that the watch walks ahead of the lowest one not consumed: those of the executing command come
first, then those of the admitted one. -/
def watched (s : State) (d : Def) (sl ring : Nat) (r : CmdRing) (pos : BitVec 32) (head entry : Nat) : Bool :=
  let l := [r.cur, r.nxt].flatMap (fun c => match c with
    | some c =>
      if (eOp c.entry == 0x40 || (eOp c.entry == 0x50 && c.began)) && c.failed.isNone then
        (match watchView s d c with
         | some v => (flatEntries v).map (fun x => (v, x))
         | none => [])
      else []
    | none => [])
  let low := l.findIdx (fun p : Cmd × Nat × Nat × ChainEnt => !consumed s sl ring p.1 p.2.1 p.2.2.1 p.2.2.2)
  let at_ := l.findIdx (fun p : Cmd × Nat × Nat × ChainEnt => p.1.pos == pos && p.2.1 == head && p.2.2.1 == entry)
  at_ < l.length && at_ ≤ low + 32

/-- SPEC_EPOCH of a chain object as it stands. -/
def epochNow (s : State) (d : Def) (va : Nat) : Option Nat :=
  match readVa s d va 64 with
  | .ok o => some (fld o 9 1)
  | _ => none

/-- Drum of a dome that no tile and no fetch holds. -/
def drumSpare (s : State) (d : Def) (slot dome : Nat) : Nat :=
  drumOn d.grant dome - drumHeld d dome - 65536 * (s.fetches.filter (fun f => f.2.slot == slot && f.2.dome == dome)).length

/-- The granted dome whose watch takes a page: the lowest with room for it. -/
def domeForPage (s : State) (d : Def) (slot : Nat) : Option Nat :=
  (grantedDomes d.grant).find? (fun k => 65536 ≤ drumSpare s d slot k)

/-- The lowest key not in use. -/
def freeKey {β : Type} (m : NMap β) : Nat := (firstFree (fun i => (mfind m i).isNone) (m.length + 1) 0 1).headD 0

/-! ### Fragment requests (R255, R256) -/

/-- The request of a remote entry; its query rows are read from memory. -/
def fragBody (s : State) (d : Def) (c : Cmd) (head : Nat) (e : ChainEnt) (tag epoch spec : Nat) (gen : BitVec 32)
    (fragEpoch : BitVec 16) : List Byte :=
  let a := attOf c
  beBytes 2 tag ++ beBytes 2 fragEpoch.toNat ++ beBytes 4 gen.toNat ++ beBytes 1 spec ++ beBytes 1 a.rows ++
  beBytes 1 a.qFmt ++ beBytes 1 (bitAt a.causal 0) ++ beBytes 2 a.dim ++ [0, 0] ++ beBytes 8 e.addr ++ beBytes 4 e.first ++
  beBytes 4 e.count ++ beBytes 4 a.scale.toNat ++ beBytes 4 a.cap.toNat ++ beBytes 4 a.window ++ beBytes 4 epoch ++
  List.replicate 16 0 ++
  (List.range a.rows).flatMap (fun r => beBytes 4 (rowMeta s d a head r).qpos) ++
  peek s d (qAt a head 0) (a.rows * qBytes a)

/-- The tile that a fetch is for, where it waits still. -/
def fetchWanted (f : Fetch) (c : Cmd) : Bool :=
  c.pos == f.pos && c.failed.isNone &&
  (match (if f.chainVa.isSome then tileOfEntry c f.head f.entry else c.tile f.head) with
   | some t => t.state == .waiting
   | none => !c.began)

/-- Drops arrived fetches whose command has gone or whose tile has been issued. -/
def purgeFetches (s : State) : State :=
  { s with fetches := s.fetches.filter (fun f => !f.2.arrived ||
      (match (inSlot s f.2.slot).bind (fun p => mfind p.2.rings f.2.ring) with
       | some r => [r.cur, r.nxt].any (fun c => match c with
         | some c => fetchWanted f.2 c
         | none => false)
       | none => false)) }

/-- A page read is issued into drum, and charged with its walk (R26, R253). A page that cannot be reached is left to the tile
that needs it. -/
def issueFetch (slot id ring : Nat) (d : Def) (r : CmdRing) (c : Cmd) (head entry page len : Nat) (va : Option Nat)
    (epoch cls : Nat) (s : State) : State :=
  if s.fetches.any (fun f => f.2.slot == slot && f.2.ring == ring && f.2.pos == c.pos && f.2.head == head &&
      f.2.entry == entry && f.2.page == page && f.2.epoch == epoch && f.2.loadGen == (getSlot s slot).loadGen) ||
      (firstDenied s d page len false).isSome then s
  else match domeForPage s d slot with
    | none => s
    | some dome =>
      let x : Fetch := { slot := slot, ring := ring, pos := c.pos, head := head, entry := entry, chainVa := va, page := page
                         dome := dome, len := len, cls := cls, epoch := epoch, fragEpoch := r.fragEpoch, loadGen := (getSlot s slot).loadGen
                         issuedAt := now s, arrived := false, poisoned := false }
      chargeReads id [(page, len)] { s with fetches := mput s.fetches (freeKey s.fetches) x }

/-- The query rows and their records cannot be read. -/
def rowsFail (s : State) (d : Def) (v : Cmd) (head : Nat) : Option TileOut :=
  readsFail s d [(qAt (attOf v) head 0, (attOf v).rows * qBytes (attOf v)), (metaAt (attOf v) head 0, (attOf v).rows * 16)]

/-- A fragment of a remote entry is issued (R253 to R256); on a QP that is not `READY` it fails its command (R260). A command
that does not execute yet meets an access that fails when it begins. -/
def issueFrag (slot id ring : Nat) (d : Def) (r : CmdRing) (v : Cmd) (head entry : Nat) (e : ChainEnt) (s : State) : State :=
  let ch := headChain v head
  let tag := freeKey s.frags
  let f : Frag := { slot := slot, ring := ring, pos := v.pos, head := head, entry := entry, qp := e.qp
                    cls := classOfEntry s v.entry, epoch := ch.epoch, fragEpoch := r.fragEpoch
                    loadGen := (getSlot s slot).loadGen, issuedAt := now s, sentAt := now s, retryAt := none, body := [] }
  match mfind d.qps e.qp with
  | none => settleAll id (timeoutFrag id f s)
  | some q =>
    if q.state != .ready then settleAll id (timeoutFrag id f s)
    else if !psnsLeft q || 65536 ≤ tag then s
    else match rowsFail s d v head with
      | some o => if v.began then settleAll id (applyOut id ring (attAccess head entry o) s) else s
      | none =>
        let body := fragBody s d v head e tag (deadlineOf s v.entry) ch.epoch f.loadGen f.fragEpoch
        let ask (c : Cmd) : Cmd :=
          let c1 := if c.began then (match tileOfEntry c head entry with
            | some t => c.setTile t.idx (fun t => { t with asked := t.asked ++ [entry] })
            | none => c) else c
          { c1 with frags := c1.frags + 1 }
        formOwn id e.qp 0x14 v.entry body 0
          (setCmdAt id ring v.pos ask { s with frags := mput s.frags tag { f with body := body } })

/-- The first local entry of its tile. -/
def firstPage (v : Cmd) (head entry : Nat) : Bool :=
  match tileOfEntry v head entry with
  | some t => (match t.kind with
    | .attend _ first _ => (List.range (entry - first)).all (fun k =>
        ((((headChain v head).ents)[first + k]?).map (fun e => e.remote)).getD true)
    | _ => false)
  | none => false

/-- What the watch does for an entry of an ATTEND, or of the attend phase of a BATCH_STEP: a page read, as CONTROL class for the
first page of a tile, or a fragment (R253). -/
def watchEntry (slot id ring : Nat) (d : Def) (r : CmdRing) (v : Cmd) (head entry : Nat) (s : State) : Option State :=
  match tileOfEntry v head entry, (headChain v head).ents[entry]? with
  | some t, some e =>
    if t.state == .ended || t.state == .dropped || !watched s d slot ring r v.pos head entry then none
    else if e.remote then
      (if wasAsked s slot ring v head entry then none else some (issueFrag slot id ring d r v head entry e s))
    else if t.state == .waiting then
      some (issueFetch slot id ring d r v head entry e.addr (pageUsed e.fmt (headChain v head).dim)
        (some (headChain v head).va) (headChain v head).epoch (if firstPage v head entry then 3 else classOfEntry s v.entry) s)
    else none
  | _, _ => none

/-- The pages that a tile reads, once each. -/
def tilePages (c : Cmd) (t : Tile) : List Nat :=
  ((tensorReads c t).flatMap (fun r => pagesOf r.1 r.2)).eraseDups

/-- The tiles of a GEMM, REDUCE or CONVERT that wait for an engine alone, with the pages that they read, in index order. -/
def tensorAhead (s : State) (d : Def) (c : Cmd) : List (Nat × Nat × Nat) :=
  (c.tiles.filter (fun t => t.state == .waiting && kindReady s d c t)).flatMap (fun t =>
    ((tilePages c t).zipIdx).map (fun p => (t.idx, p.2, p.1)))

/-- The watch runs ahead over the tensors that the executing command's descriptor names: the first 32 pages of tiles not issued
(R9; log 73). -/
def watchTensor (slot id ring : Nat) (d : Def) (r : CmdRing) (c : Cmd) (tile page : Nat) (s : State) : Option State :=
  if !c.began || !(eOp c.entry == 0x30 || isXform c) then none
  else match ((tensorAhead s d c).take 32).find? (fun x => x.1 == tile && x.2.1 == page) with
    | some x => some (issueFetch slot id ring d r c tile page x.2.2 65536 none 0 (classOfEntry s c.entry) s)
    | none => none

/-- What the watch does for a command of a ring. -/
def watchCmd (slot id ring : Nat) (d : Def) (r : CmdRing) (head entry : Nat) (s : State) (c : Option Cmd) : Option State :=
  match c with
  | none => none
  | some c =>
    if c.failed.isSome || switchedPrimary r c then none
    else if eOp c.entry == 0x40 || (eOp c.entry == 0x50 && c.began) then
      (watchView s d c).bind (fun v => watchEntry slot id ring d r v head entry s)
    else watchTensor slot id ring d r c head entry s

/-- WATCH_FETCH_ISSUE (R9, R253): for the executing command of a ring, or for the one admitted behind it. -/
def watchIssue (slot ring head entry : Nat) (s0 : State) : State :=
  let s := purgeFetches s0
  match inSlot s slot with
  | none => s
  | some (id, d) =>
    if d.state != .running then s
    else match mfind d.rings ring with
      | none => s
      | some r =>
        if r.state != .active then s
        else ([r.cur, r.nxt].findSome? (watchCmd slot id ring d r head entry s)).getD s

def execWatchFetchIssue (slot ring head entry : Nat) (s : State) : Result :=
  .next (whenOp (watchIssue slot ring head entry) s)

/-- Counts work that is discarded as stale (R25). -/
def squash (slot : Nat) (s : State) : State := setSlot s slot (fun x => { x with squash := x.squash + 1 })

/-- The three stamps of R25 equal their current values; a page that belongs to no chain has no speculation epoch. -/
def stampsHold (s : State) (d : Def) (slot ring : Nat) (va : Option Nat) (epoch : Nat) (fragEpoch : BitVec 16) (gen : BitVec 32) :
    Bool :=
  gen == (getSlot s slot).loadGen && (match va with | some va => epochNow s d va == some epoch | none => true) &&
  (match mfind d.rings ring with | some r => r.fragEpoch == fragEpoch | none => false)

/-- WATCH_DATA_ARRIVAL: accepted into its drum buffer, or squashed (R25, R375). It was charged when it was issued (R26). -/
def watchArrives (fetch : Nat) (s : State) : State :=
  match mfind s.fetches fetch with
  | none => s
  | some f =>
    if f.arrived then s
    else
      let drop := { s with fetches := mdrop s.fetches fetch }
      match inSlot s f.slot with
      | none => squash f.slot drop
      | some (_, d) =>
        if stampsHold s d f.slot f.ring f.chainVa f.epoch f.fragEpoch f.loadGen then
          { s with fetches := mput s.fetches fetch { f with
            arrived := true, poisoned := (firstPoison s d f.page f.len).isSome } }
        else squash f.slot drop

def execWatchDataArrival (fetch : Nat) (s : State) : Result := .next (whenOp (watchArrives fetch) s)

/-- WATCH_READ_ABANDON: a read that has not returned in 200 µs (R284). -/
def watchAbandon (fetch : Nat) (s : State) : State :=
  match mfind s.fetches fetch with
  | some f => if f.arrived then s else { s with fetches := mdrop s.fetches fetch }
  | none => s

def execWatchReadAbandon (fetch : Nat) (s : State) : Result := .next (whenOp (watchAbandon fetch) s)

/-- LOAD_GEN_ABANDON: what carries a load generation and has not ended 1 s after its issue (R508). -/
def genAbandon (slot gen : Nat) (s : State) : State :=
  let old (sl : Nat) (g : BitVec 32) (at_ : Nat) : Bool := sl == slot && g.toNat == gen && at_ + 1000000000 ≤ now s
  { s with
    fetches := s.fetches.filter (fun f => f.2.arrived || !old f.2.slot f.2.loadGen f.2.issuedAt)
    frags := s.frags.filter (fun f => !old f.2.slot f.2.loadGen f.2.issuedAt) }

def execLoadGenAbandon (slot gen : Nat) (s : State) : Result := .next (whenOp (genAbandon slot gen) s)

/-! ### The sibling's service (R257, R258) -/

/-- Fields of a request. -/
def fqRows (b : List Byte) : Nat := fldBe b 9 1
def fqDim (b : List Byte) : Nat := fldBe b 12 2
def fqChain (b : List Byte) : Nat := fldBe b 16 8
def fqCount (b : List Byte) : Nat := fldBe b 28 4
def fqRowBytes (b : List Byte) : Nat := fqDim b * (fmtBits (fldBe b 10 1) / 8)

/-- A request's own fields are in range and its reserved ones zero (R256). -/
def fragReqOk (b : List Byte) : Bool :=
  let q := fldBe b 10 1
  64 ≤ b.length && 1 ≤ fqRows b && fqRows b ≤ 64 && (q == 1 || q == 2 || q == 3) && fldBe b 11 1 < 2 && dimOk (fqDim b) &&
  zeros b 14 2 && fqChain b < 2 ^ 48 && 1 ≤ fqCount b && fqCount b < 2 ^ 24 && zeros b 48 16 &&
  b.length == 64 + fqRows b * 4 + fqRows b * fqRowBytes b &&
  finitePos (BitVec.ofNat 32 (fldBe b 32 4)) &&
  (fldBe b 36 4 == 0 || finitePos (BitVec.ofNat 32 (fldBe b 36 4)))

/-- The committed slots below a count, in order, at positions from POS_BASE. -/
def servedSlots (c : Chain) (count posBase : Nat) : List KvSlot :=
  ((entSlots c.n c.ents).filter (fun x => x.pos < count)).map (fun x => { x with pos := posBase + x.pos })

/-- The records of a request over a chain (R246 to R249): ANCESTRY is zero, and every slot is committed. -/
def fragRecords (s : State) (d : Def) (b : List Byte) (c : Chain) : List Byte :=
  let rows := fqRows b
  let dim := fqDim b
  let slots := servedSlots c (fqCount b) (fldBe b 24 4)
  let fmt := fldBe b 10 1
  (List.range rows).flatMap (fun r =>
    let row := (b.drop (64 + rows * 4 + r * fqRowBytes b)).take (fqRowBytes b)
    let q := (List.range dim).map (fun k => elemValue fmt (fld row (k * (fmtBits fmt / 8)) (fmtBits fmt / 8)))
    let m : RowMeta := { anc := 0, qpos := fldBe b (64 + r * 4) 4 }
    tripleBytes (rowTriple s d dim fmt (BitVec.ofNat 32 (fldBe b 32 4)) (BitVec.ofNat 32 (fldBe b 36 4))
      (bit (fldBe b 11 1) 0) (fldBe b 40 4) m q (slots.length / 64 + 1) slots (Triple.none dim)) r dim false)

/-- Why a served fragment cannot be attended. -/
def statusOfAccess (f : TileOut) : Nat :=
  match f with
  | .denied _ _ => 0x15
  | .fail _ => 0x14
  | .ok _ _ _ => 0x00

/-- The local entries that hold the slots below a count. -/
def servedEnts (c : Chain) (count : Nat) : List ChainEnt := c.ents.filter (fun e => e.first < count)

/-- What serving a fragment comes to before its tiles: a status, the records, and the ranges read so far, for the sibling's
charge. -/
structure FragWork where
  status : Nat
  recs : List Byte
  reads : List (Nat × Nat)

/-- The ranges of pages up to the first one that cannot be read. -/
def readUpTo (s : State) (d : Def) (l : List (Nat × Nat)) : List (Nat × Nat) :=
  l.take ((l.takeWhile (fun r => (readsFail s d [r]).isNone)).length + 1)

/-- What a running partition makes of a fragment (R258). -/
def serveWork (s : State) (d : Def) (b : List Byte) : FragWork :=
  if !fragReqOk b then { status := 0x16, recs := [], reads := [] }
  else
    let obj := (fqChain b, 64)
    match readChain s d (fqChain b) with
    | .fails f => { status := statusOfAccess f, recs := [], reads := [obj] }
    | .broken _ => { status := 0x16, recs := [], reads := [obj] }
    | .ok c =>
      let ents := servedEnts c (fqCount b)
      let pages := ents.map (fun e => (e.addr, pageUsed e.fmt c.dim))
      if c.dim != fqDim b || c.n < fqCount b || ents.any (fun e => e.remote) then
        { status := 0x16, recs := [], reads := chainRanges c }
      else match readsFail s d pages with
        | some f => { status := statusOfAccess f, recs := [], reads := chainRanges c ++ readUpTo s d pages }
        | none =>
          if c.fmt == 0x10 && ents.any (fun e => !kvPageOk (peek s d e.addr 65536) c.dim) then
            { status := 0x16, recs := [], reads := chainRanges c ++ pages }
          else { status := 0x00, recs := fragRecords s d b c, reads := chainRanges c }

/-- Status and records of a fragment served by a running partition. -/
def serveBody (s : State) (d : Def) (b : List Byte) : Nat × List Byte := ((serveWork s d b).status, (serveWork s d b).recs)

/-- What becomes of a fragment when its turn comes (R258, R317). -/
def serveStatus (s : State) (d : Def) (q : Qp) (b : List Byte) : FragWork :=
  if d.state != .running then { status := 0x80, recs := [], reads := [] }
  else if !bit (cnAccess q.conn) 3 then { status := 0x15, recs := [], reads := [] }
  else serveWork s d b

/-- The shape of the sibling's own tiles for a request: as an ATTEND's of one head (R251; log 36). -/
def servedAtt (b : List Byte) : AttDesc :=
  { parseAttend [] with rows := fqRows b, dim := fqDim b, qFmt := fldBe b 10 1, heads := 1 }

/-- The entries that a request is served from, cut at its COUNT. -/
def servedCut (c : Chain) (count : Nat) : List ChainEnt :=
  (servedEnts c count).map (fun e => { e with count := min e.count (count - e.first) })

/-- The tiles of a served fragment; none where one page does not fit the drum. -/
def servedParts (d : Def) (b : List Byte) (c : Chain) : Option (List (TileKind × Nat × Nat)) :=
  (attPages (servedAtt b) c.fmt d.grant).map (fun pages =>
    attTiles (servedAtt b) pages [(0, { c with ents := servedCut c (fqCount b) })])

/-- The fragment joins the ring of those served; the first one there brings the ring's virtual time up to that of the others
(R173, R258). -/
def addServing (id : Nat) (x : Serving) (s : State) : State :=
  setDef s id (fun d =>
    let vts := (d.rings.filter (fun p => p.2.hot)).map (fun p => p.2.vt.toNat)
    { d with
      servedVt := if d.serving.isEmpty then (match vts with
        | [] => d.servedVt
        | v :: l => if d.servedVt.toNat < l.foldl min v then BitVec.ofNat 64 (l.foldl min v) else d.servedVt) else d.servedVt
      serving := d.serving ++ [x] })

/-- A fragment request takes its turn on its QP: serving begins, on the slots as they stand, or it is answered at once. -/
def serveFragment (id qi firstPsn : Nat) (b : List Byte) (s : State) : State :=
  match (getDef s id).bind (fun d => (mfind d.qps qi).map (fun q => (d, q))) with
  | none => s
  | some (d, q) =>
    let r := serveStatus s d q b
    let answer (st : Nat) : State := formOwn id qi 0x24 [] (fragReplyBytes s b st []) firstPsn (chargeReads id r.reads s)
    if r.status != 0 then answer r.status
    else match readChain s d (fqChain b) with
      | .ok c =>
        (match servedParts d b c with
         | some parts =>
           chargeReads id r.reads (addServing id
             { qp := qi, firstPsn := firstPsn, body := b, chain := c.va, ents := servedCut c (fqCount b), recs := r.recs
               parts := parts, tile := none } s)
         | none => answer 0x16)
      | _ => answer 0x16

/-- The end of a tile of a served fragment: dome time and virtual time pass, at weight 128, and after the last one the reply
goes out (R172, R258). -/
def servingEnded (id qp : Nat) (s : State) : State :=
  match (getDef s id).bind (fun d => d.serving.find? (fun x => x.qp == qp)) with
  | none => s
  | some x =>
    match x.tile with
    | none => s
    | some t =>
      let s1 := setServing id qp (fun x => { x with tile := none, parts := x.parts.drop 1 }) (chargeServing id t s)
      if (x.parts.drop 1).isEmpty then answerServing id 0x00 x x.recs s1 else s1

/-! ### Replies (R25, R178, R257, R259) -/

/-- A slot's round-trip estimate moves an eighth of the way (R184). -/
def noteTrip (slot sample : Nat) (s : State) : State :=
  setSlot s slot (fun x => { x with rtt := (7 * x.rtt + sample) / 8 })

/-- Remote entries of an attend tile. -/
def remoteOf (c : Cmd) (t : Tile) : Nat :=
  match t.kind with
  | .attend h first count => ((tileEnts (headChain c h) first count).filter (fun e => e.remote)).length
  | _ => 0

/-- An accepted OK reply folds into its tile; a waiting tile that has them all ends (R170, R257, R261). A command that does not
execute yet keeps it. -/
def foldReply (id ring : Nat) (f : Frag) (recs : List Triple) (s : State) : State :=
  match cmdAt s id ring f.pos with
  | none => s
  | some c =>
    if !c.began then setCmdAt id ring f.pos (fun c => { c with early := c.early ++ [(f.head, f.entry, f.epoch, recs)] }) s
    else match tileOfEntry c f.head f.entry with
    | none => s
    | some t =>
      let acc := if t.acc.isEmpty then recs else (t.acc.zip recs).map (fun p => foldTriple p.1 p.2)
      let t1 := { t with acc := acc, replies := t.replies + 1 }
      let s1 := setCur id ring (fun c => c.setTile t.idx (fun _ => t1)) s
      if t.state == .remoteWait && t1.replies == remoteOf c t then
        (match getCur s1 id ring with
         | some c1 => tileEnded id ring c1 t1 [] s1
         | none => s1)
      else s1

/-- A reply fails the command (R259, R264). -/
def replyFail (c : Cmd) (f : Frag) (status : Nat) : Fail :=
  let va := (((headChain c f.head).ents[f.entry]?).map (fun e => e.addr)).getD 0
  if status == 0x16 then attFail cMalformed f.head f.entry true 16
  else if status == 0x15 then attFail cAccessDenied f.head f.entry true (vaDetail va)
  else attFail cPoisoned f.head f.entry true f.qp

/-- The chain that a head of a command names. -/
def chainNamed (s : State) (d : Def) (c : Cmd) (h : Nat) : Nat :=
  if c.began then (headChain c h).va else peekNat s d (fld c.desc 8 8 + h * 8) 8

/-- The outstanding fragment that a reply on a QP matches; none where R25 or R178 discards it. -/
def matchReply (s : State) (id : Nat) (d : Def) (slot qi : Nat) (b : List Byte) : Option (Frag × Cmd) :=
  match mfind s.frags (fldBe b 0 2) with
  | none => none
  | some f =>
    match cmdAt s id f.ring f.pos with
    | none => none
    | some c =>
      if f.slot == slot && f.qp == qi && f.fragEpoch.toNat == fldBe b 2 2 && f.loadGen.toNat == fldBe b 4 4 &&
          f.epoch == fldBe b 8 1 && (attOf c).rows == fldBe b 9 1 &&
          stampsHold s d slot f.ring (some (chainNamed s d c f.head)) f.epoch f.fragEpoch f.loadGen then some (f, c) else none

/-- FRAGMENT_RESP, whole (R257, R259). -/
def fragReply (slot id qi : Nat) (b : List Byte) (s : State) : State :=
  match getDef s id with
  | none => s
  | some d =>
    match matchReply s id d slot qi b with
    | none => squash slot s
    | some (f, c) =>
      let tag := fldBe b 0 2
      let a := attOf c
      let size := recSize a.dim false
      let gone := { s with frags := mdrop s.frags tag }
      match fldBe b 10 1 with
      | 0x00 =>
        if b.length != 32 + a.rows * size then squash slot s
        else
          settleAll id (foldReply id f.ring f ((List.range a.rows).map
            (fun r => tripleOf ((b.drop (32 + r * size)).take size) a.dim))
            (noteTrip slot (now s - f.sentAt) gone))
      | 0x80 => { s with frags := mput s.frags tag { f with retryAt := some (now s + 50000) } }
      | st =>
        if st == 0x14 || st == 0x15 || st == 0x16 then
          settleAll id (failAt id f.ring f.pos (replyFail ((watchView s d c).getD c) f st) gone)
        else squash slot s

/-- FRAGMENT_RESEND_TIMER: 50 µs after a RETRY the same fragment is sent again (R259). -/
def fragResend (tag : Nat) (s : State) : State :=
  match mfind s.frags tag with
  | none => s
  | some f =>
    match f.retryAt, inSlot s f.slot with
    | some _, some (id, _) =>
      match cmdAt s id f.ring f.pos with
      | none => s
      | some c =>
        formOwn id f.qp 0x14 c.entry f.body 0
          (setCmdAt id f.ring f.pos (fun c => { c with resends := c.resends + 1 })
            { s with frags := mput s.frags tag { f with retryAt := none, sentAt := now s } })
    | _, _ => s

def execFragmentResendTimer (tag : Nat) (s : State) : Result := .next (whenOp (fragResend tag) s)

/-- REMOTE_LIMIT_EXPIRY: no OK reply within REMOTE_LIMIT_US of the first issue (R260). -/
def remoteLimit (tag : Nat) (s : State) : State :=
  match mfind s.frags tag with
  | none => s
  | some f =>
    match inSlot s f.slot with
    | some (id, _) => if f.loadGen == (getSlot s f.slot).loadGen then settleAll id (timeoutFrag id f s) else s
    | none => s

def execRemoteLimitExpiry (tag : Nat) (s : State) : Result := .next (whenOp (remoteLimit tag) s)

end Sys2Proof.Machine
end

