-- ==== Sys2Proof/Machine/Packets.lean ====
section
/-! DEFINITION. Frames received: the checks of R331, the placing of payloads, requests in PSN order, responses and the ACKs
they cause (R44 to R46, R114, R303 to R333). -/

namespace Sys2Proof.Machine

/-- Opcodes of R305. -/
def packetOpOk (op : Nat) : Bool := [0x10, 0x11, 0x12, 0x13, 0x14, 0x21, 0x22, 0x24, 0x30, 0x31].contains op
def isControl (op : Nat) : Bool := op == 0x30 || op == 0x31

/-- Payload of a packet whose opcode fixes it (R305). -/
def fixedPayload (op : Nat) : Option Nat :=
  match op with
  | 0x11 => some 0
  | 0x12 => some 24
  | 0x22 => some 8
  | 0x30 => some 64
  | 0x31 => some 8
  | _ => none

/-- Version, opcode, reserved fields, SEG_ORD and R306 (R331, step 5). -/
def packetFormOk (c : List Byte) (f : Frame) : Bool :=
  let op := fOp f
  let n := f.body.length
  let p := fullPayload c
  let v := fldBe f.hdr 0 1
  f.hdr.length == 48 && f.tag.length == 16 && !f.ipExtra && v / 16 == 1 && v % 4 == 0 && packetOpOk op &&
  fldBe f.hdr 11 1 < 64 && zeros f.hdr 15 1 && fSegOrd f < burstLimit c &&
  (if op == 0x10 || op == 0x11 || op == 0x12 then zeros f.hdr 24 2 else (op / 16 != 2 || zeros f.hdr 24 4)) &&
  fIndex' f * p < fMsgLen f && f.udpLen == 76 + n &&
  (match fixedPayload op with
   | some k => n == k && fIndex' f == 0
   | none => n == min p (fMsgLen f - fIndex' f * p)) &&
  (op != 0x30 || (fldBe f.body 56 1 < 4 && zeros f.body 58 2)) && (op != 0x31 || zeros f.body 1 7)

/-! ### Counters (R314, R333) -/

def countRxErr (port : Nat) (s : State) : State := { s with xpt := { s.xpt with rxErr := count16 s.xpt.rxErr port } }
def countNonMaelic (port : Nat) (s : State) : State :=
  { s with xpt := { s.xpt with nonMaelic := count16 s.xpt.nonMaelic port } }

def countQp (id qi : Nat) (f : QpCounts → QpCounts) (s : State) : State :=
  setQp id qi (fun q => { q with counts := f q.counts }) s
def addMalformed (c : QpCounts) : QpCounts := { c with malformed := satN 32 c.malformed 1 }
def addCrcFail (c : QpCounts) : QpCounts := { c with crcFail := satN 32 c.crcFail 1 }
def addAuthFail (c : QpCounts) : QpCounts := { c with authFail := satN 32 c.authFail 1 }
def addMismatch (c : QpCounts) : QpCounts := { c with mismatch := satN 32 c.mismatch 1 }
def addDuplicate (c : QpCounts) : QpCounts := { c with duplicate := satN 32 c.duplicate 1 }
def addOutOfWindow (c : QpCounts) : QpCounts := { c with outOfWindow := satN 32 c.outOfWindow 1 }

/-! ### The window (R323) and what an ACK is owed for (R324) -/

/-- RCV_NXT moves past every PSN received. -/
def slideTo : Nat → Nat → List Nat → Nat × List Nat
  | 0, n, got => (n, got)
  | fuel + 1, n, got => if got.contains n then slideTo fuel (n + 1) (got.filter (· != n)) else (n, got)

/-- A PSN is placed. -/
def markGot (p : Nat) (q : Qp) : Qp :=
  let r := slideTo (q.got.length + 2) q.rcvNxt (insNat p q.got)
  { q with rcvNxt := r.1, got := r.2 }

/-- OWD of a packet that arrived at a time (R45, R309): both bells locked. -/
def packetOwd (s : State) (f : Frame) (t : Nat) : Option Int :=
  if bit (fldBe f.hdr 0 1) 3 && s.bell.state == .locked then some ((t : Int) - fTxTime f) else none

/-- The packet that triggers the next ACK. -/
def noteTrigger (f : Frame) (p : Nat) (a : AckDue) : AckDue :=
  { a with psn := p, echo := BitVec.ofNat 64 (fTxTime f), path := fPath f }

/-- A data packet is accepted. -/
def noteAccepted (s : State) (f : Frame) (t p : Nat) (q : Qp) : Qp :=
  { q with ack := { noteTrigger f p q.ack with
      pkts := q.ack.pkts + 1, ce := q.ack.ce + (if f.ecn == 3 then 1 else 0), owd := packetOwd s f t
      oldest := some (q.ack.oldest.getD (now s)) } }

/-- The accepted packet calls for an ACK at once: `q` is the QP before it. -/
def ackNow (q : Qp) (f : Frame) (p : Nat) : Bool :=
  15 ≤ q.ack.pkts || p != q.rcvNxt || !q.got.isEmpty || fAckReq f ||
  fMsgLen f ≤ (fIndex' f + 1) * fullPayload q.conn || (fixedPayload (fOp f)).isSome

/-! ### The responder's window (R317) -/

/-- An addressed range lies in the window, and ACCESS permits the operation. -/
def windowOk (q : Qp) (bitNo va n : Nat) : Bool :=
  bit (cnAccess q.conn) bitNo && cnWinBase q.conn ≤ va && va + n ≤ cnWinBase q.conn + cnWinLen q.conn && 0 < n

/-- The range may be reached for the operation. -/
def remoteOk (s : State) (d : Def) (q : Qp) (bitNo va n : Nat) (read write : Bool) : Bool :=
  windowOk q bitNo va n && (!read || (firstDenied s d va n false).isNone) && (!write || (firstDenied s d va n true).isNone)

/-! ### Receive entries (R319) -/

/-- Receive entries whose end is known complete, in ring order. -/
def progressRecvs (id qi : Nat) : Nat → State → State
  | 0, s => s
  | fuel + 1, s =>
    match getQp s id qi with
    | none => s
    | some q =>
      match q.recvs, q.rq with
      | m :: rest, some rq =>
        match m.fin with
        | some f =>
          progressRecvs id qi fuel (decideAdmitted id rq.cpl (hRecv qi) m.pos m.entry rq.base rq.log2 f.status f.result.toNat
            f.detail (setQp id qi (fun q => { q with recvs := rest }) s))
        | none => s
      | _, _ => s

/-- The place in the admitted receive entries of the one that a SEND_SEQ names; none where it is not posted. -/
def recvPlace (q : Qp) (seq : Nat) : Option Nat :=
  let k := (seq + 2 ^ 32 - (q.recvNext - q.recvs.length) % 2 ^ 32) % 2 ^ 32
  if k < q.recvs.length then some k else none

def finRecv (place : Nat) (f : Fail) (q : Qp) : Qp :=
  { q with recvs := setNth q.recvs place (fun m => { m with fin := some (m.fin.getD f) }) }

/-- The offset of the first field of a receive entry that breaks R145 or R316. -/
def recvFault (s : State) (d : Def) (e : List Byte) : Option Nat :=
  let cond := if fMode (eWaitFence e) != 0 then some 10 else none
  let body := if fld e 0 1 != 0x13 then some 0
    else (firstNonzero e 22 10).orElse (fun _ => if 2 ^ 30 < fld e 32 4 then some 32 else firstNonzero e 36 12)
  lowest [headFault (deadlineOf s e) e d.grant.fences, cond, body]

/-- QP entries are admitted while the partition runs, and while a quiesce lets those posted run to completion (R113). -/
def queuesRun (d : Def) : Bool :=
  d.state == .running || (d.state == .quiescing && (match d.quiesce with | some q => !q.flush | none => false))

/-- The head entry of a queue leaves it; its fetch was a read of the host port (R98). -/
def nextEntry (id qi : Nat) (send : Bool) (s : State) : State :=
  chargeOwn id 64 false (setQp id qi (setQueue send (fun x => { x with head := x.head + 1 })) s)

/-- The head entry of a queue may be admitted: while a quiesce drains, only where it was posted before PART_QUIESCE (R113). -/
def headRuns (d : Def) (h : Nat) (head : BitVec 32) : Bool :=
  queuesRun d && (d.state != .quiescing || (match d.quiesce.bind (fun q => mfind q.tails h) with
    | some tl => head != tl
    | none => false))

/-- The head entry of a receive queue is admitted, refused, or completes on a QP in error (R144, R315, R316). A refused entry
counts as the one that a SEND names (R319). `inbound` says that a SEND asks for it, which is executed in `QUIESCED` too
(R114). -/
def recvHead (id qi : Nat) (inbound : Bool) (s : State) : State :=
  match (getDef s id).bind (fun d => (mfind d.qps qi).map (fun q => (d, q))) with
  | none => s
  | some (d, q) =>
    match q.rq with
    | none => s
    | some rq =>
      if !(headRuns d (hRecv qi) rq.head || (inbound && d.state == .quiesced)) || rq.state != .active ||
          rq.head == rq.tail || q.state == .reset then s
      else
        let e := entryAt s (boundFn d) rq.base rq.log2 rq.head
        let room := match mfind d.cpls rq.cpl with | some c => decide (1 ≤ cplRoom c) | none => false
        let next := nextEntry id qi false
        if q.state == .error then
          next (decideUnadmitted id rq.cpl (hRecv qi) rq.head rq.base rq.log2
            (if q.reason == 0x05 then cPartitionReset else cCancelled) 0 s)
        else match recvFault s d e with
          | some o =>
            if q.recvs.isEmpty then
              next (setQp id qi (fun q => { q with recvNext := q.recvNext + 1 })
                (decideUnadmitted id rq.cpl (hRecv qi) rq.head rq.base rq.log2 cMalformed o s))
            else s
          | none =>
            if room then
              next (setQp id qi (fun q => { q with
                recvNext := q.recvNext + 1, recvs := q.recvs ++ [{ pos := rq.head, entry := e, fin := none }] })
                (reserve id rq.cpl s))
            else s

/-- Admits receive entries until the one that a SEND names is there, or none is left. -/
def fillRecvs (id qi seq : Nat) : Nat → State → State
  | 0, s => s
  | fuel + 1, s =>
    match getQp s id qi with
    | none => s
    | some q =>
      if (recvPlace q seq).isSome || queueLeft q.rq == 0 then s else fillRecvs id qi seq fuel (recvHead id qi true s)

/-! ### Messages of several packets -/

/-- The record of an inbound message, new or as it stands. -/
def inboundOf (q : Qp) (f : Frame) (first : Nat) : Inbound :=
  (q.inbound.find? (fun m => m.psn == first)).getD
    { op := fOp f, psn := first, pkts := packetsOf q.conn (fMsgLen f), len := fMsgLen f
      va := fVa f, sendSeq := fSendSeq f, data := [], got := [], done := false }

/-- A packet of an inbound message has been placed; `keep` says that its bytes are kept. -/
def noteInbound (f : Frame) (first : Nat) (keep : Bool) (payload : List Byte) (q : Qp) : Qp :=
  let m := inboundOf q f first
  let data := if keep then
      patch (if m.data.length == m.len then m.data else List.replicate m.len 0) (fIndex' f * fullPayload q.conn) payload
    else []
  let got := insNat (fIndex' f) m.got
  { q with inbound := q.inbound.filter (fun x => x.psn != first) ++
      [{ m with data := data, got := got, done := got.length == m.pkts || m.pkts == 0 }] }

def dropInbound (first : Nat) (q : Qp) : Qp := { q with inbound := q.inbound.filter (fun x => x.psn != first) }

/-- Whether the message with a first PSN has all its packets. -/
def inboundWhole (s : State) (id qi first : Nat) : Option Inbound :=
  ((getQp s id qi).map (fun q => q.inbound)).bind (fun l => l.find? (fun m => m.psn == first && m.done))

/-! ### Requests executed in PSN order (R318, R320) -/

/-- The old value of an ATOMIC that has been executed. -/
def heldAtomic (q : Qp) (psn : Nat) : Option Word := (q.atomics.find? (fun a => a.1 == psn)).map (·.2)

/-- The last 16 results are kept. -/
def holdAtomic (psn : Nat) (v : Word) (q : Qp) : Qp := { q with atomics := ((psn, v) :: q.atomics).take 16 }

/-- The new value of an ATOMIC (R316). -/
def atomicValue (aop : Nat) (old operand compare : Word) : Word :=
  match aop with
  | 0 => old + operand
  | 1 => if old == compare then operand else old
  | _ => operand

/-- A GET takes its turn: a response, or a NAK. -/
def serveGet (id qi : Nat) (d : Def) (q : Qp) (m : Inbound) (s : State) : State :=
  if !remoteOk s d q 0 m.va m.len true false then sendAck id qi 2 1 m.psn s
  else match readVa s d m.va m.len with
    | .ok data => formOwn id qi 0x21 [] data m.psn (chargeReads id [(m.va, m.len)] s)
    | _ => sendAck id qi 2 3 m.psn s

/-- An ATOMIC takes its turn. -/
def serveAtomic (id qi : Nat) (d : Def) (q : Qp) (m : Inbound) (s : State) : State :=
  if m.va % 8 != 0 || !remoteOk s d q 2 m.va 8 true true then sendAck id qi 2 1 m.psn s
  else match readVa s d m.va 8 with
    | .ok data =>
      let old := BitVec.ofNat 64 (leNat data)
      let v := atomicValue (fldBe m.data 0 1) old (BitVec.ofNat 64 (fldBe m.data 8 8)) (BitVec.ofNat 64 (fldBe m.data 16 8))
      formOwn id qi 0x22 [] (beBytes 8 old.toNat) m.psn
        (setQp id qi (holdAtomic m.psn old) (chargeReads id [(m.va, 8)] (chargeWrites id [(m.va, 8)]
          (writeVa id m.va (leBytes 8 v.toNat) s))))
    | _ => sendAck id qi 2 3 m.psn s

/-- Whole requests whose every lower PSN has been placed are executed, lowest first. Those behind a fragment that is being
served wait for its reply, since responses go in request order. -/
def runInOrder (id qi : Nat) : Nat → State → State
  | 0, s => s
  | fuel + 1, s =>
    match (getDef s id).bind (fun d => (mfind d.qps qi).map (fun q => (d, q))) with
    | none => s
    | some (d, q) =>
      if d.serving.any (fun x => x.qp == qi) then s
      else match (sortBy (fun m => m.psn) (q.inbound.filter (fun m =>
          m.done && (m.op == 0x11 || m.op == 0x12 || m.op == 0x14) && m.psn + m.pkts ≤ q.rcvNxt))).head? with
      | none => s
      | some m =>
        let s1 := setQp id qi (dropInbound m.psn) s
        let s2 := if m.op == 0x11 then serveGet id qi d q m s1
          else if m.op == 0x12 then serveAtomic id qi d q m s1
          else serveFragment id qi m.psn m.data s1
        runInOrder id qi fuel s2

/-- Requests that waited behind served fragments go on. -/
def resumeInbound (id : Nat) (s : State) : State :=
  eachQp id (fun qi s => match getQp s id qi with
    | some q => if q.state == .ready then runInOrder id qi (q.inbound.length + 1) s else s
    | none => s) s

/-- TILE_LOCAL_END (R169, R258): of a command of the partition, or of a fragment that it serves. -/
def execTileLocalEnd (slot ring tile : Nat) (order : List Nat) (s : State) : Result :=
  .next (whenOp (fun s => match inSlot s slot with
    | none => s
    | some (id, d) =>
      resumeInbound id (if ring == servedRing d then servingEnded id tile s else tileLocalEnd slot ring tile order s)) s)

/-! ### Placing (R318, R319) -/

/-- An accepted packet marks its PSN and enters the counts of the next ACK. -/
def acceptPsn (f : Frame) (t p : Nat) (id qi : Nat) (s : State) : State :=
  setQp id qi (fun q => markGot p (noteAccepted s f t p q)) s

/-- A packet is refused with an ACK that carries NAK or RNR, and is not acknowledged. -/
def refusePacket (id qi flags code first : Nat) (f : Frame) (p : Nat) (s : State) : State :=
  sendAck id qi flags code first (setQp id qi (fun q => { q with ack := noteTrigger f p q.ack }) s)

/-- After a packet: requests in order, then the ACK where one is due at once. -/
def afterPacket (id qi : Nat) (q0 : Qp) (f : Frame) (p : Nat) (s : State) : State :=
  let s1 := runInOrder id qi (q0.inbound.length + 2) s
  if ackNow q0 f p then (match getQp s1 id qi with
    | some q => if q.state == .ready then sendAck id qi 0 0 0 s1 else s1
    | none => s1)
  else s1

/-- PUT (R317, R318). -/
def placePut (id qi : Nat) (d : Def) (q : Qp) (f : Frame) (t p : Nat) (payload : List Byte) (s : State) : State :=
  if !remoteOk s d q 1 (fVa f) (fMsgLen f) false true then
    refusePacket id qi 2 1 ((p + 2 ^ 48 - fIndex' f) % 2 ^ 48) f p s
  else
    let va := fVa f + fIndex' f * fullPayload q.conn
    afterPacket id qi q f p (acceptPsn f t p id qi (chargeWrites id [(va, payload.length)] (writeVa id va payload s)))

/-- SEND: straight into the buffer of its receive entry (R319). -/
def placeSend (id qi : Nat) (f : Frame) (t p : Nat) (payload : List Byte) (s0 : State) : State :=
  let s := match getQp s0 id qi with
    | some q => fillRecvs id qi (fSendSeq f) (queueLeft q.rq + 1) s0
    | none => s0
  match (getDef s id).bind (fun d => (mfind d.qps qi).map (fun q => (d, q))) with
  | none => s
  | some (d, q) =>
    let first := (p + 2 ^ 48 - fIndex' f) % 2 ^ 48
    match recvPlace q (fSendSeq f) with
    | none => refusePacket id qi 1 0 first f p s
    | some k =>
      let e := (q.recvs[k]?.map (fun m => m.entry)).getD []
      let cap := fld e 32 4
      let off := fIndex' f * fullPayload q.conn
      let bs := payload.take (cap - off)
      let va := fld e 16 6 + off
      match (if bs.isEmpty then none else firstDenied s d va bs.length true) with
      | some a =>
        translationFault id a (setQp id qi (finRecv k (Fail.of cAccessDenied (vaDetail a))) s)
      | none =>
        let s1 := acceptPsn f t p id qi
          (setQp id qi (noteInbound f first false []) (if bs.isEmpty then s else
            chargeWrites id [(va, bs.length)] (writeVa id va bs s)))
        match inboundWhole s1 id qi first with
        | none => afterPacket id qi q f p s1
        | some _ =>
          let long := decide (cap < fMsgLen f)
          let fin : Fail := if long then malformed 32
            else { status := cOk, result := BitVec.ofNat 64 (fMsgLen f), detail := 0 }
          let s2 := setQp id qi (fun q => finRecv k fin (dropInbound first q)) s1
          let s3 := settleAll id (progressRecvs id qi (q.recvs.length + 1) s2)
          if long then sendAck id qi 2 2 first (runInOrder id qi (q.inbound.length + 2) s3) else afterPacket id qi q f p s3

/-- GET, ATOMIC and FRAGMENT wait for their turn (R318). -/
def placeRequest (id qi : Nat) (q : Qp) (f : Frame) (t p : Nat) (payload : List Byte) (s : State) : State :=
  let first := (p + 2 ^ 48 - fIndex' f) % 2 ^ 48
  afterPacket id qi q f p (acceptPsn f t p id qi (setQp id qi
    (fun q =>
      let r := noteInbound f first (fOp f != 0x11) payload q
      if fOp f == 0x14 then r
      else { r with inbound := r.inbound.map (fun m => if m.psn == first then { m with pkts := 1, done := true } else m) }) s))

/-- The send entry that a response answers. -/
def answered (q : Qp) (op reqPsn : Nat) : Option Msg :=
  q.msgs.find? (fun m => m.op == op && m.pos.isSome && !m.answered && m.failed.isNone && m.firstPsn % 2 ^ 32 == reqPsn)

/-- A message of the QP has its response. -/
def setAnswered (firstPsn : Nat) (v : Word) (q : Qp) : Qp :=
  { q with msgs := q.msgs.map (fun m => if m.firstPsn == firstPsn then { m with answered := true, result := v } else m) }

/-- A local target fails: its entry ends `ACCESS_DENIED`, a fault of the partition (R155, R321). -/
def localDenied (id qi firstPsn a : Nat) (s : State) : State :=
  translationFault id a (setQp id qi (fun q => { q with msgs := q.msgs.map (fun m =>
    if m.firstPsn == firstPsn then { m with failed := some (Fail.of cAccessDenied (vaDetail a)) } else m) }) s)

/-- GET_RESP: into the GET's target. -/
def placeGetResp (id qi : Nat) (d : Def) (q : Qp) (f : Frame) (t p : Nat) (payload : List Byte) (s : State) : State :=
  let first := (p + 2 ^ 48 - fIndex' f) % 2 ^ 48
  match answered q 0x11 (fReqPsn f) with
  | none => afterPacket id qi q f p (acceptPsn f t p id qi s)
  | some m =>
    let off := fIndex' f * fullPayload q.conn
    let bs := payload.take (m.len - off)
    let va := fld m.entry 16 6 + off
    match (if bs.isEmpty then none else firstDenied s d va bs.length true) with
    | some a => localDenied id qi m.firstPsn a s
    | none =>
      let s1 := acceptPsn f t p id qi (setQp id qi (noteInbound f first false [])
        (if bs.isEmpty then s else chargeWrites id [(va, bs.length)] (writeVa id va bs s)))
      match inboundWhole s1 id qi first with
      | none => afterPacket id qi q f p s1
      | some _ =>
        afterPacket id qi q f p (qpProgress id qi
          (setQp id qi (fun q => setAnswered m.firstPsn (BitVec.ofNat 64 m.len) (dropInbound first q)) s1))

/-- ATOMIC_RESP: the old value, also to RESULT_VA where the entry names one. -/
def placeAtomicResp (id qi : Nat) (d : Def) (q : Qp) (f : Frame) (t p : Nat) (payload : List Byte) (s : State) : State :=
  match answered q 0x12 (fReqPsn f) with
  | none => afterPacket id qi q f p (acceptPsn f t p id qi s)
  | some m =>
    let v := fldBe payload 0 8
    let va := fld m.entry 16 6
    match (if va == 0 then none else firstDenied s d va 8 true) with
    | some a => localDenied id qi m.firstPsn a s
    | none =>
      afterPacket id qi q f p (qpProgress id qi (setQp id qi (setAnswered m.firstPsn (BitVec.ofNat 64 v))
        (acceptPsn f t p id qi (if va == 0 then s else chargeWrites id [(va, 8)] (writeVa id va (leBytes 8 v) s)))))

/-- FRAGMENT_RESP: whole, it goes to the outstanding fragments. -/
def placeFragResp (slot id qi : Nat) (q : Qp) (f : Frame) (t p : Nat) (payload : List Byte) (s : State) : State :=
  let first := (p + 2 ^ 48 - fIndex' f) % 2 ^ 48
  let s1 := acceptPsn f t p id qi (setQp id qi (noteInbound f first true payload) s)
  match inboundWhole s1 id qi first with
  | none => afterPacket id qi q f p s1
  | some m => afterPacket id qi q f p (fragReply slot id qi m.data (setQp id qi (dropInbound first) s1))

/-- A data packet inside the window. -/
def placeData (slot id qi : Nat) (d : Def) (q : Qp) (f : Frame) (t p : Nat) (payload : List Byte) (s : State) : State :=
  match fOp f with
  | 0x10 => placePut id qi d q f t p payload s
  | 0x13 => placeSend id qi f t p payload s
  | 0x21 => placeGetResp id qi d q f t p payload s
  | 0x22 => placeAtomicResp id qi d q f t p payload s
  | 0x24 => placeFragResp slot id qi q f t p payload s
  | _ => placeRequest id qi q f t p payload s

/-! ### The checks (R331) -/

/-- A duplicate is counted and acknowledged again, at most once in 4 µs; a held ATOMIC result goes out again (R320, R323,
R324). -/
def duplicate (id qi : Nat) (q : Qp) (f : Frame) (p : Nat) (s : State) : State :=
  let s1 := countQp id qi addDuplicate s
  let s2 := match (if fOp f == 0x12 then heldAtomic q p else none) with
    | some v => if q.msgs.any (fun m => m.op == 0x22 && m.reqPsn == p) then s1 else formOwn id qi 0x22 [] (beBytes 8 v.toNat) p s1
    | none => s1
  if (match q.ack.lastDup with | some t => decide (now s < t + 4000) | none => false) then s2
  else sendAck id qi 0 0 0 (setQp id qi (fun q => { q with ack := { noteTrigger f p q.ack with lastDup := some (now s) } }) s2)

/-- A packet that fails authentication: an XPT event, at most one for a QP in a millisecond. -/
def authFail (id qi : Nat) (q : Qp) (s : State) : State :=
  let s1 := countQp id qi addAuthFail s
  if (match q.lastAuth with | some t => decide (now s < t + 1000000) | none => false) then s1
  else detect1 (slotCause s1 id 0x0900 0) (setQp id qi (fun q => { q with lastAuth := some (now s) }) s1)

/-- Whether an ATOMIC's decrypted payload is well formed (R305). -/
def atomicOk (f : Frame) (payload : List Byte) : Bool :=
  fOp f != 0x12 || (fldBe payload 0 1 < 3 && zeros payload 1 7)

/-- Steps 7 and 8 for a data packet. -/
def dataPacketIn (slot id qi : Nat) (d : Def) (q : Qp) (f : Frame) (t : Nat) (s : State) : State :=
  let p := extendPsn q.rcvNxt (fEpsn f)
  match gcmOpen (linkKeyOf d q).2 (maelicNonce (fNode f) (fSrcQpn f) false (fTry f) p) f.hdr f.body f.tag with
  | none => authFail id qi q s
  | some payload =>
    let ahead := (fEpsn f + 2 ^ 32 - q.rcvNxt % 2 ^ 32) % 2 ^ 32
    if 2 ^ 31 ≤ ahead || q.got.contains p then duplicate id qi q f p s
    else if 1024 ≤ ahead then countQp id qi addOutOfWindow s
    else if !atomicOk f payload then countQp id qi addMalformed s
    else placeData slot id qi d q f t p payload s

/-- Steps 7 and 8 for a control packet. -/
def controlPacketIn (slot id qi : Nat) (d : Def) (q : Qp) (f : Frame) (s : State) : State :=
  let p := extendPsn q.ctlSeen (fEpsn f)
  match gcmOpen (linkKeyOf d q).2 (maelicNonce (fNode f) (fSrcQpn f) true (fTry f) p) (f.hdr ++ f.body) [] f.tag with
  | none => authFail id qi q s
  | some _ =>
    if p ≤ q.ctlSeen then countQp id qi addDuplicate s
    else
      let s1 := setQp id qi (fun q => { q with ctlSeen := p }) s
      if fOp f == 0x30 then ackArrives slot id qi (fPath f) f.body s1 else abortArrives id qi s1

/-- The address of the peer in the connection record. -/
def peerIp (c : List Byte) : Nat := fldBe c 40 16

/-- The check-value context of a receive lane after a frame (R352, R357). -/
def rxContext (f : Frame) : CrcCtx :=
  (CrcCtx.init 0 true (BitVec.ofNat 64 (fDst f * 2 ^ 32 + fEpsn f % 2 ^ 32))).feed (f.hdr ++ f.body ++ f.tag)

/-- The lane of a port's direction takes a context. -/
def setLane (lane : Nat) (c : CrcCtx) (s : State) : State :=
  { s with xpt := { s.xpt with crc := setNth s.xpt.crc lane (fun _ => c) } }

/-- Steps 4 to 8, for a QP whose context is cached; `t` is the frame's arrival at the client port (R45). A frame whose check met
a parity error is dropped as one whose check fails (R363). -/
def checkFrame (slot id qi : Nat) (f : Frame) (t : Nat) (s0 : State) : State :=
  let s := setLane (2 * f.port + 1) (rxContext f) s0
  match (getDef s id).bind (fun d => (mfind d.qps qi).map (fun q => (d, q))) with
  | none => s
  | some (d, q) =>
    if s.crcBad.contains (0x100 + (2 * f.port + 1)) then
      countQp id qi addCrcFail { s with crcBad := s.crcBad.filter (· != 0x100 + (2 * f.port + 1)) }
    else if maelicCheck (fDst f) (fEpsn f) (f.hdr ++ f.body ++ f.tag) != beBytes 4 f.check.toNat then countQp id qi addCrcFail s
    else if !packetFormOk q.conn f then countQp id qi addMalformed s
    else if f.srcIp.toNat != peerIp q.conn || fSrcQpn f != cnPeerQpn q.conn || fNode f != (Config.peerNode q.conn).toNat ||
        fKeyId f != (linkKeyOf d q).1 then countQp id qi addMismatch s
    else if isControl (fOp f) then controlPacketIn slot id qi d q f s
    else dataPacketIn slot id qi d q f t s

/-- The resident definition and QP that a physical QP number belongs to (R311). -/
def qpByNumber (s : State) (n : Nat) : Option (Nat × Nat × Def × Nat × Qp) :=
  s.defs.findSome? (fun p => match p.2.slot with
    | some sl => (p.2.qps.find? (fun q => q.2.phys == n)).map (fun q => (sl, p.1, p.2, q.1, q.2))
    | none => none)

/-- A context becomes the most recently used of those cached (R332). -/
def touchContext (slot qi cap : Nat) (s : State) : State :=
  setSlot s slot (fun x => { x with qpCached := (qi :: x.qpCached.filter (· != qi)).take cap })

/-- Bytes of the frames that wait on a port for a context. -/
def waitingBytes (s : State) (port : Nat) : Nat :=
  ((s.xpt.waitingFrames.filter (fun f => f.1.port == port)).map (fun f => f.1.udpLen)).sum

/-- A frame received at a time, through every step of R331. -/
def receive (f : Frame) (t : Nat) (s : State) : State :=
  if f.rxErr then countRxErr f.port s
  else if f.rxTrunc then
    (match qpByNumber s (fDst f) with
     | some (_, id, _, qi, _) => countQp id qi addMalformed s
     | none => s)
  else if f.udpPort != 51804 then countNonMaelic f.port s
  else match qpByNumber s (fDst f) with
    | none => countNoQp f.port s
    | some (sl, id, d, qi, q) =>
      if d.state == .scrubbing || q.state != .ready then countNoQp f.port s
      else if (getSlot s sl).qpCached.contains qi then checkFrame sl id qi f t (touchContext sl qi d.grant.qpCache s)
      else if waitingBytes s f.port + f.udpLen ≤ 262144 then
        { s with xpt := { s.xpt with waitingFrames := s.xpt.waitingFrames ++ [(f, BitVec.ofNat 64 t)] } }
      else countNoQp f.port s

/-- A row for frames of one opcode: it acts on such a frame, on one of no opcode of R305, and on one that an earlier step
than the opcode's drops. -/
def packetRow (op : Nat) (f : Frame) (s : State) : State :=
  if fOp f == op || !packetOpOk (fOp f) then receive f (now s) s else s

/-- QP_CONTEXT_FETCHED: the frames that waited for the context go through the rest of the checks, with the time of their arrival
(R45, R332). The parapet passes the fetch only through the shared window that the keep has authorised (R13, R109). -/
def contextFetched (slot qp : Nat) (s : State) : State :=
  match inSlot s slot with
  | none => s
  | some (_, d) =>
    match mfind d.qps qp with
    | none => s
    | some q =>
      if !(getSlot s slot).windows.contains q.phys then parapetDenied slot (Config.contextAddr q.phys) s
      else
        let mine := s.xpt.waitingFrames.filter (fun f => fDst f.1 == q.phys)
        mine.foldl (fun s f => receive f.1 f.2.toNat s)
          { touchContext slot qp d.grant.qpCache (charge slot 0 (charge64 Config.contextBytes) s) with
            xpt := { s.xpt with waitingFrames := s.xpt.waitingFrames.filter (fun f => fDst f.1 != q.phys) } }

/-! ### Frames as commands -/

def execPutPacket (f : Frame) (s : State) : Result := .next (whenOp (packetRow 0x10 f) s)
def execGetPacket (f : Frame) (s : State) : Result := .next (whenOp (packetRow 0x11 f) s)
def execAtomicPacket (f : Frame) (s : State) : Result := .next (whenOp (packetRow 0x12 f) s)
def execSendPacket (f : Frame) (s : State) : Result := .next (whenOp (packetRow 0x13 f) s)
def execFragmentRequest (f : Frame) (s : State) : Result := .next (whenOp (packetRow 0x14 f) s)
def execGetResp (f : Frame) (s : State) : Result := .next (whenOp (packetRow 0x21 f) s)
def execAtomicResp (f : Frame) (s : State) : Result := .next (whenOp (packetRow 0x22 f) s)
def execFragmentResp (f : Frame) (s : State) : Result := .next (whenOp (packetRow 0x24 f) s)
def execAck (f : Frame) (s : State) : Result := .next (whenOp (packetRow 0x30 f) s)
def execAbort (f : Frame) (s : State) : Result := .next (whenOp (packetRow 0x31 f) s)
/-- NON_MAELIC_FRAME (R44). -/
def execNonMaelicFrame (f : Frame) (s : State) : Result :=
  .next (whenOp (fun s => if !f.rxErr && !f.rxTrunc && f.udpPort != 51804 then receive f (now s) s else s) s)
/-- RX_ERROR_FRAME (R46). -/
def execRxErrorFrame (f : Frame) (s : State) : Result :=
  .next (whenOp (fun s => if f.rxErr || f.rxTrunc then receive f (now s) s else s) s)
def execQpContextFetched (slot qp : Nat) (s : State) : Result := .next (whenOp (contextFetched slot qp) s)

end Sys2Proof.Machine
end

