-- ==== Sys2Proof/Machine/Posting.lean ====
section
/-! DEFINITION. Entries of QP queues and the control operations of the transport context (R144, R145, R312 to R316, R321). -/

namespace Sys2Proof.Machine

/-! ### Send entries (R316) -/

/-- What an admitted send entry sends, or why it cannot: a failed local read, with the address where translation failed. -/
inductive Formed where
  | data (bs : List Byte)
  | poisoned (va : Nat)
  | denied (va : Nat)

def formData (s : State) (d : Def) (e : List Byte) : Formed :=
  match eOp e with
  | 0x11 => .data []
  | 0x12 => .data (beBytes 1 (fld e 22 1) ++ List.replicate 7 0 ++ beBytes 8 (fld e 32 8) ++ beBytes 8 (fld e 40 8))
  | _ => match readVa s d (fld e 16 6) (fld e 32 4) with
    | .ok bs => .data bs
    | .poisoned va => .poisoned va
    | .denied va => .denied va

/-- Length of the message of an entry. -/
def entryLen (e : List Byte) : Nat := if eOp e == 0x12 then 24 else fld e 32 4

/-- An entry is admitted: its message takes its PSNs. A failed local read ends the QP or the partition (R155, R321). -/
def admitSend (id qi : Nat) (d : Def) (q : Qp) (sq : Queue) (e : List Byte) (s : State) : State :=
  let pkts := if eOp e == 0x11 || eOp e == 0x12 then 1 else packetsOf q.conn (entryLen e)
  let va := if eOp e == 0x12 then fld e 24 6 else if eOp e == 0x13 then 0 else fld e 24 8
  let put (bs : List Byte) (f : Option Fail) (s : State) : State :=
    formMsg id qi (eOp e) (some sq.head) e bs (entryLen e) pkts va 0 f
      (nextEntry id qi true (reserve id sq.cpl s))
  match formData s d e with
  | .data bs =>
    put bs none (if eOp e == 0x10 || eOp e == 0x13 then chargeReads id [(fld e 16 6, fld e 32 4)] s else s)
  | .poisoned a =>
    settleAll id (qpError id qi 0x08 cCancelled true (put [] (some (Fail.of cPoisoned (vaDetail a))) s))
  | .denied a => translationFault id a (put [] (some (Fail.of cAccessDenied (vaDetail a))) s)

/-- The head entry of a send queue of a QP in `READY`. -/
def sendHead (id qi : Nat) (d : Def) (q : Qp) (sq : Queue) (e : List Byte) (s : State) : State :=
  let idle := !q.msgs.any (fun m => m.pos.isSome)
  let room := match mfind d.cpls sq.cpl with | some c => decide (1 ≤ cplRoom c) | none => false
  let refuse (st detail : Nat) (s : State) : State :=
    nextEntry id qi true (decideUnadmitted id sq.cpl (hSend qi) sq.head sq.base sq.log2 st detail s)
  match sendFault s d e with
  | some o => if idle then refuse cMalformed o s else s
  | none =>
    let i := fIndex (eWaitFence e)
    let f := getFence d i
    if fMode (eWaitFence e) == 1 && f.abandoned then
      (if idle then
        let next := if fMode (eSignalFence e) == 0 then [] else [fIndex (eSignalFence e)]
        settleAll id (abandonAll id (abandonFuel d) next 0 (refuse cAbandoned i s)).2
       else s)
    else if fMode (eWaitFence e) == 1 && !reaches f.value (eWaitValue e) then s
    else if room && psnsLeft q then admitSend id qi d q sq e s
    else psnCheck id qi s

/-- A row for send entries: it acts on a head entry of its opcode, or of an opcode that no send entry has. -/
def sendRow (op slot qi : Nat) (s : State) : State :=
  match inSlot s slot with
  | none => s
  | some (id, d) =>
    match mfind d.qps qi with
    | none => s
    | some q =>
      match q.sq with
      | none => s
      | some sq =>
        let e := entryAt s (boundFn d) sq.base sq.log2 sq.head
        if !headRuns d (hSend qi) sq.head || sq.state != .active || sq.head == sq.tail || q.state == .reset ||
            (eOp e != op && sendOpOk (eOp e)) then s
        else if q.state == .error then
          nextEntry id qi true
            (decideUnadmitted id sq.cpl (hSend qi) sq.head sq.base sq.log2
              (if q.reason == 0x05 then cPartitionReset else cCancelled) 0 s)
        else sendHead id qi d q sq e s

/-- PUT (R316). -/
def execPut (slot qp : Nat) (s : State) : Result := .next (whenOp (sendRow 0x10 slot qp) s)
/-- GET (R316). -/
def execGet (slot qp : Nat) (s : State) : Result := .next (whenOp (sendRow 0x11 slot qp) s)
/-- ATOMIC (R320). -/
def execAtomic (slot qp : Nat) (s : State) : Result := .next (whenOp (sendRow 0x12 slot qp) s)
/-- SEND (R319). -/
def execSend (slot qp : Nat) (s : State) : Result := .next (whenOp (sendRow 0x13 slot qp) s)

/-- SEND_RECEIVE (R316, R319). -/
def recvRow (slot qi : Nat) (s : State) : State :=
  match inSlot s slot with
  | none => s
  | some (id, _) => recvHead id qi false s

def execSendReceive (slot qp : Nat) (s : State) : Result := .next (whenOp (recvRow slot qp) s)

/-! ### QP_MODIFY and QP_QUERY (R312 to R315) -/

/-- Both queues of a QP are `ACTIVE`. -/
def queuesActive (q : Qp) : Bool :=
  (match q.sq with | some x => x.state == .active | none => false) &&
  (match q.rq with | some x => x.state == .active | none => false)

/-- A QP as it enters `READY` with its record (R315): both PSN streams, the congestion state and the counts start. -/
def Qp.start (q : Qp) (c : List Byte) (t : Nat) : Qp :=
  { Qp.fresh q.phys with
    conn := c, state := .ready, sq := q.sq, rq := q.rq, sndNxt := fld c 64 4, sndUna := fld c 64 4, rcvNxt := fld c 68 4
    cong := Cong.start c t }

/-- A QP as it goes back to `RESET`. -/
def Qp.stop (q : Qp) : Qp := { Qp.fresh q.phys with conn := q.conn, sq := q.sq, rq := q.rq }

/-- QP_MODIFY's arguments (R312): a QP index, one of two targets, and a record only for `READY`. -/
def modifyArgsOk (c : Ctl) : Bool :=
  c.arg0.toNat < 2 ^ 17 && c.arg2 == 0 && c.arg3 == 0 &&
  (if bits c.arg0.toNat 17 16 == 1 then c.arg1.toNat % 64 == 0 && c.arg1.toNat < 2 ^ 48 else c.arg1 == 0)

/-- A control operation's own access to the partition's addresses fails (R155). -/
def ctlDenied (id va : Nat) (s : State) : CtlEnd := ends cAccessDenied (translationFault id va s)

/-- QP_MODIFY to `READY`. -/
def qpToReady (id qi : Nat) (d : Def) (q : Qp) (va : Nat) (s : State) : CtlEnd :=
  match readVa s d va 128 with
  | .denied a => ctlDenied id a s
  | .poisoned _ => ends cPoisoned s
  | .ok rec_ =>
    if !connOk d.grant d.linkKeys rec_ || !queuesActive q then ends cMalformed s
    else if q.state != .reset then ends cInUse s
    else
      ends cOk (touchPage id (touchContext (d.slot.getD 0) qi d.grant.qpCache
        (setQp id qi (fun q => q.start rec_ (now s)) (chargeReads id [(va, 128)] s))))

/-- QP_MODIFY to `RESET`: only from `ERROR`, with every entry completed and no transfer in flight. -/
def qpToReset (id qi : Nat) (d : Def) (q : Qp) (s : State) : CtlEnd :=
  if q.state != .error || hasEntries d (hSend qi) || hasEntries d (hRecv qi) || !q.sent.isEmpty || !q.msgs.isEmpty then
    ends cInUse s
  else ends cOk (touchPage id (setQp id qi (fun q => q.stop) s))

/-- QP_MODIFY (R312). -/
def qpModify : CtlBody := fun _ id d c s =>
  let qi := bits c.arg0.toNat 15 0
  if !modifyArgsOk c then ends cMalformed s
  else match (if qi < d.grant.qps then mfind d.qps qi else none) with
    | none => ends cAccessDenied s
    | some q => if bits c.arg0.toNat 17 16 == 1 then qpToReady id qi d q c.arg1.toNat s else qpToReset id qi d q s

def qpStateCode : QpState → Nat
  | .reset => 0
  | .ready => 1
  | .error => 2

/-- The status record (R314). -/
def qpStatus (q : Qp) : List Byte :=
  let c := q.counts
  leBytes 3 q.phys ++ leBytes 1 (qpStateCode q.state) ++ leBytes 1 q.reason ++ [0, 0, 0] ++
  leBytes 4 (nextToSend q) ++ leBytes 4 q.sndUna ++ leBytes 4 q.rcvNxt ++ leBytes 4 c.malformed ++ leBytes 4 c.crcFail ++
  leBytes 4 c.authFail ++ leBytes 4 c.mismatch ++ leBytes 4 c.duplicate ++ leBytes 4 c.outOfWindow ++
  leBytes 4 c.retransmitted ++ leBytes 6 (nextToSend q) ++ List.replicate 10 0

/-- QP_QUERY (R312, R314). -/
def qpQuery : CtlBody := fun _ id d c s =>
  let qi := c.arg0.toNat
  if 2 ^ 16 ≤ qi || c.arg1.toNat % 64 != 0 || 2 ^ 48 ≤ c.arg1.toNat || c.arg2 != 0 || c.arg3 != 0 then ends cMalformed s
  else match (if qi < d.grant.qps then mfind d.qps qi else none) with
    | none => ends cAccessDenied s
    | some q =>
      match firstDenied s d c.arg1.toNat 64 true with
      | some a => ctlDenied id a s
      | none => ends cOk (chargeWrites id [(c.arg1.toNat, 64)] (writeVa id c.arg1.toNat (qpStatus q) s))

/-- A row of one of QP_MODIFY's two targets: it acts on an operation whose target is its own, or is neither of the two. -/
def modifyRow (target : Nat) (c : Ctl) (s : State) : State :=
  let t := bits c.arg0.toNat 17 16
  if t == target || 1 < t then ctlOp 6 qpModify c s else s

/-- QP_MODIFY_READY (R315). -/
def execQpModifyReady (c : Ctl) (s : State) : Result := .next (whenOp (modifyRow 1 c) s)
/-- QP_MODIFY_RESET (R315). -/
def execQpModifyReset (c : Ctl) (s : State) : Result := .next (whenOp (modifyRow 0 c) s)
/-- QP_QUERY (R314). -/
def execQpQuery (c : Ctl) (s : State) : Result := .next (whenOp (ctlOp 7 qpQuery c) s)

end Sys2Proof.Machine
end

