-- ==== Sys2Proof/Machine/Quiesce.lean ====
section
/-! DEFINITION. The end of a quiesce, its limits, and the reset of a virtual function (R62, R111, R113, R151, R153, R175 to
R178, R532). -/

namespace Sys2Proof.Machine

/-! ### Control operations by number (R150, R312) -/

/-- The operation that a value of DB.CTL_OP names. -/
def ctlBody (op : Nat) : Option CtlBody :=
  match op with
  | 1 => some ringCreate
  | 2 => some ringDestroy
  | 3 => some ringAbort
  | 4 => some ptSet
  | 5 => some invalidate
  | 6 => some qpModify
  | 7 => some qpQuery
  | 8 => some fenceInit
  | 9 => some fenceAbandon
  | 10 => some fenceRead
  | _ => none

/-- The work of a value written to DB.CTL_OP; one that names no operation is out of its range (R151). -/
def ctlBodyOf (op : Nat) : CtlBody :=
  match ctlBody op with
  | some body => body
  | none => fun _ _ _ _ s => ends cMalformed s

/-- An operation that waited for the end of a quiesce goes on (R151). -/
def runWaiting (fn id : Nat) (s : State) : State :=
  match (getFn s fn).waitOp with
  | none => s
  | some (op, c) => runCtl (ctlBodyOf op) fn id c (setFn s fn (fun f => { f with waitOp := none }))

/-! ### The save records (R176) -/

/-- Every ring is saved, in the save area and under the slot's label (R15); a wait marked SATISFIED is not tested again
(R179). -/
def saveRings (id : Nat) (s : State) : State :=
  match getDef s id with
  | none => s
  | some d =>
    let s1 := setDef (putRecords id (d.rings.map (·.1)) s) id (fun x => { x with
      rings := x.rings.map (fun p => (p.1, { p.2 with waitSat := (savedWait s d p.2).2.1 })) })
    match d.slot with
    | some sl => charge sl 0 (d.rings.length * charge64 64) s1
    | none => s1

/-- The drum is emptied outside the persistent share: what the watch has read, or is reading, is discarded as stale (R25, R113,
R254). -/
def discardFetches (id : Nat) (s : State) : State :=
  match (getDef s id).bind (fun d => d.slot) with
  | none => s
  | some sl =>
    let n := (s.fetches.filter (fun f => f.2.slot == sl)).length
    setSlot { s with fetches := s.fetches.filter (fun f => f.2.slot != sl) } sl (fun x => { x with
      squash := x.squash + BitVec.ofNat 64 n })

/-! ### The phases of a quiesce (R113) -/

/-- Entries of a queue that were posted before PART_QUIESCE and have not left it. -/
def queueDue (d : Def) (h : Nat) (q : Option Queue) : Nat :=
  match q, d.quiesce.bind (fun z => mfind z.tails h) with
  | some q, some tl => if (tl - q.head).toNat < 2 ^ 31 then (tl - q.head).toNat else 0
  | _, _ => 0

/-- Entries of a QP that a quiesce waits for: posted before it, or admitted, and not completed. -/
def qpBusy (d : Def) (qi : Nat) (q : Qp) : Bool :=
  q.state != .reset && (queueDue d (hSend qi) q.sq != 0 || queueDue d (hRecv qi) q.rq != 0 ||
    q.msgs.any (fun m => m.pos.isSome) || !q.recvs.isEmpty)

/-- The remaining QP entries complete `CANCELLED`, and their QPs enter `ERROR`. -/
def flushQps (id : Nat) (s : State) : State :=
  eachQp id (fun qi s => match getDef s id, getQp s id qi with
    | some d, some q => if qpBusy d qi q then qpFlush id qi s else s
    | _, _ => s) s

/-- No tile of the partition runs or waits for a peer. -/
def tilesStill (d : Def) : Bool :=
  d.rings.all (fun p => match p.2.cur with | some c => atBoundary c | none => true)

/-- Every object returns to `NONE`, the fences start again and the table base is cleared (R153). -/
def clearObjects (id : Nat) (s : State) : State :=
  setDef s id (fun d => { d with
    rings := [], cpls := [], fences := [], ptBase := none
    qps := d.qps.map (fun p => (p.1, { p.2 with sq := none, rq := none })) })

/-- A completion ring writes what it can of the completions that wait; the end of a quiesce or of a reset comes when the carillon
slots that this takes have passed (log 74). -/
def drainCpl (slot cpl : Nat) : Nat → State → State
  | 0, s => s
  | n + 1, s => drainCpl slot cpl n (cplWrite slot cpl s)

/-- The completions decided are written before their rings go (R62, R147). One that its full ring has no slot for goes with the
ring (log 74). -/
def drainCpls (id : Nat) (s : State) : State :=
  match getDef s id with
  | some d => (match d.slot with
    | some sl => d.cpls.foldl (fun s p => drainCpl sl p.1 p.2.waiting.length s) s
    | none => s)
  | none => s

/-- The reset of a VF's function: the effects of PART_RESET, their completions, and then the objects are gone (R62, R153,
R532). -/
def flrReset (id : Nat) (s : State) : State :=
  clearObjects id (drainCpls id (resetEffects id (setDef s id (fun d => { d with state := .resident }))))

/-- The state that a finished quiesce leaves: `QUIESCED`, or `RESIDENT` after a reset. -/
def quiesceTo (id : Nat) (q : Quiesce) (s : State) : State :=
  if q.flr then flrReset id s
  else if q.thenReset then resetEffects id (setDef s id (fun d => { d with state := .resident }))
  else setDef s id (fun d => { d with state := .quiesced })

/-- QUIESCE_COMPLETE: enabled once the tiles stand still and the QP phase is over. The completions decided are written first, as
far as their rings have room (R113, R147). -/
def quiesceComplete (id : Nat) (s : State) : State :=
  match getDef s id with
  | none => s
  | some d =>
    match d.quiesce with
    | none => s
    | some q =>
      if d.state != .quiescing || !tilesStill d || (!q.flush && d.qps.any (fun p => qpBusy d p.1 p.2)) then s
      else
        let s1 := quiesceTo id q (discardFetches id (drainCpls id (saveRings id (if q.flush then flushQps id s else s))))
        let s2 := endQuiesce id (if q.flr then stPartitionReset else stOk) s1
        let s3 := if q.lapse then notice .pf 0x05 0 0 0 stOk id s2 else s2
        resumeInbound id (runWaiting (boundFn d) id (touchPage id s3))

def execQuiesceComplete (id : Nat) (s : State) : Result := .next (whenOp (quiesceComplete id) s)

/-- DRAIN_LIMIT_EXPIRY: the QP entries that remain are flushed (R113). -/
def drainLimit (id : Nat) (s : State) : State :=
  match getDef s id with
  | none => s
  | some d =>
    match d.quiesce with
    | none => s
    | some q =>
      if d.state != .quiescing || q.flush then s
      else flushQps id (setDef s id (fun d => { d with quiesce := some { q with flush := true } }))

def execDrainLimitExpiry (id : Nat) (s : State) : Result := .next (whenOp (drainLimit id) s)

/-- PREEMPT_WAIT_EXPIRY: a tile that waits for a peer while pre-emption is pending is dropped (R177). -/
def preemptExpiry (slot ring tile : Nat) (s : State) : State :=
  match inSlot s slot with
  | none => s
  | some (id, d) =>
    match mfind d.rings ring with
    | none => s
    | some r =>
      match r.cur.bind (fun c => c.tile tile) with
      | none => s
      | some t =>
        if t.state != .remoteWait || !(d.state == .quiescing || r.state == .aborting) then s
        else
          settleAll id (setCur id ring (fun c => c.setTile tile (fun t => { t with
            state := .dropped, acc := [], loc := [], replies := 0, asked := [] })) (advanceFragEpoch id ring s))

def execPreemptWaitExpiry (slot ring tile : Nat) (s : State) : Result := .next (whenOp (preemptExpiry slot ring tile) s)

/-! ### FLR of a VF (R62, R153, R532) -/

/-- The action on the bound definition by its state. -/
def flrDef (id : Nat) (d : Def) (s : State) : State :=
  match d.state with
  | .running =>
    setDef (beginQuiesce id true 10000 none true false s) id (fun d => { d with
      quiesce := d.quiesce.map (fun q => { q with flr := true }) })
  | .quiescing => setDef s id (fun d => { d with
      quiesce := d.quiesce.map (fun q => { q with flush := true, thenReset := true, flr := true }) })
  | .resident | .quiesced | .faulted =>
    touchPage id (flrReset id (endBind id stPartitionReset s))
  | .scrubbing => clearObjects id s
  | .defined => s

/-- VF_FLR: the session ends without a notice; a TDI enters `ERROR` first (R406, R433). -/
def vfFlr (fn : Nat) (s : State) : State :=
  let s1 := tdiFault fn (setFn s fn (fun f => { f with mbox := { f.mbox with session := none } }))
  match boundTo s1 fn with
  | some (id, d) => flrDef id d s1
  | none => s1

def execVfFlr (fn : Nat) (s : State) : Result := .next (whenOp (vfFlr fn) s)

end Sys2Proof.Machine
end

