-- ==== Sys2Proof/Machine/Events.lean ====
section
/-! DEFINITION. Events of the host ports, of the fault units and of the FAULT_N pin (R58, R62, R467, R478, R479, R483,
R485). -/

namespace Sys2Proof.Machine

/-! ### Resets and links of the host ports (R58, R62) -/

/-- The SPDM sessions of a port's PF end (R403). -/
def endPortSessions (port : Nat) (s : State) : State := endSessions port ((getSpdm s port).sessions ++ (getSpdm s port).opening) s

/-- PF0_FLR: the Volmi session ends and an attached belfry is `ORPHANED`; running partitions continue (R62, R434). -/
def execPf0Flr (s : State) : Result := .next (whenOp (fun s => endPortSessions 0 (pfLost s)) s)

/-- PF1_FLR: the doorbell registers of the port 1 PF are cleared (R62). -/
def pf1Flr (s : State) : State :=
  if !s.pins.host1En then s
  else endPortSessions 1 (setFn s 65 (fun f => { f with
    arg0 := 0, arg1 := 0, arg2 := 0, arg3 := 0, ctlStatus := 0, drained := false, ctlResult := 0, ctlVecEn := false
    ctlVec := 0, regress := 0, discards := [] }))

def execPf1Flr (s : State) : Result := .next (whenOp pf1Flr s)

/-- Resident definitions bound to a port: identifier and definition. -/
def boundOnPort (s : State) (port : Nat) : List (Nat × Def) :=
  s.defs.filter (fun p => p.2.slot.isSome && p.2.grant.bindPort == port)

/-- Whether the TDI of a function is locked or runs. -/
def tdiHeld (s : State) (fn : Nat) : Bool := (getFn s fn).tdi == .locked || (getFn s fn).tdi == .run

/-- The causes of one clock when a link is lost: LINK_LOST of each slot, and TDI_ERROR of each held TDI (R62, R406). -/
def linkCauses (s : State) (port : Nat) : List Cause :=
  (boundOnPort s port).map (fun p => slotCause s p.1 0x0B02 (BitVec.ofNat 64 port)) ++
  ((boundOnPort s port).filter (fun p => p.2.grant.confidential && tdiHeld s (boundFn p.2))).map (fun p =>
    slotCause s p.1 0x0B03 0)

/-- Every VF of a port leaves its held TDI state. -/
def tdiErrors (port : Nat) (s : State) : State :=
  (List.range 64).foldl (fun s i => tdiError (fnId port (i + 1)) s) s

/-- What link down, a hot reset or a link without FLIT mode does (R62, R403, R406, R434). -/
def linkLost (port : Nat) (s : State) : State :=
  let s1 := endPortSessions port (detect 0x0B (linkCauses s port) (tdiErrors port s))
  if port == 0 then pfLost s1 else s1

/-- The level of a host port's link. -/
def setLink (port : Nat) (up : Bool) (s : State) : State :=
  if port == 0 then { s with pins := { s.pins with link0Up := up } } else { s with pins := { s.pins with link1Up := up } }

def execHostLinkDown (port : Nat) (s : State) : Result :=
  .next (whenAlive (fun s => if portExists s port then whenOp (linkLost port) (setLink port false s) else s) s)

/-- HOST_LINK_UP: a link that trains without FLIT mode counts as down (R58). -/
def execHostLinkUp (port : Nat) (flit : Bool) (s : State) : Result :=
  .next (whenAlive (fun s =>
    if !portExists s port then s
    else if flit then setLink port true s
    else whenOp (linkLost port) (setLink port false s)) s)

/-- HOST_DMA_ERROR: a fault of the partition whose label the request carried (R62). -/
def execHostDmaError (slot gen : Nat) (iova : Word) (s : State) : Result :=
  .next (whenAlive (detect1
    { code := 0x0B01, slot := some slot, owner := none, loadGen := gen, detail := iova, injected := false }) s)

/-! ### Fault units (R467, R478, R479, R485) -/

/-- FAULT_RECORD: one fabric clock of a unit with the causes detected in it. -/
def execFaultRecord (unit : Nat) (causes : List Cause) (s : State) : Result := .next (whenAlive (detect unit causes) s)

/-- SAFE_STATE_ENTRY: a unit decides a cause of class `FATAL`; a cause of another class decides nothing here. -/
def execSafeStateEntry (c : Cause) (s : State) : Result :=
  .next (whenAlive (fun s => if classOf s c == some .fatal then detect1 c s else s) s)

/-- PARITY_SWEEP: a failing block is a STATUS_PARITY event with its unit number (R478). -/
def execParitySweep (bad : Option Nat) (s : State) : Result :=
  .next (whenAlive (fun s => match bad with
    | some u => detect1 (blockCause 0x0103 (BitVec.ofNat 64 u)) s
    | none => s) s)

/-- A command's tile of an issue: the ring named holds it and it runs on that engine. -/
def runsOn (s : State) (u : LRef) (dome engine : Nat) : Option (Nat × Tile) :=
  (inSlot s u.slot).bind (fun p => (mfind p.2.rings u.ring).bind (fun r => r.cur.bind (fun c =>
    (c.tiles.find? (fun t => t.idx == u.tile && t.state == .issued && t.dome == dome && t.lane == engine)).map (fun t =>
      (p.1, t)))))

/-- ENGINE_FAULT: a fault of the slot whose tile ran; the tile writes nothing (R485). -/
def engineFault (dome engine : Nat) (u : LRef) (s : State) : State :=
  match runsOn s u dome engine with
  | some (id, _) => detect1 (slotCause s id 0x0800 (BitVec.ofNat 64 (dome * 256 + engine))) s
  | none => s

def execEngineFault (dome engine : Nat) (u : LRef) (s : State) : Result := .next (whenOp (engineFault dome engine u) s)

/-! ### FAULT_N (R40, R483) -/

/-- Whether FAULT_N stays low once the 2 µs have passed: SAFE_MODE decides in the safe state and after a start-up
that the tamper latch stopped (R495), CONTAINED_MODE otherwise. -/
def holdsLow (s : State) : Bool :=
  if s.flt.safe || s.flt.tampered then s.flt.safeMode == 1 else s.pins.containedHold || s.flt.containedMode == 2

/-- FAULT_N_PULSE_END: the pin follows the selected mode. -/
def faultNPulseEnd (s : State) : State :=
  if !s.pins.faultPulse then s
  else { s with pins := { s.pins with
    faultPulse := false, faultNLow := holdsLow s, containedHold := !(s.flt.safe || s.flt.tampered) && holdsLow s } }

def execFaultNPulseEnd (s : State) : Result := .next (whenAlive faultNPulseEnd s)

end Sys2Proof.Machine
end

