-- ==== Sys2Proof/Machine/RegRead.lean ====
section
/-! DEFINITION. Host reads of BAR0: the register map, the access rules, the fields that a read clears (R5, R78 to R80, R96,
R104, R138, R149, R227, R333, R361, R388, R389, R417, R459 to R466, R476 to R482, R491, R494, R519 to R531). -/

namespace Sys2Proof.Machine

/-! ### Where an offset lies (R464, R520, R524) -/

/-- The fault-block bases of R464: unit and base. -/
def blockBases : List (Nat × Nat) :=
  [(0x01, 0x2F000), (0x02, 0x1F000), (0x03, 0x4F000), (0x04, 0x5F000), (0x05, 0x6F000), (0x06, 0x8F000), (0x07, 0xAF000),
   (0x08, 0xCF000), (0x09, 0xEF000), (0x0A, 0xFF000), (0x0B, 0x31000), (0x0C, 0x32000), (0x0D, 0x33000)]

/-- What lies at an offset of a function's BAR0. -/
inductive Place where
  /-- A register of the PF's own map, by its 8-byte offset. -/
  | pf (o : Nat)
  /-- Bytes of a unit's fault block, by the offset in it. -/
  | block (unit o : Nat)
  /-- Bytes of a VF's fault view. -/
  | view (fn o : Nat)
  /-- Bytes of a mailbox, by the offset from its base. -/
  | box (b : Box) (o : Nat)
  /-- Bytes of a capability page. -/
  | cap (fn o : Nat)
  /-- Bytes of a doorbell page, the VF's own or through a slot's window, by the offset from page 0. -/
  | page (slot : Option Nat) (o : Nat)
  /-- DBA.STATUS of a slot. -/
  | dba (slot : Nat)
  | nothing

def vfPlace (fn o : Nat) : Place :=
  if o < 0x1000 then .cap fn o
  else if o < 0x2000 then .box (.part fn) (o - 0x1000)
  else if o < 0x3000 then .view fn (o - 0x2000)
  else if 0x10000 ≤ o && o < 0x100000 then .page none (o - 0x10000)
  else .nothing

/-- The doorbell area of a PF (R529). -/
def areaPlace (o : Nat) : Place :=
  let slot := (o - 0x100000) / 0x100000
  let r := o % 0x100000
  if 0x10000 ≤ r then .page (some slot) (r - 0x10000)
  else if r < 8 then .dba slot
  else .nothing

/-- The PF of port 1 decodes only IDENT and its doorbell area (R519). -/
def pfPlace (port o : Nat) : Place :=
  if 0x100000 ≤ o && o < 0x4100000 then areaPlace o
  else if port != 0 then (if o < 0x10000 then .pf o else .nothing)
  else match blockBases.find? (fun p => p.2 ≤ o && o < p.2 + 0x200) with
    | some (u, base) => .block u (o - base)
    | none =>
      if 0x10000 ≤ o && o < 0x15000 then .box .pf (o - 0x10000)
      else if o < 0x100000 then .pf o
      else .nothing

def placeOf (fn o : Nat) : Place := if fn % 65 == 0 then pfPlace (portOf fn) o else vfPlace fn o

/-- Offsets of a mailbox's request and answer buffers and their size (R416). -/
def reqBase : Box → Nat
  | .pf => 0x1000
  | _ => 0x800
def ansBase : Box → Nat
  | .pf => 0x3000
  | _ => 0xC00

/-- The arrays of R521. -/
def isArray : Place → Bool
  | .block _ o => 0x100 ≤ o
  | .view _ o => 0x100 ≤ o && o < 0x200
  | .box b o => (0x400 ≤ o && o < 0x800) || (reqBase b ≤ o && o < ansBase b + boxLimit b)
  | .cap _ _ => true
  | _ => false

/-- A read that R521 permits. -/
def readOk (array : Bool) (off size : Nat) : Bool :=
  if array then
    ((size == 1 || size == 2 || size == 4 || size == 8) && off % size == 0) ||
    (1 ≤ size && size ≤ 64 && off / 64 == (off + size - 1) / 64)
  else (size == 4 || size == 8) && off % size == 0

/-! ### The registers -/

/-- IDENT (R491). -/
def identReg (s : State) (o : Nat) : Nat :=
  let b := s.boot
  let p := s.pins
  match o with
  | 0x00 => 0xA640 * 2 ^ 48 + Config.stepping.toNat * 2 ^ 36 + Config.mipiMfr.toNat * 2 ^ 16 + Config.jedecMfr.toNat
  | 0x08 =>
    b.pinRate % 256 * 2 ^ 32 + p.lsoEn.toNat * 2 ^ 24 + bitAt p.host1En 18 + p.hbmPop.toNat * 2 ^ 16 +
    b.stackGib % 256 * 2 ^ 8 + p.instanceId.toNat * 2 ^ 4 + bitAt p.testMode 0
  | 0x10 =>
    b.fuseShown % 256 * 2 ^ 56 + b.imageSvn % 256 * 2 ^ 48 + b.selfTest.toNat * 2 ^ 32 + bitAt b.bcbDefaulted 24 +
    b.reason % 256 * 2 ^ 16 + (match b.stage with
      | .keepRom => 0
      | .training => 1
      | .imageLoad => 2
      | .verify => 3
      | .measure => 4
      | .firmwareInit => 5
      | .ready => 6
      | .recovery => 7
      | .stopped => 8)
  | 0x18 => b.fwVersion.toNat
  | _ => 0

/-- A VECTOR field with its enable in bit 15. -/
def vecReg (en : Bool) (v : BitVec 11) : Nat := bitAt en 15 + v.toNat

/-- MBX.STATUS.BELFRY (R417). -/
def belfryCode : BelfryState → Nat
  | .attached => 0
  | .orphaned => 1
  | .restarting => 2
  | .halted => 3
  | .recovery => 4

/-- The mailbox registers (R417). -/
def boxReg (s : State) (b : Box) (o : Nat) : Nat :=
  let m := getBox s b
  match o with
  | 0x08 =>
    m.noticeLost.toNat * 2 ^ 48 + belfryCode (belfryShown s) * 2 ^ 5 + bitAt m.session.isSome 4 +
    bitAt (m.noticeTail != m.noticeHead) 2 + bitAt m.answerValid 1 + bitAt m.reqPending 0
  | 0x10 => vecReg m.vecEn m.vec
  | 0x18 => m.noticeHead.toNat
  | 0x20 => m.noticeTail.toNat
  | 0x28 => s.belfry.restarts.toNat * 2 ^ 32 + s.belfry.orphans.toNat
  | 0x30 => m.discards.toNat
  | _ => 0

/-- The registers of a fault block or view (R465). -/
def blockReg (b : FaultBlock) (o : Nat) : Nat :=
  match o with
  | 0x00 => b.src.toNat
  | 0x08 => b.irqEn.toNat
  | 0x10 => vecReg b.vecEn b.vec
  | 0x18 => b.head.toNat
  | 0x20 => b.ack.toNat
  | 0x28 => b.ovf.toNat
  | _ => 0

/-- BTR.MISS and its mirror (R104). -/
def missReg (m : Miss) : Nat := m.count % 65536 * 2 ^ 32 + m.bits.toNat

/-- FLT (R482). -/
def fltReg (s : State) (o : Nat) : Nat :=
  match o with
  | 0x00 => fltSafeReg s.flt
  | 0x08 => s.flt.safeAt.toNat
  | 0x10 => s.flt.chatter.toNat
  | 0x18 => s.flt.containedMode.toNat * 2 ^ 4 + s.flt.safeMode.toNat
  | _ => 0

def bellCode : BellState → Nat
  | .freerun => 0
  | .acquiring => 1
  | .locked => 2
  | .holdover => 3

/-- BELL but for a read of the high half of BELL.NOW (R78 to R80). -/
def bellReg (s : State) (o : Nat) : Nat :=
  let b := s.bell
  match o with
  | 0x00 => b.ns.toNat
  | 0x08 => b.latchFrac.toNat
  | 0x10 =>
    (BitVec.ofInt 32 b.phaseErr).toNat * 2 ^ 32 + b.lockCount.toNat * 2 ^ 16 + bitAt b.everLocked 4 + bitAt b.alignLost 3 +
    bellCode b.state
  | _ => 0

/-- CAR (R96, R97, R476). -/
def carReg (s : State) (o : Nat) : Nat :=
  let c := s.car
  match o with
  | 0x00 =>
    c.live.gen * 2 ^ 32 + (match c.staged with | some t => t.gen | none => 0) * 2 ^ 16 + bitAt c.complete 3 +
    bitAt c.armed 2 + bitAt c.refused 1
  | 0x08 => if c.armed then c.armTime.toNat else 0
  | 0x800 => bitAt c.sevLock 63 + c.tableEcc
  | _ => 0

/-- PWR (R459 to R461). -/
def pwrReg (s : State) (o : Nat) : Nat :=
  let w := s.power
  match o with
  | 0x00 =>
    creditUs s * 2 ^ 48 + w.clock * 2 ^ 32 + bitAt w.wearExceeded 7 + bitAt w.thermalHot 6 +
    bitAt (decide (w.freqCap < Config.binTop)) 5 + bitAt w.peakDisable 4 + bitAt (throttled s) 3 + pwrMode s
  | 0x08 => w.freqCap * 2 ^ 32 + bitAt w.peakDisable 0
  | 0x10 => Config.vddDomeMv.toNat * 2 ^ 16 + Config.binTop
  | 0x18 => inputShown s * 2 ^ 32 + blockWatts s
  | 0x20 => w.budgetHit.toNat
  | 0x28 => seconds s.life.acc.peakNs * 2 ^ 32 + seconds s.life.acc.hotNs
  | _ => 0

/-- The walk of the definition in a slot (R389). -/
def walkOf (s : State) (slot : Nat) : Option Rotation :=
  (inSlot s slot).bind (fun p => p.2.rotation.bind (fun r => if r.walking then some r else none))

/-- VLT (R387 to R389). -/
def vltReg (s : State) (o : Nat) : Nat :=
  let i := o % 0x1000 / 0x40
  if o < 0x200 && o % 0x40 == 0 then
    let p := nth s.vault.ports i VltPort.reset
    p.eccCorrected.toNat * 2 ^ 32 + p.poisonNew.toNat * 2 ^ 16 + p.tagFail.toNat * 2 ^ 8 + bitAt p.patrol 1 +
    bitAt (decide (i < ports s)) 0
  else if o == 0x800 then
    bitAt s.vault.lock 63 + s.vault.keyCheck.toNat * 2 ^ 4 + s.vault.tagFail.toNat * 2 ^ 2 + s.vault.eccUnc.toNat
  else if 0x1000 ≤ o && o < 0x2000 then
    match walkOf s i with
    | none => 0
    | some r =>
      if o % 0x40 == 0 then r.boundary * 2 ^ 32 + r.toVersion * 2 ^ 16 + 1
      else if o % 0x40 == 8 then r.pages
      else 0
  else 0

/-- DOM (R227, R486). -/
def domReg (s : State) (o : Nat) : Nat :=
  if o < 0x400 && o % 0x40 == 0 then
    let d := o / 0x40
    let l := grantedDome s d
    let ways := (l.map (fun p => match getDef s p.1 with | some x => nth x.grant.drumWays d 0 | none => 0)).sum
    l.length * 2 ^ 32 + (64 - ways) * 2 ^ 24 + 64 * 2 ^ 16 + 8 * 2 ^ 8 + 8
  else if o == 0x400 then s.domes.fenced.toNat
  else 0

/-- XPT.PORT_DROP (R333). -/
def xptReg (s : State) (o : Nat) : Nat :=
  let n := o / 0x40
  if o < 0x200 && o % 0x40 == 0 then
    (nth s.xpt.noQp n 0).toNat * 2 ^ 32 + (nth s.xpt.rxErr n 0).toNat * 2 ^ 16 + (nth s.xpt.nonMaelic n 0).toNat
  else 0

/-- CRC (R361, R363). Every queued write has been processed (R362). -/
def crcReg (s : State) (o : Nat) : Nat :=
  let c := s.crc
  match o with
  | 0x00 => bitAt c.fold 2 + c.alg.toNat
  | 0x08 => c.seed.toNat
  | 0x28 => if c.bad then 0 else c.ctx.value.toNat
  | 0x30 => c.count * 2 ^ 32 + bitAt c.err 1
  | _ => 0

/-- A register of the PF's map (R523). -/
def pfReg (s : State) (o : Nat) : Nat :=
  let r := o % 0x10000
  match o / 0x10000 with
  | 0x0 => identReg s r
  | 0x2 => fltReg s r
  | 0x3 => if r == 0x3030 then s.keep.severity.toNat else 0
  | 0x4 => bellReg s r
  | 0x5 => carReg s r
  | 0x6 => if r < 0x1000 && r % 0x40 == 0 then missReg (getSlot s (r / 0x40)).miss else 0
  | 0x8 => pwrReg s r
  | 0xA => vltReg s r
  | 0xC => domReg s r
  | 0xE => xptReg s r
  | 0xF => crcReg s r
  | _ => 0

/-- DBA.STATUS (R531). -/
def dbaReg (s : State) (port slot : Nat) : Nat :=
  match inSlot s slot with
  | some (id, d) =>
    if d.grant.bindPort != port then 0
    else id * 2 ^ 32 + d.grant.bindVf * 2 ^ 16 + bitAt d.grant.confidential 2 + bitAt (!d.grant.confidential) 1 + 1
  | none => 0

/-- The registers of a doorbell page (R135, R138, R149). -/
def pageReg (s : State) (fn o : Nat) : Nat :=
  let f := getFn s fn
  if o % 4096 == 8 then ((mfind f.discards (o / 4096)).getD 0).toNat
  else match o with
    | 0x100 => f.arg0.toNat
    | 0x108 => f.arg1.toNat
    | 0x110 => f.arg2.toNat
    | 0x118 => f.arg3.toNat
    | 0x128 => f.ctlStatus % 256 * 2 ^ 8 + bitAt f.drained 1 + bitAt f.busy 0
    | 0x130 => f.ctlResult.toNat
    | 0x138 => vecReg f.ctlVecEn f.ctlVec
    | 0x140 => f.regress.toNat
    | _ => 0

/-! ### The arrays -/

/-- The 8 history entries of a block (R465, R466). -/
def histBytes (b : FaultBlock) : List Byte :=
  (List.range 8).flatMap (fun i => match mfind b.hist i with | some e => e.bytes | none => List.replicate 32 0)

/-- The 16 entries of a notice ring (R417). -/
def ringBytes (m : Mbox) : List Byte :=
  (List.range 16).flatMap (fun i => padTo 64 ((mfind m.ring i).getD []))

/-- Bytes of a mailbox's arrays. -/
def boxBytes (s : State) (b : Box) (o n : Nat) : List Byte :=
  let m := getBox s b
  if o < 0x800 then padTo n ((ringBytes m).drop (o - 0x400))
  else if o < ansBase b then readBytes m.reqBuf (o - reqBase b) n
  else padTo n (m.ansBuf.drop (o - ansBase b))

/-! ### What is answered (R407, R480, R494, R525, R530) -/

/-- A mailbox register or buffer, one of the units' own registers, or a record that stays readable in the safe state. -/
def safeReadable : Place → Bool
  | .pf o => o / 0x10000 == 0 || o / 0x10000 == 2 || o / 0x10000 == 4 || o / 0x10000 == 8
  | .block _ _ => true
  | .view _ _ => true
  | .cap _ _ => true
  | .box _ _ => true
  | _ => false

/-- What is readable before READY. -/
def earlyReadable : Place → Bool
  | .pf o => o / 0x10000 == 0 || o / 0x10000 == 2 || o / 0x10000 == 4 || o / 0x10000 == 8
  | .block _ _ => true
  | .box _ _ => true
  | _ => false

/-- The block answers as in the safe state. -/
def shutDown (s : State) : Bool := s.flt.safe || heldStop s

def readable (s : State) (p : Place) : Bool :=
  if shutDown s then safeReadable p else s.boot.stage == .ready || earlyReadable p

/-- A host request to a function reaches it: its port is present, and a running TDI takes only its own stream (R59, R407). -/
def hostReaches (s : State) (fn : Nat) (t : Bool) : Bool :=
  (portOf fn == 0 || s.pins.host1En) &&
  (fn % 65 == 0 || (match boundTo s fn with | some p => hostAccepts s fn p.2 t | none => true))

/-- The eight bytes of the register at a place. -/
def regAt (s : State) (fn : Nat) (t : Bool) (p : Place) : Nat :=
  match p with
  | .pf o => pfReg s (o / 8 * 8)
  | .block u o => if u == 0x0D && o / 8 * 8 == 0x30 then s.keep.severity.toNat else blockReg (getBlock s u) (o / 8 * 8)
  | .view v o =>
    if (boundTo s v).isNone then 0
    else if o / 8 * 8 == 0x40 then missReg (getFn s v).miss
    else blockReg (getFn s v).fv (o / 8 * 8)
  | .box b o => boxReg s b (o / 8 * 8)
  | .dba slot => dbaReg s (portOf fn) slot
  | .page slot o => (match pageTarget s fn slot t with | some (v, _, _) => pageReg s v (o / 8 * 8) | none => 0)
  | _ => 0

/-- The bytes of an array at a place. -/
def arrayAt (s : State) (p : Place) (n : Nat) : List Byte :=
  match p with
  | .block u o => padTo n ((histBytes (getBlock s u)).drop (o - 0x100))
  | .view v o => if (boundTo s v).isNone then List.replicate n 0 else padTo n ((histBytes (getFn s v).fv).drop (o - 0x100))
  | .box b o => boxBytes s b o n
  | .cap v o => (match boundTo s v with | some (id, d) => padTo n ((capPage s id d).drop o) | none => List.replicate n 0)
  | _ => List.replicate n 0

/-! ### What a read does (R78, R522) -/

/-- A read of `size` bytes at byte `k` of a register covers its bytes `lo` to `hi`. -/
def covers (k size lo hi : Nat) : Bool := k ≤ lo && hi < k + size

/-- The counters of a memory port that a read covers are cleared (R388). -/
def clearPort (k size : Nat) (p : VltPort) : VltPort :=
  { p with
    eccCorrected := if covers k size 4 7 then 0 else p.eccCorrected
    poisonNew := if covers k size 2 3 then 0 else p.poisonNew
    tagFail := if covers k size 1 1 then 0 else p.tagFail }

/-- A read of BELL.NOW that takes the low half latches the high half and the fraction (R78). -/
def latchBell (s : State) : State :=
  { s with bell := { s.bell with
      latchHi := BitVec.ofNat 32 (s.bell.ns.toNat / 2 ^ 32), latchFrac := BitVec.ofNat 16 (s.bell.fine.toNat / 2 ^ 24) } }

/-- The state after a register of the PF's map has been read. -/
def afterPf (o size : Nat) (s : State) : State :=
  let k := o % 8
  let r := o / 8 * 8
  if r == 0x40000 then (if k == 0 then latchBell s else s)
  else if r / 0x10000 == 0xA && r % 0x10000 < 0x200 && r % 0x40 == 0 then
    { s with vault := { s.vault with ports := setNth s.vault.ports (r % 0x10000 / 0x40) (clearPort k size) } }
  else if r / 0x10000 == 0xE && r % 0x10000 < 0x200 && r % 0x40 == 0 then
    let n := r % 0x10000 / 0x40
    let clear (lo : Nat) (l : List (BitVec 16)) : List (BitVec 16) :=
      if covers k size lo (lo + 1) then setNth l n (fun _ => 0) else l
    { s with xpt := { s.xpt with noQp := clear 4 s.xpt.noQp, rxErr := clear 2 s.xpt.rxErr, nonMaelic := clear 0 s.xpt.nonMaelic } }
  else s

/-- A doorbell page's counters (R138, R149). -/
def afterPage (fn o : Nat) (s : State) : State :=
  if o % 4096 == 8 then setFn s fn (fun f => { f with discards := mdrop f.discards (o / 4096) })
  else if o == 0x140 then setFn s fn (fun f => { f with regress := 0 })
  else s

/-- The RC fields that the read covers are cleared. -/
def afterRead (fn : Nat) (t : Bool) (p : Place) (size : Nat) (s : State) : State :=
  match p with
  | .pf o => afterPf o size s
  | .block u o => if o == 0x28 then setBlock s u (fun b => { b with ovf := 0 }) else s
  | .view v o =>
    if o == 0x28 && (boundTo s v).isSome then setFn s v (fun f => { f with fv := { f.fv with ovf := 0 } }) else s
  | .box b o => if o == 0x30 then setBox s b (fun m => { m with discards := 0 }) else s
  | .page slot o => (match pageTarget s fn slot t with | some (v, _, _) => afterPage v o s | none => s)
  | _ => s

/-- The eight bytes of a register as a read sees them: a read of the high half of BELL.NOW alone sees the latch (R78). -/
def regSeen (s : State) (r : HostRead) (p : Place) : Nat :=
  match p with
  | .pf o => if o == 0x40004 then s.bell.latchHi.toNat * 2 ^ 32 else regAt s r.fn r.window p
  | _ => regAt s r.fn r.window p

/-- A host read of BAR0 and its data (R521, R522). A read that is not permitted has no side effect. -/
def barRead (r : HostRead) (s : State) : State :=
  let p := placeOf r.fn r.off
  let answered := hostReaches s r.fn r.window && readable s p && readOk (isArray p) r.off r.size
  if !answered then emit s (.readData r.fn (List.replicate r.size 0))
  else if isArray p then emit s (.readData r.fn (arrayAt s p r.size))
  else emit (afterRead r.fn r.window p r.size s) (.readData r.fn (((leBytes 8 (regSeen s r p)).drop (r.off % 8)).take r.size))

/-- RC_FIELD_READ: a host read, with the RC fields it covers. -/
def execRcFieldRead (r : HostRead) (s : State) : Result := .next (whenAlive (barRead r) s)

/-- BELL_NOW_READ (R78): a read of BELL.NOW by the port 0 PF. -/
def execBellNowRead (r : HostRead) (s : State) : Result :=
  .next (whenAlive (fun s => if r.fn == 0 && r.off / 8 * 8 == 0x40000 then barRead r s else s) s)

end Sys2Proof.Machine
end

