-- ==== Sys2Proof/Machine/RegWrite.lean ====
section
/-! DEFINITION. Host writes of BAR0: messages sent through a mailbox, the doorbell pages, and every writable register (R5, R6,
R96, R104, R136, R137, R149, R361 to R363, R387, R416 to R418, R437, R460, R461, R465, R476, R480, R482, R494, R519 to
R530). -/

namespace Sys2Proof.Machine

/-! ### Messages through a mailbox (R418, R420) -/

/-- The request that a mailbox's buffer holds: its opcode and its fields (R420). -/
def bufferReq (b : Box) (buf : Cells) : Nat × Req :=
  let h := readBytes buf 0 32
  let n := fld h 12 4
  (fld h 2 2,
   { major := fld h 0 1, minor := fld h 1 1, seq := fld h 4 4, defId := fld h 8 2, flags := fld h 10 2, payloadLen := n
     status := fld h 16 2, reserved := fld h 18 10, check := BitVec.ofNat 32 (fld h 28 4)
     payload := if 32 + n ≤ boxLimit b then readBytes buf 32 n else [] })

/-- The opcodes whose outcome depends on the keep's check of a key, or on the MACs' answer to a switchover time (R92, R380,
R397, R414). -/
def outsideAnswer (op : Nat) : Bool := op == 0x0101 || op == 0x0201 || op == 0x0300 || op == 0x0301

/-- A message by its opcode (R427), with the answer from outside the mailbox. -/
def messageWith (answer : Word) (op : Nat) (b : Box) (r : Req) (s : State) : State :=
  let agree := answer.getLsbD 0
  match op with
  | 0x0001 => volmi op (some (kHello b)) serveHello b r s
  | 0x0002 => volmi op (some kHeartbeat) (fun _ _ s => .now stOk [] s) b r s
  | 0x0100 => volmi op (some kPartDefine) (whenEntropy op true derived servePartDefine) b r s
  | 0x0101 => volmi op (some kPartLoad) (whenEntropy op agree derived (servePartLoad agree)) b r s
  | 0x0102 => volmi op (some kPartUnload) servePartUnload b r s
  | 0x0103 => volmi op (some kPartResize) servePartResize b r s
  | 0x0104 => volmi op (some kPartQuiesce) servePartQuiesce b r s
  | 0x0105 => volmi op (some kPartResume) servePartResume b r s
  | 0x0106 => volmi op (some kPartReset) servePartReset b r s
  | 0x0107 => volmi op (some kPartScrub) (whenEntropy op true derived servePartScrub) b r s
  | 0x0108 => volmi op (some kPartDestroy) servePartDestroy b r s
  | 0x0200 => volmi op (some kStage) serveStage b r s
  | 0x0201 => volmi op (some kArm) (if fld r.payload 8 8 == 0 then serveDisarm else serveArm (answer.truncate 8)) b r s
  | 0x0300 => volmi op (some kKeyRotate) (whenEntropy op agree derived (serveKeyRotate agree)) b r s
  | 0x0301 => volmi op (some kWeightBind) (whenEntropy op agree derived (serveWeightBind agree)) b r s
  | 0x0302 => volmi op (some kAttestGet) (whenEntropy op true derived serveAttestGet) b r s
  | 0x0400 => volmi op (minorOne b kDirtyEnable s) serveDirtyEnable b r s
  | 0x0401 => volmi op (minorOne b kDirtyHarvest s) serveDirtyHarvest b r s
  | 0x0500 => telemetry b r s
  | 0x0501 => volmi op (some kLifetime) serveLifetime b r s
  | 0x0502 => recover b r s
  | 0x05FF => volmi op (kInject s) serveInject b r s
  | _ => volmi op none (fun _ _ s => .now stMalformed [] s) b r s

/-- A message written to GO carries no such answer: it is a free value (log 50). -/
def message (op : Nat) (b : Box) (r : Req) (s : State) : State :=
  if outsideAnswer op then
    let w := drawFree s
    messageWith w.1 op b r w.2
  else messageWith 0 op b r s

/-- GO is written: the message in the request buffer is taken (R418). -/
def takeMessage (b : Box) (s : State) : State :=
  let q := bufferReq b (getBox s b).reqBuf
  message q.1 b q.2 s

/-- A write to a mailbox that is discarded counts (R418, R521). -/
def boxDiscard (b : Box) (s : State) : State := setBox s b (fun m => { m with discards := satAdd m.discards 1 })

/-- A write to a request buffer (R418, R521). -/
def bufferWrite (b : Box) (o : Nat) (data : List Byte) (s : State) : State :=
  let m := getBox s b
  let fits := decide (4 ≤ data.length) && decide (data.length ≤ 512) && o % 4 == 0 &&
    decide (o + data.length ≤ reqBase b + boxLimit b)
  if !fits || m.reqPending || m.answerValid then boxDiscard b s
  else setBox s b (fun m => { m with reqBuf := writeBytes m.reqBuf (o - reqBase b) data })

/-- A well-formed write to a mailbox register (R417). -/
def boxWrite (b : Box) (o v : Nat) (s : State) : State :=
  match o with
  | 0x00 => if bit v 0 then takeMessage b s
    else if (getBox s b).reqPending || (getBox s b).answerValid then boxDiscard b s else s
  | 0x08 => if bit v 1 then setBox s b (fun m => { m with answerValid := false }) else s
  | 0x10 => setBox s b (fun m => { m with vecEn := bit v 15, vec := BitVec.ofNat 11 v })
  | 0x18 => drainNotices 257 b (setBox s b (fun m => { m with noticeHead := BitVec.ofNat 32 v }))
  | _ => s

/-! ### Fault blocks and views (R465, R528) -/

/-- A W1C field after a write. -/
def w1c {w : Nat} (x : BitVec w) (v : Nat) : BitVec w := x &&& ~~~(BitVec.ofNat w v)

/-- A write to a block's registers; `mask` are the SRC bits that exist (R465, R528). -/
def FaultBlock.put (b : FaultBlock) (mask : BitVec 16) (o v : Nat) : FaultBlock :=
  match o with
  | 0x00 => { b with src := w1c b.src v }
  | 0x08 => { b with irqEn := BitVec.ofNat 16 v &&& mask }
  | 0x10 => { b with vecEn := bit v 15, vec := BitVec.ofNat 11 v }
  | 0x20 => { b with ack := BitVec.ofNat 32 v }
  | _ => b

/-! ### The PF's own registers -/

/-- The value that a write of a mode field leaves: a reserved value changes nothing (R387, R476, R482). -/
def modeField {w : Nat} (old : BitVec w) (v : Nat) (allowed : List Nat) : BitVec w :=
  if allowed.contains v then BitVec.ofNat w v else old

/-- A release of a `CONTAINED` hold of FAULT_N. An indication in progress keeps its 2 µs (R482, R483). -/
def releaseHold (s : State) : State :=
  if s.flt.safe || !s.pins.containedHold then s
  else { s with pins := { s.pins with containedHold := false, faultNLow := s.pins.faultPulse } }

/-- FLT (R36, R482). -/
def fltWrite (o v : Nat) (s : State) : State :=
  match o with
  | 0x10 =>
    let s1 := { s with flt := { s.flt with chatter := w1c s.flt.chatter v } }
    if bit v 1 && s.pins.chatterThrottle then throttleClock { s1 with pins := { s1.pins with chatterThrottle := false } } else s1
  | 0x18 =>
    let s1 := { s with flt := { s.flt with
      containedMode := modeField s.flt.containedMode (bits v 5 4) [0, 1, 2]
      safeMode := modeField s.flt.safeMode (bits v 1 0) [0, 1] } }
    if bit v 8 then releaseHold s1 else s1
  | _ => s

/-- CAR (R96, R476). -/
def carWrite (o v : Nat) (s : State) : State :=
  match o with
  | 0x00 => if bit v 1 then { s with car := { s.car with refused := false } } else s
  | 0x800 =>
    let sev := if s.car.sevLock then s.car.tableEcc
      else if bits v 1 0 == 0 || bits v 1 0 == 2 then bits v 1 0 else s.car.tableEcc
    { s with car := { s.car with tableEcc := sev, sevLock := s.car.sevLock || bit v 63 } }
  | _ => s

/-- BTR.MISS (R104). -/
def btrWrite (o v : Nat) (s : State) : State :=
  if o < 0x1000 && o % 0x40 == 0 then
    setSlot s (o / 0x40) (fun x => { x with miss := { x.miss with bits := w1c x.miss.bits v } })
  else s

/-- PWR.CTRL (R447, R460). -/
def pwrCtrl (v : Nat) (s : State) : State :=
  let cap := min Config.binTop (floor25 (bits v 47 32))
  setClock { s with power := { s.power with
    freqCap := cap, peakDisable := bit v 0, envelope := s.power.envelope || bit v 0 } }

/-- PWR (R460, R461). -/
def pwrWrite (o v : Nat) (s : State) : State :=
  match o with
  | 0x08 => pwrCtrl v s
  | 0x20 => { s with power := { s.power with budgetHit := w1c s.power.budgetHit v } }
  | _ => s

/-- VLT.SEVERITY (R387). -/
def vltWrite (o v : Nat) (s : State) : State :=
  if o != 0x800 then s
  else
    let x := s.vault
    if x.lock then s
    else { s with vault := { x with
      keyCheck := modeField x.keyCheck (bits v 5 4) [0, 2]
      tagFail := modeField x.tagFail (bits v 3 2) [1, 2]
      eccUnc := modeField x.eccUnc (bits v 1 0) [1, 2]
      lock := bit v 63 } }

/-- A feed of lane 1 (R361, R362). -/
def crcFeed (n v : Nat) (s : State) : State :=
  { s with crc := { s.crc with ctx := s.crc.ctx.feed (leBytes n v), count := min (2 ^ 32 - 1) (s.crc.count + n) } }

/-- CRC.CTRL, with START (R361). -/
def crcCtrl (v : Nat) (s : State) : State :=
  let c := { s.crc with alg := BitVec.ofNat 2 v, fold := bit v 2 }
  { s with crc := if bit v 8 then { c with ctx := CrcCtx.init (bits v 1 0) (bit v 2) c.seed, count := 0, bad := false } else c }

/-- CRC (R361). -/
def crcWrite (o v : Nat) (s : State) : State :=
  match o with
  | 0x00 => crcCtrl v s
  | 0x08 => { s with crc := { s.crc with seed := BitVec.ofNat 64 v } }
  | 0x10 => crcFeed 1 v s
  | 0x18 => crcFeed 2 v s
  | 0x20 => crcFeed 4 v s
  | 0x30 => if bit v 1 then { s with crc := { s.crc with err := false } } else s
  | _ => s

/-- A write to a register of the PF's map (R523). -/
def pfWrite (o v : Nat) (s : State) : State :=
  let r := o % 0x10000
  match o / 0x10000 with
  | 0x2 => fltWrite r v s
  | 0x5 => carWrite r v s
  | 0x6 => btrWrite r v s
  | 0x8 => pwrWrite r v s
  | 0xA => vltWrite r v s
  | 0xF => crcWrite r v s
  | _ => s

/-! ### Doorbell pages (R136, R137, R149, R530) -/

/-- A write of DB.CTL_OP starts an operation with the arguments that stand (R149). -/
def ctlWrite (fn : Nat) (f : Fn) (slot : Option Nat) (t : Bool) (v : Nat) (s : State) : State :=
  ctlOp v (ctlBodyOf v) { fn := fn, slot := slot, arg0 := f.arg0, arg1 := f.arg1, arg2 := f.arg2, arg3 := f.arg3, window := t } s

/-- A well-formed write to a doorbell page other than DB.RING. -/
def pageWrite (fn : Nat) (slot : Option Nat) (t : Bool) (vf o v : Nat) (s : State) : State :=
  let w := BitVec.ofNat 64 v
  match o with
  | 0x100 => setFn s vf (fun f => { f with arg0 := w })
  | 0x108 => setFn s vf (fun f => { f with arg1 := w })
  | 0x110 => setFn s vf (fun f => { f with arg2 := w })
  | 0x118 => setFn s vf (fun f => { f with arg3 := w })
  | 0x120 => ctlWrite fn (getFn s vf) slot t v s
  | 0x138 => setFn s vf (fun f => { f with ctlVecEn := bit v 15, ctlVec := BitVec.ofNat 11 v })
  | _ => s

/-- A write to a doorbell page: a write of another shape is discarded and counted there (R137, R521). -/
def doorbellWrite (w : HostWrite) (slot : Option Nat) (o : Nat) (s : State) : State :=
  match pageTarget s w.fn slot w.window with
  | none => s
  | some (vf, _, _) =>
    if w.data.length != 8 || o % 8 != 0 then countDiscard vf (o / 4096) s
    else if o % 4096 == 0 then dbRing w s
    else pageWrite w.fn slot w.window vf o (leNat w.data) s

/-! ### A host write (R521) -/

/-- What may be written in the safe state and before READY (R480, R494); the mirror of BTR.MISS in a fault view may not. -/
def alwaysWritable : Place → Bool
  | .block _ _ => true
  | .view _ o => o != 0x40
  | .box _ _ => true
  | _ => false

def writable (s : State) (p : Place) : Bool := operating s || alwaysWritable p

/-- A register write of eight aligned bytes. -/
def regWrite (p : Place) (v : Nat) (s : State) : State :=
  match p with
  | .pf o => pfWrite o v s
  | .block u o => if o < 0x30 then setBlock s u (fun b => b.put 0xFFFF o v) else s
  | .view fn o =>
    if (boundTo s fn).isNone then s
    else if o == 0x40 then setFn s fn (fun f => { f with miss := { f.miss with bits := w1c f.miss.bits v } })
    else setFn s fn (fun f => { f with fv := f.fv.put 0x000F o v })
  | .box b o => boxWrite b o v s
  | _ => s

/-- A host write of BAR0 (R521, R522). -/
def barWrite (w : HostWrite) (s : State) : State :=
  let p := placeOf w.fn w.off
  let aligned := w.data.length == 8 && w.off % 8 == 0
  if !hostReaches s w.fn w.window || !writable s p then s
  else match p with
    | .page slot o => doorbellWrite w slot o s
    | .box b o =>
      if reqBase b ≤ o && o < reqBase b + boxLimit b then bufferWrite b o w.data s
      else if 0x38 ≤ o then s
      else if aligned then boxWrite b o (leNat w.data) s
      else boxDiscard b s
    | _ => if aligned && !isArray p then regWrite p (leNat w.data) s else s

/-- A row that names one register acts only on a write to it. -/
def writeTo (at_ : Place → Bool) (w : HostWrite) (s : State) : Result :=
  .next (whenAlive (fun s => if at_ (placeOf w.fn w.off) then barWrite w s else s) s)

def atPf (o : Nat) : Place → Bool
  | .pf x => x == o
  | _ => false

def atBox (o : Nat) : Place → Bool
  | .box _ x => x == o
  | _ => false

/-- REGISTER_WRITE: any host write. -/
def execRegisterWrite (w : HostWrite) (s : State) : Result := .next (whenAlive (barWrite w) s)

/-- NOTICE_HEAD_WRITE: held notices enter the ring (R437). -/
def execNoticeHeadWrite (w : HostWrite) (s : State) : Result := writeTo (atBox 0x18) w s
/-- ANSWER_VALID_CLEAR: a write of MBX.STATUS (R418). -/
def execAnswerValidClear (w : HostWrite) (s : State) : Result := writeTo (atBox 0x08) w s
/-- PWR_CTRL_WRITE (R460). -/
def execPwrCtrlWrite (w : HostWrite) (s : State) : Result := writeTo (atPf 0x80008) w s
/-- PIN_HOLD_RELEASE: a write of FLT.PIN_HOLD (R482). -/
def execPinHoldRelease (w : HostWrite) (s : State) : Result := writeTo (atPf 0x20018) w s
/-- CRC_START: a write of CRC.CTRL (R361). -/
def execCrcStart (w : HostWrite) (s : State) : Result := writeTo (atPf 0xF0000) w s
/-- CRC_FEED8 (R361). -/
def execCrcFeed8 (w : HostWrite) (s : State) : Result := writeTo (atPf 0xF0010) w s
/-- CRC_FEED16 (R361). -/
def execCrcFeed16 (w : HostWrite) (s : State) : Result := writeTo (atPf 0xF0018) w s
/-- CRC_FEED32 (R361). -/
def execCrcFeed32 (w : HostWrite) (s : State) : Result := writeTo (atPf 0xF0020) w s

end Sys2Proof.Machine
end

