-- ==== Sys2Proof/Machine/Dispatch.lean ====
section
/-! DEFINITION. The meaning of every command, one arm per constructor. -/

namespace Sys2Proof.Machine

def exec (i : Instr) (s : State) : Host.Outcome State Fault Refusal :=
  match i with
  | .powerUp => Sys2Proof.Machine.execPowerUp s
  | .powerRemoval => Sys2Proof.Machine.execPowerRemoval s
  | .resetNAssert => Sys2Proof.Machine.execResetNAssert s
  | .resetNDeassert st => Sys2Proof.Machine.execResetNDeassert st s
  | .throttleNAssert => Sys2Proof.Machine.execThrottleNAssert s
  | .throttleNDeassert => Sys2Proof.Machine.execThrottleNDeassert s
  | .throttleChatterRelease => Sys2Proof.Machine.execThrottleChatterRelease s
  | .tamperNAssert => Sys2Proof.Machine.execTamperNAssert s
  | .errInNAssert => Sys2Proof.Machine.execErrInNAssert s
  | .inputChatter input => Sys2Proof.Machine.execInputChatter input s
  | .ppsEdge tod => Sys2Proof.Machine.execPpsEdge tod s
  | .timePortUnlock tai locked tod => Sys2Proof.Machine.execTimePortUnlock tai locked tod s
  | .ppsTimeout => Sys2Proof.Machine.execPpsTimeout s
  | .holdoverTimeout => Sys2Proof.Machine.execHoldoverTimeout s
  | .bellNowRead r => Sys2Proof.Machine.execBellNowRead r s
  | .carillonStage box r => Sys2Proof.Machine.execCarillonStage box r s
  | .carillonArm box r accept => Sys2Proof.Machine.execCarillonArm box r accept s
  | .carillonDisarm box r => Sys2Proof.Machine.execCarillonDisarm box r s
  | .carillonSwitchover => Sys2Proof.Machine.execCarillonSwitchover s
  | .egressHoldEnd => Sys2Proof.Machine.execEgressHoldEnd s
  | .guaranteeWindowEnd waited => Sys2Proof.Machine.execGuaranteeWindowEnd waited s
  | .powerBudgetExhausted slot => Sys2Proof.Machine.execPowerBudgetExhausted slot s
  | .partDefine box r => Sys2Proof.Machine.execPartDefine box r s
  | .partLoad box r agree => Sys2Proof.Machine.execPartLoad box r agree s
  | .partUnload box r => Sys2Proof.Machine.execPartUnload box r s
  | .partResize box r => Sys2Proof.Machine.execPartResize box r s
  | .partQuiesce box r => Sys2Proof.Machine.execPartQuiesce box r s
  | .quiesceComplete defId => Sys2Proof.Machine.execQuiesceComplete defId s
  | .drainLimitExpiry defId => Sys2Proof.Machine.execDrainLimitExpiry defId s
  | .preemptWaitExpiry slot ring tile => Sys2Proof.Machine.execPreemptWaitExpiry slot ring tile s
  | .partResume box r => Sys2Proof.Machine.execPartResume box r s
  | .partReset box r => Sys2Proof.Machine.execPartReset box r s
  | .partScrub box r => Sys2Proof.Machine.execPartScrub box r s
  | .scrubComplete defId => Sys2Proof.Machine.execScrubComplete defId s
  | .partDestroy box r => Sys2Proof.Machine.execPartDestroy box r s
  | .containedReset c => Sys2Proof.Machine.execContainedReset c s
  | .dirtylogEnable box r => Sys2Proof.Machine.execDirtylogEnable box r s
  | .dirtylogHarvest box r => Sys2Proof.Machine.execDirtylogHarvest box r s
  | .dbRing w => Sys2Proof.Machine.execDbRing w s
  | .ringCreate c => Sys2Proof.Machine.execRingCreate c s
  | .ringDestroy c => Sys2Proof.Machine.execRingDestroy c s
  | .ringAbort c => Sys2Proof.Machine.execRingAbort c s
  | .ringAbortDrained fn => Sys2Proof.Machine.execRingAbortDrained fn s
  | .ptSet c => Sys2Proof.Machine.execPtSet c s
  | .invalidate c => Sys2Proof.Machine.execInvalidate c s
  | .fenceInit c => Sys2Proof.Machine.execFenceInit c s
  | .fenceAbandon c => Sys2Proof.Machine.execFenceAbandon c s
  | .fenceRead c => Sys2Proof.Machine.execFenceRead c s
  | .qpModifyReady c => Sys2Proof.Machine.execQpModifyReady c s
  | .qpModifyReset c => Sys2Proof.Machine.execQpModifyReset c s
  | .qpQuery c => Sys2Proof.Machine.execQpQuery c s
  | .nop slot ring => Sys2Proof.Machine.execNop slot ring s
  | .fenceWait slot ring => Sys2Proof.Machine.execFenceWait slot ring s
  | .fenceSignal slot ring => Sys2Proof.Machine.execFenceSignal slot ring s
  | .gemm slot ring => Sys2Proof.Machine.execGemm slot ring s
  | .attend slot ring => Sys2Proof.Machine.execAttend slot ring s
  | .merge slot ring => Sys2Proof.Machine.execMerge slot ring s
  | .reduce slot ring => Sys2Proof.Machine.execReduce slot ring s
  | .convert slot ring => Sys2Proof.Machine.execConvert slot ring s
  | .arrivalLimitExpiry slot ring => Sys2Proof.Machine.execArrivalLimitExpiry slot ring s
  | .kvAppend slot ring => Sys2Proof.Machine.execKvAppend slot ring s
  | .kvCommit slot ring => Sys2Proof.Machine.execKvCommit slot ring s
  | .kvRollback slot ring => Sys2Proof.Machine.execKvRollback slot ring s
  | .kvTrim slot ring => Sys2Proof.Machine.execKvTrim slot ring s
  | .batchStep slot ring => Sys2Proof.Machine.execBatchStep slot ring s
  | .lanternRun slot ring => Sys2Proof.Machine.execLanternRun slot ring s
  | .put slot qp => Sys2Proof.Machine.execPut slot qp s
  | .get slot qp => Sys2Proof.Machine.execGet slot qp s
  | .atomic slot qp => Sys2Proof.Machine.execAtomic slot qp s
  | .send slot qp => Sys2Proof.Machine.execSend slot qp s
  | .sendReceive slot qp => Sys2Proof.Machine.execSendReceive slot qp s
  | .tileIssue dome lane => Sys2Proof.Machine.execTileIssue dome lane s
  | .tileLocalEnd slot ring tile order => Sys2Proof.Machine.execTileLocalEnd slot ring tile order s
  | .completionWrite slot cpl => Sys2Proof.Machine.execCompletionWrite slot cpl s
  | .watchFetchIssue slot ring head entry => Sys2Proof.Machine.execWatchFetchIssue slot ring head entry s
  | .watchDataArrival fetch => Sys2Proof.Machine.execWatchDataArrival fetch s
  | .watchReadAbandon fetch => Sys2Proof.Machine.execWatchReadAbandon fetch s
  | .loadGenAbandon slot gen => Sys2Proof.Machine.execLoadGenAbandon slot gen s
  | .fragmentResendTimer fragTag => Sys2Proof.Machine.execFragmentResendTimer fragTag s
  | .remoteLimitExpiry fragTag => Sys2Proof.Machine.execRemoteLimitExpiry fragTag s
  | .qread u rs1 rs2 => Sys2Proof.Machine.execQread u rs1 rs2 s
  | .qwrite u rs1 rs2 => Sys2Proof.Machine.execQwrite u rs1 rs2 s
  | .qdrumLd u rs1 => Sys2Proof.Machine.execQdrumLd u rs1 s
  | .qdrumSt u rs1 rs2 => Sys2Proof.Machine.execQdrumSt u rs1 rs2 s
  | .qdrumAdd u rs1 rs2 => Sys2Proof.Machine.execQdrumAdd u rs1 rs2 s
  | .qexit u rs1 => Sys2Proof.Machine.execQexit u rs1 s
  | .qcrcInit u rs1 rs2 => Sys2Proof.Machine.execQcrcInit u rs1 rs2 s
  | .qcrcFeed8 u rs1 rs2 => Sys2Proof.Machine.execQcrcFeed8 u rs1 rs2 s
  | .qcrcFeed16 u rs1 rs2 => Sys2Proof.Machine.execQcrcFeed16 u rs1 rs2 s
  | .qcrcFeed32 u rs1 rs2 => Sys2Proof.Machine.execQcrcFeed32 u rs1 rs2 s
  | .qcrcResult u rs1 rs2 => Sys2Proof.Machine.execQcrcResult u rs1 rs2 s
  | .lanternClockLimit u => Sys2Proof.Machine.execLanternClockLimit u s
  | .burstRelease slot qp ready => Sys2Proof.Machine.execBurstRelease slot qp ready s
  | .putPacket f => Sys2Proof.Machine.execPutPacket f s
  | .getPacket f => Sys2Proof.Machine.execGetPacket f s
  | .atomicPacket f => Sys2Proof.Machine.execAtomicPacket f s
  | .sendPacket f => Sys2Proof.Machine.execSendPacket f s
  | .fragmentRequest f => Sys2Proof.Machine.execFragmentRequest f s
  | .getResp f => Sys2Proof.Machine.execGetResp f s
  | .atomicResp f => Sys2Proof.Machine.execAtomicResp f s
  | .fragmentResp f => Sys2Proof.Machine.execFragmentResp f s
  | .ack f => Sys2Proof.Machine.execAck f s
  | .abort f => Sys2Proof.Machine.execAbort f s
  | .nonMaelicFrame f => Sys2Proof.Machine.execNonMaelicFrame f s
  | .rxErrorFrame f => Sys2Proof.Machine.execRxErrorFrame f s
  | .qpContextFetched slot qp => Sys2Proof.Machine.execQpContextFetched slot qp s
  | .ackDelayTimer slot qp => Sys2Proof.Machine.execAckDelayTimer slot qp s
  | .rtoExpiry slot qp => Sys2Proof.Machine.execRtoExpiry slot qp s
  | .rnrResend slot qp => Sys2Proof.Machine.execRnrResend slot qp s
  | .rnrLimitExpiry slot qp => Sys2Proof.Machine.execRnrLimitExpiry slot qp s
  | .pathSuspendEnd slot qp path => Sys2Proof.Machine.execPathSuspendEnd slot qp path s
  | .memoryRead m => Sys2Proof.Machine.execMemoryRead m s
  | .memoryWrite m data => Sys2Proof.Machine.execMemoryWrite m data s
  | .debugAccess m data => Sys2Proof.Machine.execDebugAccess m data s
  | .patrolStart => Sys2Proof.Machine.execPatrolStart s
  | .chunkInitDone defId ordinal => Sys2Proof.Machine.execChunkInitDone defId ordinal s
  | .rekeyPageDone slot page found => Sys2Proof.Machine.execRekeyPageDone slot page found s
  | .rekeyWalkComplete slot => Sys2Proof.Machine.execRekeyWalkComplete slot s
  | .hbmTempPoll temps => Sys2Proof.Machine.execHbmTempPoll temps s
  | .selfRefreshEntry port => Sys2Proof.Machine.execSelfRefreshEntry port s
  | .keyRotate box r agree => Sys2Proof.Machine.execKeyRotate box r agree s
  | .weightBind box r agree => Sys2Proof.Machine.execWeightBind box r agree s
  | .bindComplete slot => Sys2Proof.Machine.execBindComplete slot s
  | .attestGet box r => Sys2Proof.Machine.execAttestGet box r s
  | .hello box r => Sys2Proof.Machine.execHello box r s
  | .heartbeat box r => Sys2Proof.Machine.execHeartbeat box r s
  | .telemetryGetCapPage box r => Sys2Proof.Machine.execTelemetryGetCapPage box r s
  | .telemetryGetMacTotals box r => Sys2Proof.Machine.execTelemetryGetMacTotals box r s
  | .telemetryGetPower box r => Sys2Proof.Machine.execTelemetryGetPower box r s
  | .telemetryGetSlotCounts box r => Sys2Proof.Machine.execTelemetryGetSlotCounts box r s
  | .lifetimeGet box r => Sys2Proof.Machine.execLifetimeGet box r s
  | .fwRecoverBegin box r => Sys2Proof.Machine.execFwRecoverBegin box r s
  | .fwRecoverData box r => Sys2Proof.Machine.execFwRecoverData box r s
  | .fwRecoverCommit box r => Sys2Proof.Machine.execFwRecoverCommit box r s
  | .fwRecoverStatus box r => Sys2Proof.Machine.execFwRecoverStatus box r s
  | .fwImageVerified => Sys2Proof.Machine.execFwImageVerified s
  | .fwImageWritten readBack => Sys2Proof.Machine.execFwImageWritten readBack s
  | .faultInject box r => Sys2Proof.Machine.execFaultInject box r s
  | .faultInjectFire => Sys2Proof.Machine.execFaultInjectFire s
  | .noticeHeadWrite w => Sys2Proof.Machine.execNoticeHeadWrite w s
  | .answerValidClear w => Sys2Proof.Machine.execAnswerValidClear w s
  | .vfSessionLapse fn => Sys2Proof.Machine.execVfSessionLapse fn s
  | .pfHeartbeatTimeout => Sys2Proof.Machine.execPfHeartbeatTimeout s
  | .watchdogExpiry => Sys2Proof.Machine.execWatchdogExpiry s
  | .firmwareSelfRestart => Sys2Proof.Machine.execFirmwareSelfRestart s
  | .belfryRestartComplete => Sys2Proof.Machine.execBelfryRestartComplete s
  | .vfFlr fn => Sys2Proof.Machine.execVfFlr fn s
  | .pf0Flr => Sys2Proof.Machine.execPf0Flr s
  | .pf1Flr => Sys2Proof.Machine.execPf1Flr s
  | .hostLinkDown port => Sys2Proof.Machine.execHostLinkDown port s
  | .hostDmaError slot gen iova => Sys2Proof.Machine.execHostDmaError slot gen iova s
  | .getVersion q => Sys2Proof.Machine.execGetVersion q s
  | .getCapabilities q => Sys2Proof.Machine.execGetCapabilities q s
  | .negotiateAlgorithms q => Sys2Proof.Machine.execNegotiateAlgorithms q s
  | .getDigests q => Sys2Proof.Machine.execGetDigests q s
  | .getCertificate q => Sys2Proof.Machine.execGetCertificate q s
  | .challenge q => Sys2Proof.Machine.execChallenge q s
  | .getMeasurements q => Sys2Proof.Machine.execGetMeasurements q s
  | .keyExchange q => Sys2Proof.Machine.execKeyExchange q s
  | .finish q => Sys2Proof.Machine.execFinish q s
  | .spdmHeartbeat q => Sys2Proof.Machine.execSpdmHeartbeat q s
  | .keyUpdate q => Sys2Proof.Machine.execKeyUpdate q s
  | .endSession q => Sys2Proof.Machine.execEndSession q s
  | .query q => Sys2Proof.Machine.execQuery q s
  | .keyProg q => Sys2Proof.Machine.execKeyProg q s
  | .kSetGo q => Sys2Proof.Machine.execKSetGo q s
  | .kSetStop q => Sys2Proof.Machine.execKSetStop q s
  | .getTdispVersion q => Sys2Proof.Machine.execGetTdispVersion q s
  | .getTdispCapabilities q => Sys2Proof.Machine.execGetTdispCapabilities q s
  | .lockInterfaceRequest q => Sys2Proof.Machine.execLockInterfaceRequest q s
  | .getDeviceInterfaceReport q => Sys2Proof.Machine.execGetDeviceInterfaceReport q s
  | .getDeviceInterfaceState q => Sys2Proof.Machine.execGetDeviceInterfaceState q s
  | .startInterfaceRequest q => Sys2Proof.Machine.execStartInterfaceRequest q s
  | .stopInterfaceRequest q => Sys2Proof.Machine.execStopInterfaceRequest q s
  | .tdispConfigWrite fn => Sys2Proof.Machine.execTdispConfigWrite fn s
  | .entdaa dyn equalId => Sys2Proof.Machine.execEntdaa dyn equalId s
  | .rstdaa => Sys2Proof.Machine.execRstdaa s
  | .getpid => Sys2Proof.Machine.execGetpid s
  | .getbcr => Sys2Proof.Machine.execGetbcr s
  | .getdcr => Sys2Proof.Machine.execGetdcr s
  | .getstatus => Sys2Proof.Machine.execGetstatus s
  | .enec => Sys2Proof.Machine.execEnec s
  | .disec => Sys2Proof.Machine.execDisec s
  | .unlockChal => Sys2Proof.Machine.execUnlockChal s
  | .unlockToken sig => Sys2Proof.Machine.execUnlockToken sig s
  | .crcStart w => Sys2Proof.Machine.execCrcStart w s
  | .crcFeed8 w => Sys2Proof.Machine.execCrcFeed8 w s
  | .crcFeed16 w => Sys2Proof.Machine.execCrcFeed16 w s
  | .crcFeed32 w => Sys2Proof.Machine.execCrcFeed32 w s
  | .pwrCtrlWrite w => Sys2Proof.Machine.execPwrCtrlWrite w s
  | .pinHoldRelease w => Sys2Proof.Machine.execPinHoldRelease w s
  | .rcFieldRead r => Sys2Proof.Machine.execRcFieldRead r s
  | .registerWrite w => Sys2Proof.Machine.execRegisterWrite w s
  | .powerSample p pd energy => Sys2Proof.Machine.execPowerSample p pd energy s
  | .peakCreditExhausted p pd => Sys2Proof.Machine.execPeakCreditExhausted p pd s
  | .peakCreditFull => Sys2Proof.Machine.execPeakCreditFull s
  | .envelopeRaise => Sys2Proof.Machine.execEnvelopeRaise s
  | .thermalSensorRead temps => Sys2Proof.Machine.execThermalSensorRead temps s
  | .thermalLimitStep => Sys2Proof.Machine.execThermalLimitStep s
  | .powerWindowEnd => Sys2Proof.Machine.execPowerWindowEnd s
  | .wearRated => Sys2Proof.Machine.execWearRated s
  | .pmbusPoll readings => Sys2Proof.Machine.execPmbusPoll readings s
  | .pmbAlert words => Sys2Proof.Machine.execPmbAlert words s
  | .macStatsPoll counts => Sys2Proof.Machine.execMacStatsPoll counts s
  | .faultRecord unit causes => Sys2Proof.Machine.execFaultRecord unit causes s
  | .safeStateEntry c => Sys2Proof.Machine.execSafeStateEntry c s
  | .paritySweep bad => Sys2Proof.Machine.execParitySweep bad s
  | .engineFault dome engine u => Sys2Proof.Machine.execEngineFault dome engine u s
  | .faultNPulseEnd => Sys2Proof.Machine.execFaultNPulseEnd s
  | .checkpointTimer => Sys2Proof.Machine.execCheckpointTimer s
  | .sectorEraseDone => Sys2Proof.Machine.execSectorEraseDone s
  | .timePortLock tod => Sys2Proof.Machine.execTimePortLock tod s
  | .hostLinkUp port flit => Sys2Proof.Machine.execHostLinkUp port flit s
  | .startUpComplete o => Sys2Proof.Machine.execStartUpComplete o s
  | .ideStreamIntegrityFailure port stream => Sys2Proof.Machine.execIdeStreamIntegrityFailure port stream s
  | .releasedChunkScrubDone chunk => Sys2Proof.Machine.execReleasedChunkScrubDone chunk s
  | .entropyFail => Sys2Proof.Machine.execEntropyFail s
  | .entropySourceRecovered => Sys2Proof.Machine.execEntropySourceRecovered s
  | .belfryMemEcc uncorrectable => Sys2Proof.Machine.execBelfryMemEcc uncorrectable s
  | .tableEcc live entry => Sys2Proof.Machine.execTableEcc live entry s

end Sys2Proof.Machine
end

