-- ==== Sys2Proof/Machine/Accept.lean ====
section
/-! DEFINITION. When a request passes every test of R424 that comes before the message's own. -/

namespace Sys2Proof.Machine

/-- The mailbox is free and the message is whole: rows 1 and 2 of R424 and the header's tests (R417 to R422). -/
def whole (op : Nat) (b : Box) (r : Req) (s : State) : Bool :=
  let m := getBox s b
  !m.reqPending && (b == .i3c || !m.answerValid) && decide (32 + r.payloadLen ≤ boxLimit b) && reqCheckOk op r &&
  (match b with | .part fn => (boundTo s fn).isSome | _ => true) && r.major == 3 && decide (r.minor ≤ m.minor)

/-- The sender has a session, or needs none, and the request is no repeat of the one last answered (R422, R431). -/
def sessionHeld (op : Nat) (b : Box) (r : Req) (s : State) : Bool :=
  let m := getBox s b
  op == 0x0001 || ((b == .i3c || m.session.isSome) && (match m.stored with | some x => x.1 != r.seq | none => true))

/-- A request that the belfry's firmware serves (R424, R426, R434). -/
def accepted (op : Nat) (k : MsgKind) (b : Box) (r : Req) (s : State) : Bool :=
  operating s && whole op b r s && sessionHeld op b r s && s.belfry.state != .halted && s.belfry.state != .restarting &&
  decide (s.belfry.backlog.length < backlogLimit b) && !rowFive (some k) r && !rowSix k b r s &&
  !(s.belfry.state == .orphaned && op != 0x0001 && b != .i3c && (b == .pf || k.orphanRefused))

/-- How a message served ends: an answer now, an answer that waits, or an answer already delivered. -/
def served (op : Nat) (b : Box) (r : Req) : Served → State
  | .now st pay t => answer b op r.seq r.defId st pay (moveServed t)
  | .later t => setBox t b (fun m => { m with reqPending := true })
  | .done t => moveServed t

end Sys2Proof.Machine
end

