-- ==== Sys2Proof/Safety.lean ====
section
/-! DEFINITION. What counts as a safe run: a step that neither faults nor is refused. -/

namespace Sys2Proof

/-- The step at a state goes on. -/
def StepGoesOn (s : Machine.State) : Prop := ∃ t, Machine.step s = .next t

end Sys2Proof
end

