-- ==== Sys2Proof/Certificates/Slice0/Obligations.lean ====
section
/-! DEFINITION. The statements for the provers. Each clause names its command and the rules it follows; a record update
that gives a next state is its frame: every field it does not name is unchanged, the host's memory and every
definition's memory among them. -/

open Sys2Proof Sys2Proof.Machine

/-! ### What the statements say of a state -/

namespace Sys2Proof.Claims

/-- The unit's event count has moved by one, and the place it pointed to holds the event (R466, R467). -/
def Recorded (unit code : Nat) (cls : FClass) (detail : Word) (s t : State) : Prop :=
  (getBlock t unit).head = (getBlock s unit).head + 1 ∧
  ∃ e, mfind (getBlock t unit).hist ((getBlock s unit).head.toNat % 8) = some e ∧
    e.code = code ∧ e.cls = cls ∧ e.detail = detail ∧ e.bellAt = s.bell.ns

/-- The message has its effect and is answered at once with a status and a payload (R424). -/
def Answers (c : Instr) (op : Nat) (b : Box) (r : Req) (st : Nat) (pay : List Byte) (s t : State) : Prop :=
  exec c s = .next (answer b op r.seq r.defId st pay (moveServed t))

/-- The message is answered with a status and has no other effect. -/
def Refuses (c : Instr) (op : Nat) (b : Box) (r : Req) (st : Nat) (s : State) : Prop := Answers c op b r st [] s s

/-- Every definition but one is as it was, its memory included. -/
def OthersKept (id : Nat) (s t : State) : Prop := ∀ i, i ≠ id → getDef t i = getDef s i

/-- A control operation that runs at once: the page belongs to a definition that is neither quiescing nor faulted, and no
other operation runs on its function (R149, R151). -/
def CtlRuns (s : State) (c : Ctl) (fn id : Nat) (d : Def) : Prop :=
  operating s = true ∧ pageTarget s c.fn c.slot c.window = some (fn, id, d) ∧ getDef s id = some d ∧
  (getFn s fn).busy = false ∧ d.state ≠ .quiescing ∧ d.state ≠ .faulted ∧ (getFn s fn).unload = none

/-- The end of a control operation: its arguments stand in the page, BUSY is low, the status and the result are shown, and
the vector is raised where it is enabled (R149). -/
def CtlEnded (fn : Nat) (c : Ctl) (st : Nat) (res : Word) (drained : Bool) (s t : State) : Prop :=
  getFn t fn = { getFn s fn with
    arg0 := c.arg0, arg1 := c.arg1, arg2 := c.arg2, arg3 := c.arg3, busy := false, ctlStatus := st, ctlResult := res
    drained := drained, waitOp := none, abort := none } ∧
  (∀ f, f ≠ fn → getFn t f = getFn s f) ∧
  t.outs = if (getFn s fn).ctlVecEn then .msix fn (getFn s fn).ctlVec.toNat :: s.outs else s.outs

/-- A control operation refused with a status: nothing but the page changes. -/
def CtlRefused (i : Instr) (fn : Nat) (c : Ctl) (st : Nat) (s : State) : Prop :=
  ∃ t, exec i s = .next t ∧ CtlEnded fn c st 0 false s t ∧ t = { s with fns := t.fns, outs := t.outs }

/-- A control operation on the rings of a quiesced partition rewrites records of its save area (R176), and nothing else of its
memory. -/
def RecordsOnly (d d' : Def) : Prop :=
  (d.state ≠ .quiesced → d'.mem = d.mem ∧ d'.saved = d.saved) ∧
  ∀ a, a < memUsable d.grant → readByte d'.mem a = readByte d.mem a

/-- Every command ring is `ACTIVE` with nothing admitted. -/
def IdleRings (d : Def) : Prop := ∀ p ∈ d.rings, p.2.state = .active ∧ p.2.cur = none ∧ p.2.nxt = none ∧ p.2.fall = none

/-- An entry that its command ring may take: the partition runs with idle rings, the entry obeys R145, its wait is over and
its completion ring has room (R144, R145, R160, R165). -/
def HeadEntry (s : State) (slot ring op id : Nat) (d : Def) (r : CmdRing) (e : List Byte) : Prop :=
  operating s = true ∧ inSlot s slot = some (id, d) ∧ getDef s id = some d ∧ d.state = .running ∧ IdleRings d ∧
  (∀ f ∈ s.frags, f.2.slot ≠ slot) ∧ mfind d.rings ring = some r ∧ r.head ≠ r.tail ∧
  e = entryAt s (boundFn d) r.base r.log2 r.head ∧ eOp e = op ∧ r.cancelRest = false ∧
  entryFault s d (!r.jobOpen) e = none ∧
  (fMode (eWaitFence e) ≠ 1 ∨ r.waitSat = true ∨ ((getFence d (fIndex (eWaitFence e))).abandoned = false ∧
    reaches (getFence d (fIndex (eWaitFence e))).value (eWaitValue e) = true)) ∧
  (∃ c, mfind d.cpls r.cpl = some c ∧ 1 ≤ cplRoom c)

/-- Nothing of any slot but what one slot has been served changes (R98). -/
def Charged (o : Option Nat) (s t : State) : Prop :=
  ∀ k, getSlot t k = if some k = o then { getSlot s k with served := (getSlot t k).served } else getSlot s k

/-- The entry completes at once: `OK`, or `DEADLINE_MISSED` when its deadline has passed, with its job counted (R147, R164 to
R166, R180). -/
def CompletesNow (i : Instr) (s : State) (ring id : Nat) (d : Def) (r : CmdRing) (e : List Byte) (t : State) (d' : Def) :
    Prop :=
  exec i s = .next t ∧ t = { s with defs := t.defs, fns := t.fns, outs := t.outs, slots := t.slots } ∧
  Charged d.slot s t ∧ OthersKept id s t ∧ getDef t id = some d' ∧
  d' = { d with
    rings := d'.rings, cpls := d'.cpls, fences := d'.fences
    jobsStarted := d.jobsStarted + (if r.jobOpen then 0 else 1)
    jobsCompleted := d.jobsCompleted + (if eJobEnd e && (r.jobStarted || !r.jobOpen) then 1 else 0) } ∧
  (∃ r', mfind d'.rings ring = some r' ∧ r' = { r with
    head := r.head + 1, waitSat := false, jobOpen := !eJobEnd e, jobStarted := r'.jobStarted, jobFault := r'.jobFault
    jobHost := r'.jobHost, fragEpoch := if r.jobOpen then r.fragEpoch else r.fragEpoch + 1, hot := r'.hot, vt := r'.vt }) ∧
  (∀ j x, j ≠ ring → mfind d.rings j = some x →
    ∃ x', mfind d'.rings j = some x' ∧ x' = { x with hot := x'.hot, vt := x'.vt }) ∧
  (∀ c, mfind d.cpls r.cpl = some c → mfind d'.cpls r.cpl = some { c with waiting := c.waiting ++
    [{ source := ring, pos := r.head, status := lateStatusOf s e cOk, opcode := eOp e, result := 0, detail := 0
       bellAt := s.bell.ns, entry := some e, base := r.base, log2 := r.log2, held := true }] }) ∧
  (∀ j, j ≠ r.cpl → mfind d'.cpls j = mfind d.cpls j) ∧
  (∀ j, j ≠ fIndex (eSignalFence e) → getFence d' j = getFence d j) ∧
  (fMode (eSignalFence e) = 0 → d'.fences = d.fences)

/-- The entry is admitted and its command begins with its tiles, none of them issued: a completion slot is reserved and the
job has started (R144, R164, R168, R171, R230). -/
def Begins (i : Instr) (s : State) (ring id : Nat) (d : Def) (r : CmdRing) (e p : List Byte) (c : Cmd) : Prop :=
  ∃ t d' r', exec i s = .next t ∧ getDef t id = some d' ∧ mfind d'.rings ring = some r' ∧ OthersKept id s t ∧
    t.host = s.host ∧ d'.mem = d.mem ∧ d'.poison = d.poison ∧ d'.fences = d.fences ∧ d'.qps = d.qps ∧
    r'.head = r.head + 1 ∧ r'.tail = r.tail ∧ r'.nxt = none ∧ r'.cur = some c ∧ c.pos = r.head ∧ c.entry = e ∧
    c.desc = p ∧ c.began = true ∧ c.failed = none ∧ c.tiles ≠ [] ∧ (∀ x ∈ c.tiles, x.state = .waiting) ∧
    r'.jobOpen = true ∧ d'.jobsStarted = d.jobsStarted + (if r.jobOpen then 0 else 1) ∧
    (∀ x, mfind d.cpls r.cpl = some x → mfind d'.cpls r.cpl = some { x with reserved := x.reserved + 1 })

/-- The descriptor of the entry is read, the slot has energy left, and no fall-back stands in the way (R144, R182 to R184,
R456): the entry has none, or is not its job's first, or its fall-back reads well before the bell's first lock. -/
def Descriptor (s : State) (d : Def) (r : CmdRing) (e p : List Byte) : Prop :=
  readDesc s d e = (none, p) ∧ (∀ sl, d.slot = some sl → (getSlot s sl).held = false) ∧ (fld e 40 8 = 0 ∨ r.jobOpen = true ∨
    (∃ f, readFall s d (fld e 40 8) = (none, some f)) ∧ s.bell.everLocked = false)

/-- An entry at the head of a send queue that may be admitted: the QP is `READY`, the entry obeys R145 and R316, its wait is
over, and a completion slot and PSNs are left (R144, R160, R316, R322). -/
def PostReady (s : State) (slot qi op id : Nat) (d : Def) (q : Qp) (sq : Queue) (e : List Byte) : Prop :=
  operating s = true ∧ inSlot s slot = some (id, d) ∧ getDef s id = some d ∧ headRuns d (hSend qi) sq.head = true ∧
  mfind d.qps qi = some q ∧ q.sq = some sq ∧ sq.state = .active ∧ sq.head ≠ sq.tail ∧ q.state = .ready ∧
  e = entryAt s (boundFn d) sq.base sq.log2 sq.head ∧ eOp e = op ∧ sendFault s d e = none ∧
  (fMode (eWaitFence e) ≠ 1 ∨ ((getFence d (fIndex (eWaitFence e))).abandoned = false ∧
    reaches (getFence d (fIndex (eWaitFence e))).value (eWaitValue e) = true)) ∧
  (∃ c, mfind d.cpls sq.cpl = some c ∧ 1 ≤ cplRoom c) ∧ psnsLeft q = true

/-- The entry is admitted as a message with the next PSNs, and nothing else of the definition changes but the slot that is
reserved for its completion. -/
def Posted (i : Instr) (s : State) (qi op id : Nat) (d : Def) (q : Qp) (sq : Queue) (e data : List Byte) (len pkts : Nat) :
    Prop :=
  ∃ t d' q' m, exec i s = .next t ∧ t = { s with defs := t.defs, slots := t.slots } ∧ Charged d.slot s t ∧
    OthersKept id s t ∧
    getDef t id = some d' ∧ d' = { d with qps := d'.qps, cpls := d'.cpls } ∧ mfind d'.qps qi = some q' ∧
    (∀ k, k ≠ qi → mfind d'.qps k = mfind d.qps k) ∧
    (∀ c, mfind d.cpls sq.cpl = some c → mfind d'.cpls sq.cpl = some { c with reserved := c.reserved + 1 }) ∧
    q' = { q with
      sq := some { sq with head := sq.head + 1 }, sndNxt := q.sndNxt + pkts
      sendSeq := if op = 0x13 then q.sendSeq + 1 else q.sendSeq, msgs := q.msgs ++ [m] } ∧
    m.op = op ∧ m.pos = some sq.head ∧ m.entry = e ∧ m.firstPsn = q.sndNxt ∧ m.pkts = pkts ∧ m.len = len ∧
    m.data = data ∧ m.released = 0 ∧ m.answered = false ∧ m.failed = none

/-- A frame that passes steps 1 to 6 of R331 for a QP whose context is cached, with no failed step of its port's receive lane
(R363). -/
def FramePasses (s : State) (f : Frame) (slot id qi : Nat) (d : Def) (q : Qp) : Prop :=
  operating s = true ∧ s.crcBad.contains (0x100 + (2 * f.port + 1)) = false ∧
  f.rxErr = false ∧ f.rxTrunc = false ∧ f.udpPort = 51804 ∧
  qpByNumber s (fDst f) = some (slot, id, d, qi, q) ∧ getDef s id = some d ∧ mfind d.qps qi = some q ∧
  d.slot = some slot ∧ d.state ≠ .scrubbing ∧ q.state = .ready ∧ (getSlot s slot).qpCached.contains qi = true ∧
  maelicCheck (fDst f) (fEpsn f) (f.hdr ++ f.body ++ f.tag) = beBytes 4 f.check.toNat ∧ packetFormOk q.conn f = true ∧
  f.srcIp.toNat = peerIp q.conn ∧ fSrcQpn f = cnPeerQpn q.conn ∧ fNode f = (Config.peerNode q.conn).toNat ∧
  fKeyId f = (linkKeyOf d q).1

/-- A data packet that authenticates and carries the next PSN, with nothing received out of order and no request waiting
(R323, R331). -/
def NextPacket (s : State) (f : Frame) (slot id qi op : Nat) (d : Def) (q : Qp) (payload : List Byte) : Prop :=
  FramePasses s f slot id qi d q ∧ fOp f = op ∧ fEpsn f = q.rcvNxt % 2 ^ 32 ∧ q.rcvNxt + 1 < 2 ^ 48 ∧ q.got = [] ∧
  q.inbound = [] ∧
  gcmOpen (linkKeyOf d q).2 (maelicNonce (fNode f) (fSrcQpn f) false (fTry f) q.rcvNxt) f.hdr f.body f.tag =
    some payload ∧
  atomicOk f payload = true

/-- The partition's memory and its host's are as a write of bytes at an address of the partition leaves them. -/
def WrittenAs (id va : Nat) (bs : List Byte) (s t : State) : Prop :=
  t.host = (writeVa id va bs s).host ∧
  (getDef t id).map (fun d => (d.mem, d.poison)) = (getDef (writeVa id va bs s) id).map (fun d => (d.mem, d.poison))

/-- The partition's memory and its host's are unchanged. -/
def MemoryKept (id : Nat) (s t : State) : Prop :=
  t.host = s.host ∧ (getDef t id).map (fun d => (d.mem, d.poison)) = (getDef s id).map (fun d => (d.mem, d.poison))

/-- No fragment of a slot is outstanding. -/
def NoFragments (s : State) (slot : Nat) : Prop := ∀ f ∈ s.frags, f.2.slot ≠ slot

/-- The partition serves no fragment, and no request waits on a QP of it. -/
def NoRequests (d : Def) : Prop := d.serving = [] ∧ ∀ p ∈ d.qps, p.2.inbound = []

/-- One running partition with one command ring, on which one command that is no transform executes: it has begun, has not
failed, no fall-back or further command stands on the ring, and no peer's request is in service. -/
def OneCommand (s : State) (slot ring id : Nat) (d : Def) (r : CmdRing) (c : Cmd) : Prop :=
  operating s = true ∧ s.defs = [(id, d)] ∧ d.slot = some slot ∧ d.state = .running ∧ d.rings = [(ring, r)] ∧
  r.state = .active ∧ r.fall = none ∧ r.cur = some c ∧ r.nxt = none ∧ r.prior = none ∧ c.began = true ∧ c.failed = none ∧
  c.listed = false ∧ isXform c = false ∧ NoRequests d

/-- The tile of a command, found by its index. -/
def tileAt (s : State) (id ring idx : Nat) : Option Tile := (getCur s id ring).bind (fun c => c.tile idx)

/-- The run that a lantern operation acts on, with its definition. -/
def Runs (s : State) (u : LRef) (r : Running) : Prop :=
  operating s = true ∧ running s u = some r ∧ getDef s r.id = some r.d

/-- The lantern of a run takes a value and nothing else of the definition changes; `bad` are the check-value contexts with a
parity error afterwards. -/
def LanternTakesWith (bad : List Nat) (i : Instr) (s : State) (u : LRef) (r : Running) (l : Lantern) : Prop :=
  ∃ t d', exec i s = .next t ∧ t = { s with defs := t.defs, slots := t.slots, crcBad := bad } ∧ OthersKept r.id s t ∧
    getDef t r.id = some d' ∧ d' = { r.d with rings := d'.rings } ∧
    (tileAt t r.id u.ring u.tile).bind (·.lantern) = some l

/-- The same where no check-value context gains or loses a parity error. -/
def LanternTakes (i : Instr) (s : State) (u : LRef) (r : Running) (l : Lantern) : Prop :=
  LanternTakesWith s.crcBad i s u r l

/-- The run traps, and its partition is faulted (R235). -/
def Traps (i : Instr) (s : State) (r : Running) : Prop :=
  ∃ t d', exec i s = .next t ∧ getDef t r.id = some d' ∧ d'.state = .faulted ∧ t.flt = s.flt ∧
    ((∀ p ∈ r.d.rings, ∀ c, p.2.cur = some c → eOp c.entry = 0x60 ∧ c.carry = []) → d'.mem = r.d.mem)

/-- A row of QCRC: whichever brings it, rs2 selects the operation (R360). -/
def QcrcRow (i : Instr) (u : LRef) (a b : Word) : Prop :=
  i = .qcrcInit u a b ∨ i = .qcrcFeed8 u a b ∨ i = .qcrcFeed16 u a b ∨ i = .qcrcFeed32 u a b ∨ i = .qcrcResult u a b

/-- A request to memory, as it stands in the fabric. -/
def waitOf (s : State) (op : MemOp) (m : MemReq) : MemWait := { op := op, req := m, gen := (getSlot s m.label).loadGen }

/-- No other request waits in the memory fabric, and the present carillon slot carries this one (R84, R85, R99). -/
def CarriedNow (s : State) (w : MemWait) : Prop :=
  s.fabric.waiting = [] ∧ mayServe (rollSlot s) w = true ∧ hasRoomFor (rollSlot s) w = true ∧ pageWaits s w = false

/-- Of each line listed the decoder finds no error, and the stack returns what the vault stored (R368, R371). -/
def CleanLines (l : List LineFound) : Prop := ∀ f ∈ l, (∀ x ∈ f.errs, x = 0) ∧ f.stored = .same

/-- The same for the lines that a write of `n` bytes at `off` merges (R369). -/
def CleanMerges (confidential : Bool) (off n : Nat) (l : List LineFound) : Prop :=
  ∀ p ∈ foundLines off n l, needsMerge confidential off n p.1 = true →
    (∀ x ∈ p.2.errs, x = 0) ∧ p.2.stored = .same

/-- Served requests change what their slots have been served, the fabric's counts and which stacks refresh themselves. -/
def servedIn (s t : State) : State :=
  { s with slots := t.slots, fabric := t.fabric, power := { s.power with refreshing := t.power.refreshing } }

/-- A DOE request that the PF of an existing port takes while the block operates (R403, R502). -/
def DoePort (s : State) (fn : Nat) : Prop := operating s = true ∧ portExists s (portOf fn) = true ∧ vfOf fn = 0

/-- A DOE request changes the state to `t` and is answered by the message named. -/
def DoeAnswers (i : Instr) (fn : Nat) (name : String) (s t : State) : Prop :=
  ∃ body, exec i s = .next (emit t (.doe fn name body))

/-- A request inside a session that is established on its port's PF (R403, R405, R406). -/
def SessionOn (s : State) (port : Nat) (session : Option Nat) (i : Nat) : Prop :=
  DoePort s (pfOf port) ∧ inSession s port session = some i

/-- The two flags of an entry of a table, NOLEND_MEM and NOLEND_HOST (R86); an entry of no chunk is the default's. -/
def noLend (t : Table) (i : Nat) : Bool × Bool :=
  match (mfind t.chunks (i / 64)).bind (fun l => l[i % 64]?) with
  | some e => (e.noLendMem, e.noLendHost)
  | none => (false, false)

/-- The commands that act only while the block operates. -/
def operatingOnly (c : Instr) : Bool :=
  match c with
  | .carillonSwitchover | .egressHoldEnd | .guaranteeWindowEnd .. | .powerBudgetExhausted .. | .quiesceComplete ..
  | .drainLimitExpiry .. | .preemptWaitExpiry .. | .scrubComplete .. | .dbRing .. | .ringCreate ..
  | .ringDestroy .. | .ringAbort .. | .ringAbortDrained .. | .ptSet .. | .invalidate .. | .fenceInit ..
  | .fenceAbandon .. | .fenceRead .. | .qpModifyReady .. | .qpModifyReset .. | .qpQuery .. | .nop ..
  | .fenceWait .. | .fenceSignal .. | .gemm .. | .attend .. | .merge .. | .reduce .. | .convert ..
  | .arrivalLimitExpiry .. | .kvAppend .. | .kvCommit .. | .kvRollback .. | .kvTrim .. | .batchStep ..
  | .lanternRun .. | .put .. | .get .. | .atomic .. | .send .. | .sendReceive .. | .tileIssue .. | .tileLocalEnd ..
  | .completionWrite .. | .watchFetchIssue .. | .watchDataArrival .. | .watchReadAbandon .. | .loadGenAbandon ..
  | .fragmentResendTimer .. | .remoteLimitExpiry .. | .qread .. | .qwrite .. | .qdrumLd .. | .qdrumSt ..
  | .qdrumAdd .. | .qexit .. | .qcrcInit .. | .qcrcFeed8 .. | .qcrcFeed16 .. | .qcrcFeed32 .. | .qcrcResult ..
  | .lanternClockLimit .. | .burstRelease .. | .putPacket .. | .getPacket .. | .atomicPacket .. | .sendPacket ..
  | .fragmentRequest .. | .getResp .. | .atomicResp .. | .fragmentResp .. | .ack .. | .abort ..
  | .nonMaelicFrame .. | .rxErrorFrame .. | .qpContextFetched .. | .ackDelayTimer .. | .rtoExpiry ..
  | .rnrResend .. | .rnrLimitExpiry .. | .pathSuspendEnd .. | .memoryRead .. | .memoryWrite .. | .debugAccess ..
  | .patrolStart | .chunkInitDone .. | .rekeyPageDone .. | .rekeyWalkComplete .. | .hbmTempPoll ..
  | .selfRefreshEntry .. | .bindComplete .. | .faultInjectFire | .vfSessionLapse .. | .pfHeartbeatTimeout
  | .watchdogExpiry | .firmwareSelfRestart | .belfryRestartComplete | .vfFlr .. | .pf0Flr | .pf1Flr
  | .tdispConfigWrite .. | .powerWindowEnd | .engineFault .. | .ideStreamIntegrityFailure ..
  | .releasedChunkScrubDone .. => true
  | _ => false

/-- The safe state holds, or the tamper latch is set in a block that RESET_N holds or whose start-up has stopped. -/
def Latched (s : State) : Prop :=
  s.pins.powered = true ∧ (s.flt.safe = true ∨
    (s.flt.tampered = true ∧ (s.pins.resetN = false ∨ s.boot.stage = .stopped)))

/-- Every memory of the state is in its canonical form. -/
def MemoryOk (s : State) : Prop :=
  (∀ fn, Memory.wf (hostMem s fn) = true) ∧ Memory.wf s.vault.reserve = true ∧
  ∀ id d, getDef s id = some d → Memory.wf d.mem = true ∧ Memory.wf d.persist = true

/-- The unit has recorded nothing in this fabric clock, and no cause of it waits in its staging entries (R467). -/
def Clear (unit : Nat) (s : State) : Prop := (getBlock s unit).staging = [] ∧ (getBlock s unit).recAt ≠ some s.clk

/-- A definition apart from the keys that the vaults and the XPT hold of it (R398, R479). -/
def keyless (d : Def) : Def :=
  { d with linkKeys := [], bind := d.bind.map (fun b => { b with cek := [] }), background := none }

end Sys2Proof.Claims

open Sys2Proof.Claims

/-! ### The step, reset and power -/

/-- A step takes the command at the front of the queue and runs it with the queue's rest. On an empty queue one fabric clock
passes, and no word spells a command, since the table gives no row any bits: both are the model's choice (logs 1 and 2). -/
def Obligations.StepRunsFront : Prop :=
  (∀ (c : Instr) (rest : List Instr) (s : State),
    step { s with pending := c :: rest } = exec c { s with pending := rest }) ∧
  (∀ s : State, s.pending = [] → step s = .next (idleClock s)) ∧
  (∀ (s : State) (nbits w : Nat), decodeTableWord nbits w = none ∧ s.withFetchWord nbits w = s)

/-- POWER_UP, POWER_REMOVAL and RESET_N_ASSERT (R20, R33, R38, R40, R409): what each keeps, with every other field at its
reset value. The flash and the blown fuses outlive all three; an image whose write is cut short does not. -/
def Obligations.PowerAndReset : Prop :=
  (∀ s : State, s.pins.powered = true → ∃ t, exec .powerRemoval s = .next t ∧
    t = { State.reset with
      pins := { Pins.reset with powered := false }
      keep := { Keep.reset with fuseCount := s.keep.fuseCount, draws := s.keep.draws }
      flash := { s.flash with image := t.flash.image }
      host := s.host, clk := s.clk, freeCtr := s.freeCtr, outs := s.outs, pending := s.pending } ∧
    (s.life.writing = false → t.flash.image = s.flash.image)) ∧
  (∀ s : State, s.pins.powered = false → ∃ t, exec .powerUp s = .next t ∧
    t = { State.reset with
      keep := { Keep.reset with fuseCount := s.keep.fuseCount, draws := s.keep.draws }
      flash := { s.flash with image := t.flash.image }
      host := s.host, clk := s.clk, freeCtr := s.freeCtr, outs := s.outs, pending := s.pending } ∧
    (s.life.writing = false → t.flash.image = s.flash.image)) ∧
  (∀ s : State, s.pins.powered = true → s.pins.resetN = true → ∃ t, exec .resetNAssert s = .next t ∧
    t = { State.reset with
      pins := { s.pins with
        resetN := false, testMode := false, instanceId := 0, hbmPop := 0, lsoEn := 0, host1En := false
        chatterThrottle := false, faultNLow := false, faultPulse := false, containedHold := false }
      flt := t.flt
      keep := { Keep.reset with
        fuseCount := s.keep.fuseCount, draws := s.keep.draws, confLock := s.keep.confLock, fuseLatch := s.keep.fuseLatch
        tamperOwed := s.keep.tamperOwed }
      flash := { s.flash with image := t.flash.image }
      host := s.host, clk := s.clk, freeCtr := s.freeCtr, outs := s.outs, pending := s.pending } ∧
    (s.life.writing = false → t.flash.image = s.flash.image) ∧
    (s.flt.safe = false → s.flt.tampered = false → t.flt = Flt.reset) ∧
    (s.flt.safe = true ∨ s.flt.tampered = true →
      t.flt = { s.flt with chatter := 0, containedMode := 0, safeMode := 1 })) ∧
  (∀ s : State, s.pins.powered = true → exec .powerUp s = .next s) ∧
  (∀ s : State, s.pins.powered = false → exec .powerRemoval s = .next s ∧ exec .resetNAssert s = .next s) ∧
  (∀ s : State, s.pins.resetN = false → exec .resetNAssert s = .next s)

/-- RESET_N_DEASSERT, START_UP_COMPLETE, ENTROPY_FAIL and ENTROPY_SOURCE_RECOVERED (R37, R42, R488, R493, R495, R502). -/
def Obligations.StartUpSequence : Prop :=
  (∀ (st : Straps) (s : State), s.pins.powered = true → s.pins.resetN = false → s.flt.safe = false →
    s.flt.tampered = false → st.errInN = true → st.entropyOk = true →
    ∃ t, exec (.resetNDeassert st) s = .next t ∧
      t = { s with pins := t.pins, boot := t.boot, keep := t.keep
                   power := { s.power with clock := t.power.clock, throttle := t.power.throttle }
                   life := t.life, flash := t.flash, crc0 := t.crc0 } ∧
      t.pins = { s.pins with
        resetN := true, testMode := st.testMode, instanceId := st.instanceId, hbmPop := st.hbmPop, lsoEn := st.lsoEn
        host1En := st.host1En, errInN := st.errInN, pmbAlertN := st.pmbAlertN, ptpPps := st.ptpPps } ∧
      t.keep.keys = true ∧ t.keep.bootNonce = Config.drbg s.keep.draws ∧ t.keep.draws = s.keep.draws + 1 ∧
      t.boot.fuseShown = s.keep.fuseCount ∧
      (st.hbmPop = 3 → t.boot.stage = .stopped ∧ t.boot.reason = 0x01) ∧
      (st.hbmPop ≠ 3 → st.sfdpOk = false → t.boot.stage = .stopped ∧ t.boot.reason = 0x02) ∧
      (st.hbmPop ≠ 3 → st.sfdpOk = true → t.boot.stage = .training)) ∧
  (∀ (st : Straps) (s : State), s.pins.powered = true → s.pins.resetN = false → s.flt.tampered = true →
    ∃ t, exec (.resetNDeassert st) s = .next t ∧ t.boot.stage = .stopped ∧ t.boot.reason = 0x03 ∧
      t.pins.faultNLow = true ∧ t.defs = s.defs ∧ t.host = s.host ∧ t.keep.keys = s.keep.keys) ∧
  (∀ (st : Straps) (s : State), s.pins.powered = true → s.pins.resetN = false → s.flt.tampered = false →
    s.flt.safe = true →
    ∃ t, exec (.resetNDeassert st) s = .next t ∧ t.boot.stage = .stopped ∧ t.boot.reason = 0x08 ∧
      t.pins.faultNLow = true ∧ t.defs = s.defs ∧ t.host = s.host ∧ t.keep.keys = s.keep.keys) ∧
  (∀ (o : StartUp) (s : State), s.pins.powered = true → s.pins.resetN = true → s.flt.safe = false →
    s.boot.stage = .training →
    (stacksOk s o = false → ∃ t, exec (.startUpComplete o) s = .next t ∧
      t = { s with boot := { s.boot with stage := .stopped, reason := 0x01 } }) ∧
    (stacksOk s o = true → ∃ t, exec (.startUpComplete o) s = .next t ∧
      t = { s with boot := t.boot, vault := { s.vault with blockKey := some (blockKeyNow s) }
                   car := { s.car with overhead := t.car.overhead }, outs := t.outs, crc0 := t.crc0
                   domes := { s.domes with fenced := s.domes.fenced ||| o.selfTestFailed }
                   belfry := { s.belfry with state := t.belfry.state }, keep := t.keep, flash := t.flash, life := t.life
                   power := { s.power with clock := t.power.clock } } ∧
      t.boot.pinRate = o.pinRate ∧ t.boot.selfTest = o.selfTestFailed ∧ t.boot.onDieEcc = List.range (ports s) ∧
      (if imageReason s.flash.image s.keep.fuseCount = 0 then
        t.boot.stage = .ready ∧ t.boot.reason = 0 ∧ t.car.overhead = some 20 ∧ t.belfry.state = .orphaned ∧
        t.keep.alias_ = true ∧
        t.boot.imageSvn = imgSvn s.flash.image ∧ t.keep.fuseCount = max s.keep.fuseCount (imgSvn s.flash.image)
      else
        t.boot.stage = .recovery ∧ t.boot.reason = imageReason s.flash.image s.keep.fuseCount ∧
        t.belfry.state = .recovery ∧ t.boot.imageSvn = 0 ∧ t.boot.fwVersion = 0))) ∧
  (∀ s : State, s.pins.powered = true → s.pins.resetN = true → Clear 13 s → s.keep.severity.getLsbD 0 = false →
    ∃ t, exec .entropyFail s = .next t ∧
      t = { s with keep := { s.keep with entropyOk := false }, faults := t.faults, outs := t.outs } ∧
      Recorded 13 0x0D00 .corrected 0 s t) ∧
  (∀ s : State, s.pins.powered = true → s.pins.resetN = true → s.flt.safe = false →
    s.keep.severity.getLsbD 0 = true →
    ∃ t, exec .entropyFail s = .next t ∧ t.flt.safe = true ∧ t.flt.firstCode = 0x0D00 ∧ t.keep.entropyOk = false) ∧
  (∀ s : State, s.pins.powered = true → s.pins.resetN = true → s.keep.waits = [] →
    (operating s = true ∨ s.boot.stage ≠ .keepRom) → ∃ t, exec .entropySourceRecovered s = .next t ∧
      t = { s with keep := { s.keep with entropyOk := true } }) ∧
  (∀ s : State, s.pins.powered = true → s.pins.resetN = true → operating s = false → s.boot.stage = .keepRom →
    s.keep.entropyOk = false → s.pins.hbmPop ≠ 3 → s.boot.sfdpOk = true →
    ∃ t, exec .entropySourceRecovered s = .next t ∧ t.boot.stage = .training ∧ t.keep.keys = true ∧
      t.keep.entropyOk = true ∧ t.keep.bootNonce = Config.drbg s.keep.draws ∧ t.defs = s.defs ∧ t.host = s.host)

/-! ### Pins, causes and the safe state -/

/-- THROTTLE_N_ASSERT, THROTTLE_N_DEASSERT, THROTTLE_CHATTER_RELEASE, INPUT_CHATTER, FAULT_N_PULSE_END and PIN_HOLD_RELEASE
(R34, R35, R36, R39, R40, R448, R482, R483): the dome clock is the lowest of its limits, and 400 MHz is one of them while
THROTTLE_N is low or its chatter is in force. The pin acts on neither in the safe state, nor in a clock in which an edge of
RESET_N, TAMPER_N or ERR_IN_N comes before it, as neighbours in the queue are (log 79). FAULT_N follows the selected mode. -/
def Obligations.PinsFollow : Prop :=
  (∀ s : State, s.pins.powered = true → ∃ t, exec .throttleNAssert s = .next t ∧
    t = { s with pins := { s.pins with
                   throttleN := false, chatterThrottle := s.pins.chatterThrottle || s.flt.chatter.getLsbD 1 }
                 power := { s.power with
                   throttle := if throttleActs s then true else s.power.throttle
                   clock := if throttleActs s then min (min s.power.ftarget s.power.thermal) (min s.power.freqCap 400)
                     else s.power.clock } }) ∧
  (∀ s : State, s.pins.powered = true → ∃ t, exec .throttleNDeassert s = .next t ∧
    t = { s with pins := { s.pins with throttleN := true }
                 power := { s.power with
                   throttle := if throttleActs s then s.flt.chatter.getLsbD 1 && s.pins.chatterThrottle
                     else s.power.throttle
                   clock := if throttleActs s then min (min s.power.ftarget s.power.thermal)
                       (if s.flt.chatter.getLsbD 1 && s.pins.chatterThrottle then min s.power.freqCap 400
                         else s.power.freqCap)
                     else s.power.clock } }) ∧
  (∀ s : State, alive s = true → ∃ t, exec .throttleChatterRelease s = .next t ∧
    t = { s with pins := { s.pins with throttleN := true, chatterThrottle := false }
                 power := { s.power with
                   throttle := if throttleActs s then false else s.power.throttle
                   clock := if throttleActs s then min (min s.power.ftarget s.power.thermal) s.power.freqCap
                     else s.power.clock } }) ∧
  (∀ (i : Nat) (s : State), alive s = true → i < 13 → Clear 1 s → ∃ t, exec (.inputChatter i) s = .next t ∧
    t = { s with flt := { s.flt with chatter := s.flt.chatter ||| BitVec.ofNat 13 (2 ^ i) }
                 faults := t.faults, outs := t.outs
                 pins := { s.pins with chatterThrottle := s.pins.chatterThrottle || i == 1 }
                 power := { s.power with clock := t.power.clock, throttle := t.power.throttle } } ∧
    t.flt.chatter.getLsbD i = true ∧ Recorded 1 0x0100 .corrected (BitVec.ofNat 64 i) s t ∧
    (i = 1 → throttleActs s = true → t.power.throttle = true ∧ t.power.clock ≤ 400)) ∧
  (∀ s : State, alive s = true → s.pins.faultPulse = true → s.flt.tampered = false →
    ∃ t, exec .faultNPulseEnd s = .next t ∧
      t = { s with pins := { s.pins with
              faultPulse := false, faultNLow := t.pins.faultNLow, containedHold := t.pins.containedHold } } ∧
      (s.flt.safe = true → t.pins.faultNLow = decide (s.flt.safeMode = 1) ∧ t.pins.containedHold = false) ∧
      (s.flt.safe = false → t.pins.faultNLow = (s.pins.containedHold || decide (s.flt.containedMode = 2)) ∧
        t.pins.containedHold = t.pins.faultNLow)) ∧
  (∀ s : State, alive s = true → s.pins.faultPulse = false → exec .faultNPulseEnd s = .next s) ∧
  (∀ (w : HostWrite) (s : State), operating s = true → w.fn = 0 → w.off = 0x20018 → w.data = leBytes 8 0x100 →
    s.pins.containedHold = true →
    ∃ t, exec (.pinHoldRelease w) s = .next t ∧
      t = { s with flt := { s.flt with containedMode := 0, safeMode := 0 }
                   pins := { s.pins with containedHold := false, faultNLow := s.pins.faultPulse } })

/-- SAFE_STATE_ENTRY, ERR_IN_N_ASSERT and PARITY_SWEEP (R35, R37, R39, R474, R478, R479, R483): the first cause of class
`FATAL` begins the safe state, and a later one only counts. Of edges in one clock, as neighbours in the queue are (log 79),
RESET_N comes before TAMPER_N and TAMPER_N before ERR_IN_N. Every key entry of the vaults is cleared, and nothing of a
definition changes but the keys that the vaults and the XPT hold of it. -/
def Obligations.SafeStateEntry : Prop :=
  (∀ (c : Cause) (s : State), alive s = true → s.flt.safe = false → classOf s c = some .fatal → isStale s c = false →
    ∃ t, exec (.safeStateEntry c) s = .next t ∧ t.flt.safe = true ∧ t.flt.firstCode = c.code ∧
      t.flt.injected = c.injected ∧ t.flt.safeAt = s.bell.ns ∧ t.flt.later = s.flt.later ∧ t.pins.faultNLow = true ∧
      (∀ p ∈ t.slots, p.2.keyCurrent = none ∧ p.2.keyNext = none) ∧
      t.defs.map (fun p => (p.1, keyless p.2)) = s.defs.map (fun p => (p.1, keyless p.2)) ∧ t.host = s.host) ∧
  (∀ (c : Cause) (s : State), alive s = true → s.flt.safe = true → classOf s c = some .fatal → isStale s c = false →
    ∃ t, exec (.safeStateEntry c) s = .next t ∧
      t = { s with flt := { s.flt with later := satAdd s.flt.later 1 }, faults := t.faults, outs := t.outs }) ∧
  (∀ s : State, alive s = true → s.flt.safe = false → edgeNow .resetNAssert s = false → edgeNow .tamperNAssert s = false →
    ∃ t, exec .errInNAssert s = .next t ∧ t.flt.safe = true ∧ t.flt.firstCode = 0x0101 ∧ t.flt.safeAt = s.bell.ns ∧
      t.pins.errInN = false ∧ t.pins.faultNLow = true ∧
      (∀ p ∈ t.slots, p.2.keyCurrent = none ∧ p.2.keyNext = none) ∧
      t.defs.map (fun p => (p.1, keyless p.2)) = s.defs.map (fun p => (p.1, keyless p.2)) ∧ t.host = s.host) ∧
  (∀ s : State, alive s = true → s.flt.safe = false → s.flt.tampered = false → edgeNow .resetNAssert s = false →
    edgeNow .tamperNAssert s = true →
    ∃ t, exec .errInNAssert s = .next t ∧ t.flt.safe = true ∧ t.flt.firstCode = 0x0102 ∧ t.flt.tampered = true ∧
      t.pins.tamperN = false ∧ t.pins.errInN = false ∧ t.keep.keys = false ∧ t.host = s.host) ∧
  (∀ s : State, alive s = true → edgeNow .resetNAssert s = true → edgeNow .tamperNAssert s = false →
    ∃ t, exec .resetNAssert s = .next t ∧
      exec .errInNAssert s = .next { t with pins := { t.pins with errInN := false } }) ∧
  (∀ s : State, s.pins.powered = true → s.pins.resetN = false → edgeNow .tamperNAssert s = false →
    exec .errInNAssert s = .next { s with pins := { s.pins with errInN := false } }) ∧
  (∀ (u : Nat) (s : State), alive s = true → s.flt.safe = false →
    ∃ t, exec (.paritySweep (some u)) s = .next t ∧ t.flt.safe = true ∧ t.flt.firstCode = 0x0103 ∧ t.host = s.host) ∧
  (∀ s : State, exec (.paritySweep none) s = .next s)

/-- TAMPER_N_ASSERT (R35, R37, R398): the first assertion destroys the keys and sets the latch, and later ones are
ignored. -/
def Obligations.TamperDestroysKeys : Prop :=
  (∀ s : State, alive s = true → s.flt.safe = false → s.flt.tampered = false → edgeNow .resetNAssert s = false →
    ∃ t, exec .tamperNAssert s = .next t ∧ t.flt.tampered = true ∧ t.flt.safe = true ∧ t.flt.firstCode = 0x0102 ∧
      t.keep.keys = false ∧ t.keep.bootNonce = 0 ∧ t.keep.fuseLatch = true ∧
      (∀ p ∈ t.slots, p.2.keyCurrent = none ∧ p.2.keyNext = none) ∧
      (∀ p ∈ t.defs, p.2.linkKeys = [] ∧ p.2.tenant = [] ∧ p.2.background = none) ∧
      t.defs.map (fun p => (p.1, { keyless p.2 with tenant := [] })) =
        s.defs.map (fun p => (p.1, { keyless p.2 with tenant := [] })) ∧
      t.host = s.host) ∧
  (∀ s : State, alive s = true → s.flt.safe = true → s.flt.tampered = false → edgeNow .resetNAssert s = false →
    ∃ t, exec .tamperNAssert s = .next t ∧
      t.flt = { s.flt with tampered := true, later := satAdd s.flt.later 1 } ∧ t.keep.keys = false ∧
      (∀ p ∈ t.slots, p.2.keyCurrent = none ∧ p.2.keyNext = none) ∧
      (∀ p ∈ t.defs, p.2.linkKeys = [] ∧ p.2.tenant = [] ∧ p.2.background = none)) ∧
  (∀ s : State, s.pins.powered = true → s.flt.tampered = true → edgeNow .resetNAssert s = false →
    exec .tamperNAssert s = .next { s with pins := { s.pins with tamperN := false } }) ∧
  (∀ s : State, s.pins.powered = true → s.pins.resetN = false → s.flt.tampered = false →
    exec .tamperNAssert s = .next { s with
      pins := { s.pins with tamperN := false }
      flt := { s.flt with tampered := true }
      keep := { s.keep with fuseLatch := true, tamperOwed := true } })

/-- FAULT_RECORD, HOST_DMA_ERROR, CONTAINED_RESET and ENGINE_FAULT (R62, R116, R467, R472, R473, R485): a `CONTAINED` cause
that is not stale puts the running definition of its slot in `FAULTED` and advances the slot's load generation; a stale
cause is recorded and does nothing else. -/
def Obligations.ContainedCauses : Prop :=
  (∀ (slot id : Nat) (d : Def) (iova : Word) (s : State), alive s = true → s.flt.safe = false →
    inSlot s slot = some (id, d) → getDef s id = some d → d.state = .running →
    ∃ t, exec (.hostDmaError slot (getSlot s slot).loadGen.toNat iova) s = .next t ∧
      (∃ d', getDef t id = some d' ∧ d'.state = .faulted ∧ d'.slot = some slot ∧ d'.chunks = d.chunks ∧
        d'.grant = d.grant) ∧
      (getSlot t slot).loadGen = (getSlot s slot).loadGen + 1) ∧
  (∀ (slot gen : Nat) (iova : Word) (s : State), alive s = true → Clear 11 s →
    gen ≠ (getSlot s slot).loadGen.toNat →
    ∃ t, exec (.hostDmaError slot gen iova) s = .next t ∧
      t = { s with faults := t.faults, fns := t.fns, outs := t.outs } ∧
      Recorded 11 0x0B01 .contained (match inSlot s slot with
        | some p => if p.2.grant.confidential then 0 else iova
        | none => iova) s t) ∧
  (∀ (c : Cause) (slot id : Nat) (d : Def) (s : State), alive s = true → s.flt.safe = false →
    c.slot = some slot → classOf s c = some .contained → isStale s c = false →
    inSlot s slot = some (id, d) → getDef s id = some d → d.state = .running →
    ∃ t, exec (.containedReset c) s = .next t ∧
      (∃ d', getDef t id = some d' ∧ d'.state = .faulted ∧ d'.slot = some slot ∧ d'.chunks = d.chunks ∧
        d'.grant = d.grant)) ∧
  (∀ (dome engine slot id : Nat) (u : LRef) (d : Def) (x : Tile) (s : State), operating s = true → dome < 16 → engine < 8 →
    u.slot = slot → inSlot s slot = some (id, d) → getDef s id = some d → d.state = .running →
    runsOn s u dome engine = some (id, x) →
    ∃ t, exec (.engineFault dome engine u) s = .next t ∧
      (∃ d', getDef t id = some d' ∧ d'.state = .faulted ∧ d'.slot = some slot)) ∧
  (∀ (code : Nat) (detail : Word) (s : State), alive s = true →
    code ∈ [0x0100, 0x0602, 0x0603, 0x0604, 0x0605, 0x0700, 0x0707, 0x0D02] → Clear (code / 256) s →
    ∃ t, exec (.faultRecord (code / 256) [blockCause code detail]) s = .next t ∧
      t = { s with faults := t.faults, outs := t.outs } ∧ Recorded (code / 256) code .corrected detail s t)

/-! ### Host reads and writes of registers -/

/-- BELL_NOW_READ and RC_FIELD_READ (R78, R138, R388, R417, R465, R522): a read of the low half of BELL.NOW latches the high
half and the fraction; a read that covers a whole clear-on-read field returns it and clears it, one that covers it in part
or a reserved offset clears nothing, and any other register is only returned. -/
def Obligations.RegisterReads : Prop :=
  (∀ (w : Bool) (s : State), alive s = true →
    ∃ t, exec (.bellNowRead { fn := 0, off := 0x40000, size := 8, window := w }) s = .next t ∧
      t = { s with
        bell := { s.bell with latchHi := t.bell.latchHi, latchFrac := t.bell.latchFrac }
        outs := .readData 0 (leBytes 8 s.bell.ns.toNat) :: s.outs } ∧
      t.bell.latchHi = s.bell.ns.extractLsb' 32 32 ∧ t.bell.latchFrac = s.bell.fine.extractLsb' 24 16) ∧
  (∀ (w : Bool) (s : State), alive s = true →
    ∃ t, exec (.bellNowRead { fn := 0, off := 0x40000, size := 4, window := w }) s = .next t ∧
      t = { s with
        bell := { s.bell with latchHi := t.bell.latchHi, latchFrac := t.bell.latchFrac }
        outs := .readData 0 (leBytes 4 s.bell.ns.toNat) :: s.outs } ∧
      t.bell.latchHi = s.bell.ns.extractLsb' 32 32 ∧ t.bell.latchFrac = s.bell.fine.extractLsb' 24 16) ∧
  (∀ (w : Bool) (s : State), alive s = true →
    exec (.bellNowRead { fn := 0, off := 0x40004, size := 4, window := w }) s =
      .next { s with outs := .readData 0 (leBytes 4 s.bell.latchHi.toNat) :: s.outs }) ∧
  (∀ (w : Bool) (u : Nat) (base : Nat) (s : State), alive s = true → (u, base) ∈ blockBases →
    ∃ t, exec (.rcFieldRead { fn := 0, off := base + 0x28, size := 8, window := w }) s = .next t ∧
      t = { setBlock s u (fun b => { b with ovf := 0 }) with outs := t.outs } ∧
      t.outs = .readData 0 (leBytes 8 (getBlock s u).ovf.toNat) :: s.outs) ∧
  (∀ (w : Bool) (n : Nat) (p : VltPort) (s : State), operating s = true → n < 8 → s.vault.ports[n]? = some p →
    ∃ t, exec (.rcFieldRead { fn := 0, off := 0xA0000 + 0x40 * n, size := 8, window := w }) s = .next t ∧
      t = { s with vault := { s.vault with ports := t.vault.ports }, outs := t.outs } ∧
      t.vault.ports[n]? = some { p with eccCorrected := 0, poisonNew := 0, tagFail := 0 } ∧
      (∀ m, m ≠ n → t.vault.ports[m]? = s.vault.ports[m]?)) ∧
  (∀ (w : Bool) (n : Nat) (p : VltPort) (s : State), operating s = true → n < 8 → s.vault.ports[n]? = some p →
    ∃ t, exec (.rcFieldRead { fn := 0, off := 0xA0004 + 0x40 * n, size := 4, window := w }) s = .next t ∧
      t = { s with vault := { s.vault with ports := t.vault.ports }
                   outs := .readData 0 (leBytes 4 p.eccCorrected.toNat) :: s.outs } ∧
      t.vault.ports[n]? = some { p with eccCorrected := 0 } ∧
      (∀ m, m ≠ n → t.vault.ports[m]? = s.vault.ports[m]?)) ∧
  (∀ (w : Bool) (s : State), alive s = true →
    ∃ t, exec (.rcFieldRead { fn := 0, off := 0x10030, size := 8, window := w }) s = .next t ∧
      t = { setBox s .pf (fun m => { m with discards := 0 }) with outs := t.outs } ∧
      t.outs = .readData 0 (leBytes 8 (getBox s .pf).discards.toNat) :: s.outs) ∧
  (∀ (w : Bool) (s : State), alive s = true →
    exec (.rcFieldRead { fn := 0, off := 0x20000, size := 8, window := w }) s =
      .next { s with outs := .readData 0 (leBytes 8 (fltSafeReg s.flt)) :: s.outs }) ∧
  (∀ (w : Bool) (off : Nat) (s : State), alive s = true → off < 0x10000 → off % 8 ≠ 0 →
    exec (.rcFieldRead { fn := 0, off := off, size := 8, window := w }) s =
      .next { s with outs := .readData 0 (List.replicate 8 0) :: s.outs })

/-- REGISTER_WRITE, PWR_CTRL_WRITE, ANSWER_VALID_CLEAR and NOTICE_HEAD_WRITE (R5, R387, R418, R437, R447, R460, R461, R465,
R521): what a host write leaves in registers of each access kind, and what is discarded. -/
def Obligations.RegisterWrites : Prop :=
  (∀ (w : Bool) (v : Nat) (s : State), operating s = true → v < 2 ^ 64 →
    exec (.registerWrite { fn := 0, off := 0x80020, data := leBytes 8 v, window := w }) s =
      .next { s with power := { s.power with budgetHit := s.power.budgetHit &&& ~~~(BitVec.ofNat 64 v) } }) ∧
  (∀ (w : Bool) (v : Nat) (s : State), operating s = true → v < 2 ^ 64 → s.vault.lock = true →
    exec (.registerWrite { fn := 0, off := 0xA0800, data := leBytes 8 v, window := w }) s = .next s) ∧
  (∀ (w : Bool) (v : Nat) (s : State), operating s = true → v < 2 ^ 64 → s.vault.lock = false →
    ∃ t, exec (.registerWrite { fn := 0, off := 0xA0800, data := leBytes 8 v, window := w }) s = .next t ∧
      t = { s with vault := { s.vault with
        keyCheck := t.vault.keyCheck, tagFail := t.vault.tagFail, eccUnc := t.vault.eccUnc, lock := v.testBit 63 } } ∧
      (t.vault.keyCheck = s.vault.keyCheck ∨ t.vault.keyCheck = 0 ∨ t.vault.keyCheck = 2) ∧
      (t.vault.tagFail = s.vault.tagFail ∨ t.vault.tagFail = 1 ∨ t.vault.tagFail = 2) ∧
      (t.vault.eccUnc = s.vault.eccUnc ∨ t.vault.eccUnc = 1 ∨ t.vault.eccUnc = 2)) ∧
  (∀ (w : Bool) (u base v : Nat) (s : State), alive s = true → (u, base) ∈ blockBases → v < 2 ^ 64 →
    exec (.registerWrite { fn := 0, off := base, data := leBytes 8 v, window := w }) s =
      .next (setBlock s u (fun b => { b with src := b.src &&& ~~~(BitVec.ofNat 16 v) }))) ∧
  (∀ (w : Bool) (off : Nat) (data : List Byte) (s : State), alive s = true → off < 0x10000 →
    exec (.registerWrite { fn := 0, off := off, data := data, window := w }) s = .next s) ∧
  (∀ (w : Bool) (off : Nat) (data : List Byte) (s : State), alive s = true → 0x80000 ≤ off → off < 0x8F000 →
    (data.length ≠ 8 ∨ off % 8 ≠ 0) →
    exec (.registerWrite { fn := 0, off := off, data := data, window := w }) s = .next s) ∧
  (∀ (w : Bool) (v : Nat) (s : State), operating s = true → v < 2 ^ 64 →
    ∃ t, exec (.pwrCtrlWrite { fn := 0, off := 0x80008, data := leBytes 8 v, window := w }) s = .next t ∧
      t = { s with power := { s.power with
        freqCap := min Config.binTop (max 400 (v / 2 ^ 32 % 2 ^ 16 / 25 * 25)), peakDisable := v.testBit 0
        envelope := s.power.envelope || v.testBit 0, clock := t.power.clock } } ∧
      t.power.clock ≤ t.power.freqCap ∧ t.power.clock ≤ s.power.ftarget ∧ t.power.clock ≤ s.power.thermal) ∧
  (∀ (w : Bool) (v : Nat) (s : State), alive s = true → v < 2 ^ 64 → v.testBit 1 = true →
    exec (.answerValidClear { fn := 0, off := 0x10008, data := leBytes 8 v, window := w }) s =
      .next (setBox s .pf (fun m => { m with answerValid := false }))) ∧
  (∀ (w : Bool) (v : Nat) (s : State), alive s = true → v < 2 ^ 64 → v.testBit 1 = false →
    exec (.answerValidClear { fn := 0, off := 0x10008, data := leBytes 8 v, window := w }) s = .next s) ∧
  (∀ (w : Bool) (v : Nat) (s : State), alive s = true → v < 2 ^ 64 → (getBox s .pf).heldNotices = [] →
    exec (.noticeHeadWrite { fn := 0, off := 0x10018, data := leBytes 8 v, window := w }) s =
      .next (setBox s .pf (fun m => { m with noticeHead := BitVec.ofNat 32 v }))) ∧
  (∀ (w : Bool) (v : Nat) (n : List Byte) (s : State), alive s = true → v < 2 ^ 64 →
    (getBox s .pf).heldNotices = [n] → (getBox s .pf).session.isSome = true →
    ((getBox s .pf).noticeTail - BitVec.ofNat 32 v).toNat < 16 →
    ∃ t, exec (.noticeHeadWrite { fn := 0, off := 0x10018, data := leBytes 8 v, window := w }) s = .next t ∧
      t = { setBox s .pf (fun m => { m with
              noticeHead := BitVec.ofNat 32 v, heldNotices := [], ring := mput m.ring (m.noticeTail.toNat % 16) n
              noticeTail := m.noticeTail + 1 }) with outs := t.outs })

/-- CRC_START, CRC_FEED8, CRC_FEED16 and CRC_FEED32 (R354 to R356, R361): belfry lane 1. -/
def Obligations.CrcLaneOne : Prop :=
  (∀ (w : Bool) (v : Nat) (s : State), operating s = true → v < 2 ^ 64 → v.testBit 8 = true →
    ∃ t, exec (.crcStart { fn := 0, off := 0xF0000, data := leBytes 8 v, window := w }) s = .next t ∧
      t = { s with crc := { s.crc with
        alg := BitVec.ofNat 2 v, fold := v.testBit 2, ctx := CrcCtx.init (v % 4) (v.testBit 2) s.crc.seed, count := 0
        bad := false } }) ∧
  (∀ (w : Bool) (v : Nat) (s : State), operating s = true → v < 2 ^ 64 → v.testBit 8 = false →
    exec (.crcStart { fn := 0, off := 0xF0000, data := leBytes 8 v, window := w }) s =
      .next { s with crc := { s.crc with alg := BitVec.ofNat 2 v, fold := v.testBit 2 } }) ∧
  (∀ (w : Bool) (v : Nat) (s : State), operating s = true → v < 2 ^ 64 → s.crc.count + 4 < 2 ^ 32 →
    exec (.crcFeed8 { fn := 0, off := 0xF0010, data := leBytes 8 v, window := w }) s =
      .next { s with crc := { s.crc with ctx := s.crc.ctx.feed [BitVec.ofNat 8 v], count := s.crc.count + 1 } } ∧
    exec (.crcFeed16 { fn := 0, off := 0xF0018, data := leBytes 8 v, window := w }) s =
      .next { s with crc := { s.crc with
        ctx := s.crc.ctx.feed [BitVec.ofNat 8 v, BitVec.ofNat 8 (v / 256)], count := s.crc.count + 2 } } ∧
    exec (.crcFeed32 { fn := 0, off := 0xF0020, data := leBytes 8 v, window := w }) s =
      .next { s with crc := { s.crc with
        ctx := s.crc.ctx.feed [BitVec.ofNat 8 v, BitVec.ofNat 8 (v / 256), BitVec.ofNat 8 (v / 65536),
          BitVec.ofNat 8 (v / 16777216)]
        count := s.crc.count + 4 } }) ∧
  (∀ (alg : Nat) (x y : Word), CrcCtx.init alg false x = CrcCtx.init alg false y ∧
    CrcCtx.init alg true x = { (CrcCtx.init alg false 0).feed (leBytes 8 x.toNat) with fold := true })

/-- The result of a check value (R356): the remainder after reflection and the output XOR, with nothing above the algorithm's
width; reading it, in the belfry lane's register or by QCRC, leaves the context as it was, and feeding goes on from there. A
parity error has been met in neither (R363). -/
def Obligations.CrcResults : Prop :=
  (∀ c : CrcCtx, c.rem.toNat < 2 ^ crcWidth c.alg → c.value.toNat < 2 ^ crcWidth c.alg ∧
    c.value.toNat =
      (if crcReflect c.alg then bitRev (crcWidth c.alg) c.rem.toNat else c.rem.toNat) ^^^ crcXor c.alg) ∧
  (∀ (c : CrcCtx) (l : List Byte), c.rem.toNat < 2 ^ crcWidth c.alg →
    (c.feed l).rem.toNat < 2 ^ crcWidth (c.feed l).alg) ∧
  (∀ (w : Bool) (s : State), operating s = true → s.crc.bad = false →
    exec (.rcFieldRead { fn := 0, off := 0xF0028, size := 8, window := w }) s =
      .next { s with outs := .readData 0 (leBytes 8 s.crc.ctx.value.toNat) :: s.outs }) ∧
  (∀ (u : LRef) (a : Word) (r : Running) (s : State), Runs s u r → r.l.clocks ≤ 100000 →
    s.crcBad.contains (crcLaneU r.t.dome r.t.lane) = false →
    LanternTakes (.qcrcResult u a 4) s u r { r.l with rd := r.l.crcU.value }) ∧
  (∀ (c : CrcCtx) (l m : List Byte), (c.feed l).feed m = c.feed (l ++ m))

/-! ### The bell and the carillon -/

/-- PPS_EDGE, TIME_PORT_LOCK, TIME_PORT_UNLOCK, PPS_TIMEOUT and HOLDOVER_TIMEOUT (R65, R66, R74, R80): which event moves the
bell between its states. A step of the bell to the time port's second happens only out of `FREERUN`, and starts the window of
the guarantees in which the bell then stands (log 61). -/
def Obligations.BellStates : Prop :=
  (∀ (tod : BitVec 48) (s : State), alive s = true → s.pins.ptpTai = true → s.pins.ptpLocked = true → tod.toNat ≤ todMax →
    s.bell.state = .freerun →
    ∃ t b, exec (.ppsEdge tod) s = .next t ∧ t = windowStart { s with bell := b, pins := { s.pins with ptpPps := true } } ∧
      t.bell = b ∧ b.state = .acquiring ∧
      b.ns.toNat = (tod.toNat * 1000000000 + 1000) % 2 ^ 64 ∧ b.fine = 0 ∧ b.rate = s.bell.rate ∧ b.good = 0) ∧
  (∀ (tod : BitVec 48) (s : State), alive s = true → s.pins.ptpTai = true → s.pins.ptpLocked = true → tod.toNat ≤ todMax →
    s.bell.state = .acquiring → (phaseError s tod).natAbs ≤ 24 →
    ∃ t, exec (.ppsEdge tod) s = .next t ∧ t = { s with bell := t.bell, pins := { s.pins with ptpPps := true } } ∧
      t.bell.ns = s.bell.ns ∧
      (s.bell.good < 3 → t.bell.state = .acquiring ∧ t.bell.good = s.bell.good + 1) ∧
      (3 ≤ s.bell.good → t.bell.state = .locked ∧ t.bell.everLocked = true ∧ t.bell.alignLost = false ∧
        t.bell.lockCount = satAdd s.bell.lockCount 1)) ∧
  (∀ (tod : BitVec 48) (s : State), alive s = true → s.pins.ptpTai = true → s.pins.ptpLocked = true → tod.toNat ≤ todMax →
    s.bell.state = .acquiring → 24 < (phaseError s tod).natAbs →
    ∃ t, exec (.ppsEdge tod) s = .next t ∧ t = { s with bell := t.bell, pins := { s.pins with ptpPps := true } } ∧
      t.bell.state = .acquiring ∧ t.bell.good = 0) ∧
  (∀ (tod : BitVec 48) (s : State), alive s = true → s.pins.ptpTai = true → s.pins.ptpLocked = true → tod.toNat ≤ todMax →
    s.bell.state = .locked →
    ∃ t, exec (.ppsEdge tod) s = .next t ∧ t = { s with bell := t.bell, pins := { s.pins with ptpPps := true } } ∧
      t.bell.ns = s.bell.ns ∧
      ((phaseError s tod).natAbs ≤ 64 → t.bell.state = .locked ∧ t.bell.bad = 0) ∧
      (64 < (phaseError s tod).natAbs → s.bell.bad = 0 → t.bell.state = .locked ∧ t.bell.bad = 1) ∧
      (64 < (phaseError s tod).natAbs → 1 ≤ s.bell.bad → t.bell.state = .acquiring)) ∧
  (∀ (tod : BitVec 48) (s : State), alive s = true →
    (s.pins.ptpTai = false ∨ s.pins.ptpLocked = false ∨ todMax < tod.toNat) →
    ∃ t, exec (.ppsEdge tod) s = .next t ∧ t = { s with bell := t.bell, pins := { s.pins with ptpPps := true } } ∧
      t.bell.ns = s.bell.ns ∧
      t.bell.rate = s.bell.rate ∧
      (s.bell.state = .locked ∨ s.bell.state = .acquiring → t.bell.state = .holdover) ∧
      (s.bell.state = .freerun → t.bell.state = .freerun) ∧ (s.bell.state = .holdover → t.bell.state = .holdover)) ∧
  (∀ (tod : BitVec 48) (s : State), s.pins.powered = true →
    ∃ t, exec (.timePortUnlock false false tod) s = .next t ∧
      t = { s with pins := { s.pins with ptpTai := false, ptpLocked := false }, bell := t.bell } ∧
      t.bell.ns = s.bell.ns ∧ t.bell.rate = s.bell.rate ∧
      (s.bell.state = .locked ∨ s.bell.state = .acquiring → t.bell.state = .holdover) ∧
      (s.bell.state = .freerun ∨ s.bell.state = .holdover → t.bell.state = s.bell.state)) ∧
  (∀ (tod : BitVec 48) (s : State), s.pins.powered = true → tod.toNat ≤ todMax →
    ∃ t, exec (.timePortLock tod) s = .next t ∧
      t = { s with pins := { s.pins with ptpTai := true, ptpLocked := true }, bell := t.bell } ∧ t.bell.ns = s.bell.ns ∧
      (s.bell.ppsSeen = true → s.bell.state = .holdover → t.bell.state = .acquiring) ∧
      (s.bell.ppsSeen = true ∨ s.bell.state = .freerun → s.bell.state ≠ .holdover → t.bell.state = s.bell.state) ∧
      (s.bell.ppsSeen = false → s.bell.state ≠ .freerun → t.bell.state = .holdover)) ∧
  (∀ (tod : BitVec 48) (s : State), exec (.timePortUnlock true true tod) s = exec (.timePortLock tod) s) ∧
  (∀ s : State, alive s = true →
    ∃ t, exec .ppsTimeout s = .next t ∧ t = { s with bell := t.bell } ∧ t.bell.ppsSeen = false ∧
      t.bell.ns = s.bell.ns ∧ t.bell.rate = s.bell.rate ∧
      (s.bell.state = .locked ∨ s.bell.state = .acquiring → t.bell.state = .holdover)) ∧
  (∀ s : State, alive s = true → s.bell.state = .holdover → Clear 3 s →
    ∃ t, exec .holdoverTimeout s = .next t ∧
      t = { s with bell := { s.bell with alignLost := true }, faults := t.faults, outs := t.outs } ∧
      Recorded 3 0x0300 .corrected 0 s t) ∧
  (∀ s : State, alive s = true → s.bell.state ≠ .holdover → exec .holdoverTimeout s = .next s)

/-- CARILLON_STAGE, CARILLON_ARM, CARILLON_DISARM, CARILLON_SWITCHOVER, EGRESS_HOLD_END, GUARANTEE_WINDOW_END and TABLE_ECC
(R53, R54, R89, R91 to R94, R102, R103, R488): a chunk is staged; a complete valid table may be armed at a time at least 8
frames ahead, at a locked bell, when every egress scheduler takes the time, and taken back in time; it becomes the live
table at that time. A window that has ended is tested against each slot's guarantee and its own waiting work, but for one in
which a table became live. -/
def Obligations.CarillonSchedule : Prop :=
  (∀ (b : Box) (r : Req) (s : State), accepted 0x0200 kStage b r s = true → s.car.armed = false →
    fld r.payload 0 2 ≠ 0 → fld r.payload 0 2 ≠ s.car.live.gen → fld r.payload 2 1 ≤ 15 →
    (stageChunk s.car.staged (fld r.payload 0 2) (fld r.payload 2 1) (r.payload.drop 8)).chunks.length < 16 →
    exec (.carillonStage b r) s = .next (answer b 0x0200 r.seq r.defId stOk [] (moveServed { s with
      car := { s.car with
        staged := some (stageChunk s.car.staged (fld r.payload 0 2) (fld r.payload 2 1) (r.payload.drop 8))
        complete := false } }))) ∧
  (∀ (b : Box) (r : Req) (s : State), accepted 0x0200 kStage b r s = true → s.car.armed = true →
    exec (.carillonStage b r) s = .next (answer b 0x0200 r.seq r.defId stCarillonArmed [] (moveServed s))) ∧
  (∀ (b : Box) (r : Req) (s : State), accepted 0x0201 kArm b r s = true → fld r.payload 8 8 ≠ 0 →
    tooClose s = false → timeLocked s = true → s.car.complete = true →
    (∃ x, s.car.staged = some x ∧ x.gen = fld r.payload 0 2) → fld r.payload 8 8 % 131072 = 0 →
    fld r.payload 8 8 ≤ now s + 60000000000 → now s + 1048576 ≤ fld r.payload 8 8 → stagedGivesAll s = true →
    ∃ u, exec (.carillonArm b r 255) s =
        .next (answer b 0x0201 r.seq r.defId stOk (leBytes 8 (fld r.payload 8 8)) (moveServed u)) ∧
      u = { s with
        car := { s.car with
          armed := true, armTime := BitVec.ofNat 64 (fld r.payload 8 8), refused := false
          schedTime := some (BitVec.ofNat 64 (fld r.payload 8 8)) }
        outs := u.outs }) ∧
  (∀ (b : Box) (r : Req) (a : BitVec 8) (s : State), accepted 0x0201 kArm b r s = true → fld r.payload 8 8 ≠ 0 →
    tooClose s = false → timeLocked s = false →
    exec (.carillonArm b r a) s = .next (answer b 0x0201 r.seq r.defId stTimeUnlocked [] (moveServed { s with
      car := { s.car with refused := true } }))) ∧
  (∀ (b : Box) (r : Req) (s : State), accepted 0x0201 kArm b r s = true → fld r.payload 8 8 = 0 → s.car.armed = true →
    now s + 1048576 ≤ s.car.armTime.toNat →
    ∃ u, exec (.carillonDisarm b r) s = .next (answer b 0x0201 r.seq r.defId stOk (leBytes 8 0) (moveServed u)) ∧
      u = { s with car := { s.car with armed := false, armTime := 0, refused := false, schedTime := none }
                   outs := u.outs }) ∧
  (∀ (b : Box) (r : Req) (s : State), accepted 0x0201 kArm b r s = true → fld r.payload 8 8 = 0 → s.car.armed = true →
    s.car.armTime.toNat < now s + 1048576 →
    exec (.carillonDisarm b r) s = .next (answer b 0x0201 r.seq r.defId stArmTooLate [] (moveServed { s with
      car := { s.car with refused := true } }))) ∧
  (∀ (x : Table) (s : State), operating s = true → s.car.armed = true → s.car.staged = some x →
    s.car.armTime.toNat ≤ now s →
    ∃ t, exec .carillonSwitchover s = .next t ∧ t = { s with car := t.car, defs := t.defs } ∧ t.car.live = x ∧
      t.car.staged = none ∧ t.car.complete = false ∧ t.car.armed = false ∧ t.car.armTime = 0 ∧
      t.car.switchedIn = some (s.car.armTime.toNat / 1048576) ∧ t.car.holdUntil = s.car.armTime.toNat + 128 ∧
      t.car.hold = changedGates s.car.live x ∧
      t.defs.map (fun p => (p.1, { p.2 with updateSeq := 0, updatedAt := 0 })) =
        s.defs.map (fun p => (p.1, { p.2 with updateSeq := 0, updatedAt := 0 }))) ∧
  (∀ s : State, operating s = true → (s.car.armed = false ∨ now s < s.car.armTime.toNat) →
    exec .carillonSwitchover s = .next s) ∧
  (∀ s : State, operating s = true → now s < s.car.holdUntil → exec .egressHoldEnd s = .next s) ∧
  (∀ s : State, operating s = true → s.car.holdUntil ≤ now s → s.car.heldFrames = [] →
    exec .egressHoldEnd s = .next { s with car := { s.car with hold := [], heldFrames := [] } }) ∧
  (∀ (w : List (Nat × Nat)) (s : State), operating s = true → windowDue s = false →
    exec (.guaranteeWindowEnd w) s = .next s) ∧
  (∀ (w : List (Nat × Nat)) (s : State), operating s = true → windowDue s = true →
    ∃ t, exec (.guaranteeWindowEnd w) s = .next t ∧
      t = { s with
        car := { s.car with switchedIn := t.car.switchedIn, window := now s / 1048576 }
        slots := t.slots, fns := t.fns, faults := t.faults, outs := t.outs } ∧
      (s.car.switchedIn ≠ some (now s / 1048576) → t.car.switchedIn = none) ∧
      (s.car.switchedIn = some s.car.window → t = windowStart s) ∧
      (∀ p ∈ t.slots, p.2.served = [] ∧ p.2.energy = 0 ∧ p.2.held = false ∧ p.2.slack = []) ∧
      (∀ (slot res id : Nat) (d : Def), s.car.switchedIn ≠ some s.car.window → slot < 64 → res < 29 →
        inSlot s slot = some (id, d) →
        (wasBacklogged s slot res || hostWaited w s slot res) = true → isMiss s d slot res = true →
        (getSlot t slot).miss.bits.getLsbD (missBit res) = true)) ∧
  (∀ (i : Nat) (s : State), alive s = true → s.car.tableEcc = 0 → Clear 4 s →
    ∃ t, exec (.tableEcc true i) s = .next t ∧
      t = { s with car := { s.car with live := { s.car.live with empties := insNat i s.car.live.empties } }
                   defs := t.defs, faults := t.faults, outs := t.outs } ∧
      t.defs.map (fun p => (p.1, { p.2 with updateSeq := 0, updatedAt := 0 })) =
        s.defs.map (fun p => (p.1, { p.2 with updateSeq := 0, updatedAt := 0 })) ∧
      Recorded 4 0x0400 .corrected (BitVec.ofNat 64 i) s t ∧
      (∀ res, ownerAt t.car.live i res = ownerEmpty)) ∧
  (∀ (i : Nat) (s : State), alive s = true → s.flt.safe = false → s.car.tableEcc = 2 →
    ∃ t, exec (.tableEcc true i) s = .next t ∧ t.flt.safe = true ∧ t.flt.firstCode = 0x0400)

/-! ### Partitions -/

/-- PART_DEFINE (R107, R108, R110, R393, R488): the next serial number, the lowest free chunks and QP numbers (log 12), key
version 1, its TENANT node, and everything else as a new definition has it. While the entropy source fails the derivation,
and with it the answer, waits. -/
def Obligations.DefineMessage : Prop :=
  (∀ (b : Box) (r : Req) (s : State), accepted 0x0100 kPartDefine b r s = true → getDef s r.defId = none →
    grantOk (parseGrant r.payload) = true →
    sumGrants s (·.memGib) + (parseGrant r.payload).memGib ≤ poolChunks s →
    (firstFree (chunkFree s) (poolChunks s) 0 (parseGrant r.payload).memGib).length = (parseGrant r.payload).memGib →
    objectsOk s none (some (parseGrant r.payload)) = true → s.keep.defSerial ≠ 4294967295 → s.keep.entropyOk = true →
    ∃ t d, Answers (.partDefine b r) 0x0100 b r stOk [] s t ∧
      t = { s with keep := { s.keep with defSerial := s.keep.defSerial + 1 }, defs := mput s.defs r.defId d } ∧
      d.grant = parseGrant r.payload ∧ d.state = .defined ∧ d.slot = none ∧ d.scrubbed = true ∧ d.keyVersion = 1 ∧
      d.serial = s.keep.defSerial + 1 ∧ d.tenant = tenantKey s d.grant d.serial ∧ d.chunks.length = d.grant.memGib ∧
      (∀ c ∈ d.chunks, chunkFree s c = true) ∧
      d.mem = [] ∧ d.rings = [] ∧ d.cpls = [] ∧ d.fences = [] ∧ d.linkKeys = [] ∧ d.ptBase = none ∧ d.updateSeq = 2 ∧
      d.updatedAt = s.bell.ns ∧ (∀ q ∈ d.qps, q.2.state = .reset ∧ q.2.sq = none ∧ q.2.rq = none)) ∧
  (∀ (b : Box) (r : Req) (s : State), accepted 0x0100 kPartDefine b r s = true →
    ((getDef s r.defId).isSome = true → Refuses (.partDefine b r) 0x0100 b r stWrongState s) ∧
    (getDef s r.defId = none → grantOk (parseGrant r.payload) = false →
      Refuses (.partDefine b r) 0x0100 b r stMalformed s) ∧
    (getDef s r.defId = none → grantOk (parseGrant r.payload) = true →
      poolChunks s < sumGrants s (·.memGib) + (parseGrant r.payload).memGib →
      Refuses (.partDefine b r) 0x0100 b r stMemoryExhausted s)) ∧
  (∀ (b : Box) (r : Req) (s : State), accepted 0x0100 kPartDefine b r s = true → getDef s r.defId = none →
    grantOk (parseGrant r.payload) = true →
    sumGrants s (·.memGib) + (parseGrant r.payload).memGib ≤ poolChunks s →
    (firstFree (chunkFree s) (poolChunks s) 0 (parseGrant r.payload).memGib).length = (parseGrant r.payload).memGib →
    objectsOk s none (some (parseGrant r.payload)) = true → s.keep.defSerial ≠ 4294967295 → s.keep.entropyOk = false →
    ∃ t, exec (.partDefine b r) s = .next t ∧ (getBox t b).reqPending = true ∧ t.defs = s.defs ∧
      t.keep = { s.keep with waits := s.keep.waits ++ [(0x0100, b, r, true)] } ∧
      t.belfry.backlog.length = s.belfry.backlog.length + 1)

/-- PART_DEFINE in a block with no definition makes one that holds no slot (R107). PART_LOAD (R112, R119, R125, R394): the
slot, its new load generation, the key entry, the link keys unsealed and the function's fresh views; the lowest free slot
for 0xFF; and the first refusals of R112's table. PART_UNLOAD (R114, R119, R151, R394, R406): the definition leaves its
slot, its persistent share and its cached QPs written to its save area, from which the next PART_LOAD takes them (log 63),
its link keys sealed, a bind ended and frames that wait for a context of it dropped; a running one is refused, and a busy
control page makes the answer wait. -/
def Obligations.LoadAndUnload : Prop :=
  (∀ (b : Box) (r : Req) (agree : Bool) (d : Def) (slot : Nat) (s : State), accepted 0x0101 kPartLoad b r s = true →
    getDef s r.defId = some d → d.state = .defined → d.spent = false → d.rotation = none →
    (fld r.payload 0 1 < 64 ∨ fld r.payload 0 1 = 0xFF) → loadSlot s (fld r.payload 0 1) = some slot →
    (∀ p ∈ residents s r.defId, boundFn p.2 ≠ boundFn d) → (requestsAny d.grant = true → s.bell.everLocked = true) →
    resourcesOk s r.defId d.grant = true → tablesGive s d.grant slot = true → s.keep.entropyOk = true →
    inSlot s slot = none ∧ (fld r.payload 0 1 = 0xFF → ∀ j, j < slot → (inSlot s j).isSome = true) ∧
    ∃ t, Answers (.partLoad b r agree) 0x0101 b r stOk (leBytes 1 slot ++ List.replicate 7 0) s t ∧
      t = { s with defs := t.defs, slots := t.slots, fns := t.fns
                   keep := { s.keep with loadSeen := true, confLock := s.keep.confLock || d.grant.confidential } } ∧
      getDef t r.defId = some { d with
        slot := some slot, state := .resident, persist := savedShare d, linkKeys := unsealLinks d
        updateSeq := d.updateSeq + 2, updatedAt := s.bell.ns } ∧
      OthersKept r.defId s t ∧
      getSlot t slot = { getSlot s slot with
        loadGen := (getSlot s slot).loadGen + 1, genAt := now s, miss := Miss.reset
        served := [(0, restoreBytes d)], prevMem := 0, frameAt := [], energy := 0, energy100 := 0, held := false, rtt := 20000
        powerNow := 0, keyCurrent := some (memKey d d.keyVersion), keyNext := none
        qpCached := (savedCached d).take d.grant.qpCache, slack := List.range 29, windows := d.qps.map (fun p => p.2.phys)
        lanes := grantLanes s slot d.grant } ∧
      (∀ j, j ≠ slot → getSlot t j = getSlot s j) ∧
      getFn t (boundFn d) = { getFn s (boundFn d) with
        fv := FaultBlock.reset, miss := Miss.reset, mbox := { (getFn s (boundFn d)).mbox with session := none } } ∧
      (∀ f, f ≠ boundFn d → getFn t f = getFn s f)) ∧
  (∀ (b : Box) (r : Req) (agree : Bool) (d : Def) (s : State), accepted 0x0101 kPartLoad b r s = true →
    getDef s r.defId = some d →
    (d.state ≠ .defined → Refuses (.partLoad b r agree) 0x0101 b r stWrongState s) ∧
    (d.state = .defined → d.spent = false → 64 ≤ fld r.payload 0 1 → fld r.payload 0 1 ≠ 0xFF →
      Refuses (.partLoad b r agree) 0x0101 b r stMalformed s) ∧
    (d.state = .defined → d.spent = false → fld r.payload 0 1 < 64 → (inSlot s (fld r.payload 0 1)).isSome = true →
      Refuses (.partLoad b r agree) 0x0101 b r stSlotBusy s)) ∧
  (∀ (b : Box) (r : Req) (d : Def) (sl : Nat) (s : State), accepted 0x0102 kPartUnload b r s = true →
    getDef s r.defId = some d → d.slot = some sl → (d.state = .resident ∨ d.state = .quiesced ∨ d.state = .faulted) →
    (getFn s (boundFn d)).busy = false → d.bind = none →
    ∃ t, Answers (.partUnload b r) 0x0102 b r stOk [] s t ∧
      t = { s with defs := t.defs, slots := t.slots, fns := t.fns, xpt := t.xpt } ∧
      (∀ p ∈ t.xpt.waitingFrames, p ∈ s.xpt.waitingFrames ∧ ∀ q ∈ d.qps, q.2.phys ≠ fDst p.1) ∧
      (∃ d', getDef t r.defId = some d' ∧
        d' = { d with
          state := .defined, slot := none, persist := [], rotation := d.rotation.map settledWalk, linkKeys := sealLinks d
          mem := writeBytes (saveShare (if d.state = .faulted then { d with persist := [] } else d)) (cachedOffset d.grant)
            (cachedBytes (getSlot s sl).qpCached)
          updateSeq := d.updateSeq + 2, updatedAt := s.bell.ns }) ∧
      OthersKept r.defId s t ∧
      (getSlot t sl).loadGen = (getSlot s sl).loadGen + 1 ∧ (getSlot t sl).keyCurrent = none ∧
      (getSlot t sl).keyNext = none ∧ (getSlot t sl).miss = (getSlot s sl).miss ∧ (getSlot t sl).windows = [] ∧
      (getSlot t sl).lanes = [] ∧
      (∀ j, j ≠ sl → getSlot t j = getSlot s j) ∧
      getFn t (boundFn d) = { getFn s (boundFn d) with
        tdi := if (getFn s (boundFn d)).tdi = .locked ∨ (getFn s (boundFn d)).tdi = .run then .error
          else (getFn s (boundFn d)).tdi
        mbox := { (getFn s (boundFn d)).mbox with session := none } } ∧
      (∀ f, f ≠ boundFn d → getFn t f = getFn s f)) ∧
  (∀ (b : Box) (r : Req) (d : Def) (sl : Nat) (bi : Bind) (s : State), accepted 0x0102 kPartUnload b r s = true →
    getDef s r.defId = some d → d.slot = some sl → (d.state = .resident ∨ d.state = .quiesced ∨ d.state = .faulted) →
    (getFn s (boundFn d)).busy = false → d.bind = some bi →
    ∃ t d', exec (.partUnload b r) s = .next t ∧ getDef t r.defId = some d' ∧ d'.state = .defined ∧ d'.slot = none ∧
      d'.bind = none ∧ d'.linkKeys = sealLinks d ∧ OthersKept r.defId s t ∧ t.host = s.host) ∧
  (∀ (b : Box) (r : Req) (d : Def) (s : State), accepted 0x0102 kPartUnload b r s = true → getDef s r.defId = some d →
    d.state = .running → Refuses (.partUnload b r) 0x0102 b r stNotQuiesced s) ∧
  (∀ (b : Box) (r : Req) (d : Def) (s : State), accepted 0x0102 kPartUnload b r s = true → getDef s r.defId = some d →
    (d.state = .resident ∨ d.state = .quiesced ∨ d.state = .faulted) → (getFn s (boundFn d)).busy = true →
    ∃ t, exec (.partUnload b r) s = .next t ∧ (getBox t b).reqPending = true ∧ t.defs = s.defs ∧ t.slots = s.slots ∧
      t.belfry.backlog.length = s.belfry.backlog.length + 1 ∧ (getFn t (boundFn d)).unload = some (b, r)) ∧
  (∀ (b : Box) (r : Req) (g : Grant) (s : State), accepted 0x0100 kPartDefine b r s = true → g = parseGrant r.payload →
    getDef s r.defId = none → s.defs = [] → s.vault.scrubChunks = [] → s.keep.defSerial ≠ 4294967295 →
    s.keep.entropyOk = true → grantOk g = true → g.memGib ≤ poolChunks s → objectsOk s none (some g) = true →
    ∃ t d, exec (.partDefine b r) s = .next t ∧ getDef t r.defId = some d ∧ OthersKept r.defId s t ∧ d.grant = g ∧
      d.state = .defined ∧ d.slot = none ∧ t.slots = s.slots ∧ t.host = s.host)

/-- PART_QUIESCE, QUIESCE_COMPLETE, DRAIN_LIMIT_EXPIRY and PREEMPT_WAIT_EXPIRY (R113, R176, R177): a resident definition is
quiesced at once; a running one begins, its answer waits, and it ends once its tiles stand still, with each ring's record
in its save area and the completions decided written as far as their rings have room. -/
def Obligations.Quiescing : Prop :=
  (∀ (b : Box) (r : Req) (d : Def) (s : State), accepted 0x0104 kPartQuiesce b r s = true → getDef s r.defId = some d →
    d.spent = false → fld r.payload 0 1 ≤ 1 → fld r.payload 4 4 ≤ 100000 → d.state = .resident → d.bind = none →
    ∃ t, Answers (.partQuiesce b r) 0x0104 b r stOk [] s t ∧ t = { s with defs := t.defs } ∧
      getDef t r.defId = some { d with state := .quiesced, updateSeq := d.updateSeq + 2, updatedAt := s.bell.ns } ∧
      OthersKept r.defId s t) ∧
  (∀ (b : Box) (r : Req) (d : Def) (s : State), accepted 0x0104 kPartQuiesce b r s = true → getDef s r.defId = some d →
    d.spent = false → fld r.payload 0 1 ≤ 1 → fld r.payload 4 4 ≤ 100000 → d.state = .running → d.serving = [] →
    ∃ t, exec (.partQuiesce b r) s = .next t ∧ (getBox t b).reqPending = true ∧
      t.belfry.backlog.length = s.belfry.backlog.length + 1 ∧ t.host = s.host ∧ t.slots = s.slots ∧
      (∃ d', getDef t r.defId = some d' ∧ d'.state = .quiescing ∧ d'.bind = none ∧ d'.mem = d.mem ∧ d'.cpls = d.cpls ∧
        d'.qps = d.qps ∧ d'.slot = d.slot ∧
        d'.quiesce = some { flush := decide (fld r.payload 0 1 = 1)
                            drainLimit := if fld r.payload 4 4 = 0 then 10000 else fld r.payload 4 4
                            tails := queueTails d, answer := some (b, r), thenReset := false, lapse := false, flr := false }) ∧
      OthersKept r.defId s t) ∧
  (∀ (b : Box) (r : Req) (d : Def) (s : State), accepted 0x0104 kPartQuiesce b r s = true → getDef s r.defId = some d →
    d.spent = false → (1 < fld r.payload 0 1 ∨ 100000 < fld r.payload 4 4) →
    Refuses (.partQuiesce b r) 0x0104 b r stMalformed s) ∧
  (∀ (b : Box) (r : Req) (d : Def) (s : State), accepted 0x0104 kPartQuiesce b r s = true → getDef s r.defId = some d →
    d.spent = false → fld r.payload 0 1 ≤ 1 → fld r.payload 4 4 ≤ 100000 →
    (d.state = .defined ∨ d.state = .quiescing ∨ d.state = .quiesced ∨ d.state = .scrubbing ∨ d.state = .faulted) →
    Refuses (.partQuiesce b r) 0x0104 b r stWrongState s) ∧
  (∀ (id : Nat) (d : Def) (q : Quiesce) (s : State), operating s = true → getDef s id = some d → d.quiesce = some q →
    d.state = .quiescing → tilesStill d = true → (q.flush = true ∨ ∀ p ∈ d.qps, qpBusy d p.1 p.2 = false) →
    (∀ p ∈ d.qps, p.2.inbound = []) → (getFn s (boundFn d)).waitOp = none →
    ∃ t, exec (.quiesceComplete id) s = .next t ∧ t.flt = s.flt ∧ t.bell = s.bell ∧ OthersKept id s t ∧
      (∃ d', getDef t id = some d' ∧ d'.quiesce = none ∧ d'.grant = d.grant ∧ d'.slot = d.slot ∧
        (q.thenReset = false → q.flr = false → d'.state = .quiesced ∧
          (∀ i, i ∈ d'.saved ↔ i ∈ d.saved ∨ i ∈ d.rings.map (·.1)) ∧
          (∀ (ring : Nat) (r : CmdRing), d.rings = [(ring, r)] → d'.mem =
            writeBytes d.mem (recordOffset d.grant ring) (saveRecOf s d ring r).bytes ∧
            (q.flush = false → (∀ p ∈ d.cpls, p.2.waiting = []) → t.host = s.host))) ∧
        (q.thenReset = true ∨ q.flr = true → d'.state = .resident ∧ d'.saved = [] ∧ d'.persist = []) ∧
        (q.flr = true → d'.rings = [] ∧ d'.cpls = [] ∧ d'.fences = [] ∧ d'.ptBase = none))) ∧
  (∀ (id : Nat) (d : Def) (q : Quiesce) (s : State), operating s = true → getDef s id = some d → d.quiesce = some q →
    (d.state ≠ .quiescing ∨ tilesStill d = false) → exec (.quiesceComplete id) s = .next s) ∧
  (∀ (id : Nat) (d : Def) (q : Quiesce) (s : State), operating s = true → getDef s id = some d → d.quiesce = some q →
    d.state = .quiescing → q.flush = false →
    ∃ t, exec (.drainLimitExpiry id) s = .next t ∧ OthersKept id s t ∧
      (∃ d', getDef t id = some d' ∧ d'.quiesce = some { q with flush := true } ∧ d'.state = .quiescing ∧
        d'.rings = d.rings ∧ d'.mem = d.mem ∧ (∀ i q0 q', mfind d.qps i = some q0 → qpBusy d i q0 = true →
          mfind d'.qps i = some q' → q'.state = .error ∧ q'.msgs = [] ∧ q'.recvs = [] ∧
          (∀ x, q'.sq = some x → x.head = x.tail) ∧ (∀ x, q'.rq = some x → x.head = x.tail)))) ∧
  (∀ (slot ring tile id : Nat) (d : Def) (r : CmdRing) (c : Cmd) (x : Tile) (s : State), operating s = true →
    inSlot s slot = some (id, d) → getDef s id = some d → d.state = .quiescing → d.rings = [(ring, r)] →
    r.state = .active → r.cur = some c → c.began = true → c.failed = none → r.fall = none → c.tile tile = some x →
    x.state = .remoteWait → (∀ f ∈ s.frags, f.2.slot = slot → f.2.ring = ring) →
    ∃ t r' c', exec (.preemptWaitExpiry slot ring tile) s = .next t ∧ getRing t id ring = some r' ∧ r'.cur = some c' ∧
      r'.fragEpoch = r.fragEpoch + 1 ∧ c'.tile tile = some { x with
        state := .dropped, acc := [], loc := [], replies := 0, asked := [] } ∧ (∀ f ∈ t.frags, f.2.slot ≠ slot))

/-- PART_RESUME and PART_RESET (R111, R115, R126, R179): a ring goes on from its record in the save area, whose reading is
charged to the slot; a confidential definition runs only behind a running TDI; and a reset discards what was saved, faults
the jobs that had started and advances the load generation. -/
def Obligations.ResumeAndReset : Prop :=
  (∀ (b : Box) (r : Req) (d : Def) (s : State), accepted 0x0105 kPartResume b r s = true → getDef s r.defId = some d →
    d.spent = false → (d.state = .resident ∨ d.state = .quiesced) →
    (d.grant.confidential = true → (getFn s (boundFn d)).tdi = .run) →
    (∀ k, k < 16 → bit d.grant.domeMask k = true → s.domes.fenced.getLsbD k = false) →
    ∃ t, Answers (.partResume b r) 0x0105 b r stOk [] s t ∧ t = { s with defs := t.defs, slots := t.slots } ∧
      Charged d.slot s t ∧
      (∃ d', getDef t r.defId = some d' ∧ d' = { d with
        state := .running, scrubbed := false, saved := []
        rings := d.rings.map (fun p => (p.1, if d.saved.contains p.1 then resumeRing (savedRecord d p.1) p.2 else p.2))
        updateSeq := d.updateSeq + 2, updatedAt := s.bell.ns } ∧
        (∀ p ∈ d'.rings, d.saved.contains p.1 = true → ∀ c, p.2.cur = some c → ∀ x ∈ c.tiles,
          x.state = .ended ∨ x.state = .waiting)) ∧
      OthersKept r.defId s t) ∧
  (∀ (b : Box) (r : Req) (d : Def) (s : State), accepted 0x0105 kPartResume b r s = true → getDef s r.defId = some d →
    d.spent = false → (d.state = .resident ∨ d.state = .quiesced) → d.grant.confidential = true →
    (getFn s (boundFn d)).tdi ≠ .run → Refuses (.partResume b r) 0x0105 b r stAccessDenied s) ∧
  (∀ (b : Box) (r : Req) (d : Def) (sl : Nat) (s : State), accepted 0x0106 kPartReset b r s = true →
    getDef s r.defId = some d → d.slot = some sl → (d.state = .quiesced ∨ d.state = .faulted) →
    ∃ t, Answers (.partReset b r) 0x0106 b r stOk [] s t ∧ OthersKept r.defId s t ∧
      (∃ d', getDef t r.defId = some d' ∧ d'.state = .resident ∧ d'.slot = some sl ∧ d'.saved = [] ∧ d'.persist = [] ∧
        d'.grant = d.grant ∧ d'.keyVersion = d.keyVersion ∧ d'.bind = none ∧
        ((∀ p ∈ d.rings, p.2.cur = none) → d'.mem = d.mem) ∧
        (∀ i x, mfind d'.rings i = some x → x.cur = none ∧ x.nxt = none ∧ x.jobStarted = false) ∧
        ((∀ p ∈ d.rings, p.2.prior.getD p.2.jobStarted = false) → d'.jobsFaulted = d.jobsFaulted) ∧
        (∀ i x, d.rings = [(i, x)] → x.prior.getD x.jobStarted = true → d'.jobsFaulted = d.jobsFaulted + 1)) ∧
      (getSlot t sl).loadGen = (getSlot s sl).loadGen + 1) ∧
  (∀ (b : Box) (r : Req) (d : Def) (s : State), accepted 0x0106 kPartReset b r s = true → getDef s r.defId = some d →
    (d.state = .resident ∨ d.state = .running) → Refuses (.partReset b r) 0x0106 b r stNotQuiesced s)

/-- PART_SCRUB, SCRUB_COMPLETE, PART_DESTROY, RELEASED_CHUNK_SCRUB_DONE and CHUNK_INIT_DONE (R114, R117, R122, R124, R376,
R379, R437, R469): a scrub takes the next key version, so that no line written before it can be read again; the zeros that
initialise a chunk clear its poison. -/
def Obligations.ScrubAndDestroy : Prop :=
  (∀ (b : Box) (r : Req) (d : Def) (s : State), accepted 0x0107 kPartScrub b r s = true → getDef s r.defId = some d →
    (d.state = .defined ∨ d.state = .quiesced) → d.spent = false → d.keyVersion < 65535 → d.rotation = none →
    d.bind = none → s.keep.entropyOk = true →
    ∃ t, Answers (.partScrub b r) 0x0107 b r stOk [] s t ∧
      t = { s with defs := t.defs, slots := t.slots, xpt := t.xpt } ∧
      (∀ p ∈ t.xpt.waitingFrames, p ∈ s.xpt.waitingFrames ∧ ∀ q ∈ d.qps, q.2.phys ≠ fDst p.1) ∧
      getDef t r.defId = some { d with
        state := .scrubbing, scrubFault := false, scrubBox := b, scrubSeq := r.seq, mem := []
        persist := if d.slot.isSome then d.persist else [], scrubKey := d.keyVersion + 1, destroyed := d.keyVersion
        keyVersion := d.keyVersion + 1, background := some (memKey d (d.keyVersion + 1))
        linkKeys := if d.slot.isSome then d.linkKeys else []
        updateSeq := d.updateSeq + 2, updatedAt := s.bell.ns } ∧
      OthersKept r.defId s t ∧
      (∀ sl, d.slot = some sl → (getSlot t sl).keyCurrent = some (memKey d (d.keyVersion + 1)) ∧
        (getSlot t sl).keyNext = none)) ∧
  (∀ (b : Box) (r : Req) (d : Def) (s : State), accepted 0x0107 kPartScrub b r s = true → getDef s r.defId = some d →
    d.state = .running → Refuses (.partScrub b r) 0x0107 b r stNotQuiesced s) ∧
  (∀ (id : Nat) (d : Def) (s : State), operating s = true → getDef s id = some d → d.state = .scrubbing →
    ∃ t, exec (.scrubComplete id) s = .next t ∧
      t = { s with defs := t.defs, slots := t.slots, fns := t.fns, outs := t.outs, crc0 := t.crc0 } ∧
      (d.spent = false → t.slots = s.slots) ∧
      (d.scrubFault = true → d.slot ≠ none → (getFn t (boundFn d)).fv.src.getLsbD 2 = true) ∧
      getDef t id = some { d with
        state := if d.slot = none then .defined else if d.scrubFault then .faulted else .quiesced
        scrubbed := !d.scrubFault, scrubFault := false, background := none, poison := [], mem := [], uninit := [], early := []
        updateSeq := d.updateSeq + 2, updatedAt := s.bell.ns } ∧
      OthersKept id s t ∧ (getFn t 0).mbox.noticeCount = (getFn s 0).mbox.noticeCount + 1) ∧
  (∀ (b : Box) (r : Req) (d : Def) (s : State), accepted 0x0108 kPartDestroy b r s = true → getDef s r.defId = some d →
    d.state = .defined →
    (d.scrubbed = true → ∃ t, Answers (.partDestroy b r) 0x0108 b r stOk [] s t ∧
      t = { s with defs := mdrop s.defs r.defId, fns := t.fns } ∧ OthersKept r.defId s t) ∧
    (d.scrubbed = false → Refuses (.partDestroy b r) 0x0108 b r stNotScrubbed s)) ∧
  (∀ (b : Box) (r : Req) (d : Def) (s : State), accepted 0x0108 kPartDestroy b r s = true → getDef s r.defId = some d →
    d.state ≠ .defined → Refuses (.partDestroy b r) 0x0108 b r stWrongState s) ∧
  (∀ (c : Nat) (s : State), operating s = true →
    ∃ t, exec (.releasedChunkScrubDone c) s = .next t ∧
      t = { s with vault := { s.vault with scrubChunks := t.vault.scrubChunks } } ∧
      (∀ x, x ∈ t.vault.scrubChunks ↔ x ∈ s.vault.scrubChunks ∧ x ≠ c)) ∧
  (∀ (id k : Nat) (d : Def) (s : State), operating s = true → getDef s id = some d →
    (k ∈ d.uninit → ∃ t, exec (.chunkInitDone id k) s = .next t ∧ t = { s with defs := t.defs, slots := t.slots } ∧
      Charged d.slot s t ∧ OthersKept id s t ∧
      getDef t id = some { d with
        uninit := d.uninit.filter (· != k)
        poison := d.poison.filter (fun x => x * 64 / chunkBytes d.grant != k || d.early.contains (x / 1024))
        early := d.early.filter (fun p => p * 65536 / chunkBytes d.grant != k) }) ∧
    (k ∉ d.uninit → exec (.chunkInitDone id k) s = .next s))

/-- PART_RESIZE, DIRTYLOG_ENABLE and DIRTYLOG_HARVEST (R117, R129, R131). -/
def Obligations.ResizeAndDirtyLog : Prop :=
  (∀ (b : Box) (r : Req) (d : Def) (s : State), accepted 0x0103 kPartResize b r s = true → getDef s r.defId = some d →
    d.state ≠ .scrubbing → d.spent = false → resizeStateOk d (parseGrant r.payload) = true →
    resizeFixedOk d.grant (parseGrant r.payload) = true → grantOk (parseGrant r.payload) = true →
    resizeRule s r.defId d (parseGrant r.payload)
      (firstFree (chunkFree s) (poolChunks s) 0 ((parseGrant r.payload).memGib - d.grant.memGib)) = none →
    ∃ t d', Answers (.partResize b r) 0x0103 b r stOk [] s t ∧
      t = { s with defs := t.defs, slots := t.slots, vault := { s.vault with scrubChunks := t.vault.scrubChunks } } ∧
      (∀ k, some k ≠ d.slot → getSlot t k = getSlot s k) ∧
      (∀ k, d.slot = some k → getSlot t k = { getSlot s k with
        qpCached := (getSlot s k).qpCached.take d'.grant.qpCache, windows := d'.qps.map (fun p => p.2.phys)
        lanes := grantLanes s k d'.grant }) ∧
      getDef t r.defId = some d' ∧ OthersKept r.defId s t ∧
      d' = { d with
        grant := parseGrant r.payload, chunks := d'.chunks, uninit := d'.uninit, early := d'.early, mem := d'.mem, poison := d'.poison
        persist := d'.persist, qps := d'.qps, fences := d'.fences, linkKeys := d'.linkKeys, rotation := d'.rotation
        updateSeq := d.updateSeq + 2, updatedAt := s.bell.ns } ∧
      (d.grant.memGib < (parseGrant r.payload).memGib → t.vault.scrubChunks = s.vault.scrubChunks ∧
        d'.chunks = d.chunks ++
          firstFree (chunkFree s) (poolChunks s) 0 ((parseGrant r.payload).memGib - d.grant.memGib)) ∧
      (d.grant.memGib = (parseGrant r.payload).memGib → t.vault.scrubChunks = s.vault.scrubChunks ∧
        d'.chunks = d.chunks.take d.grant.memGib) ∧
      ((parseGrant r.payload).memGib < d.grant.memGib → d'.chunks = d.chunks.take (parseGrant r.payload).memGib ∧
        t.vault.scrubChunks = s.vault.scrubChunks ++ d.chunks.drop (parseGrant r.payload).memGib) ∧
      ((parseGrant r.payload).memGib = d.grant.memGib → memUsable (parseGrant r.payload) = memUsable d.grant →
        d'.mem = d.mem ∧ d'.poison = d.poison)) ∧
  (∀ (b : Box) (r : Req) (d : Def) (s : State), accepted 0x0103 kPartResize b r s = true → getDef s r.defId = some d →
    (d.state = .scrubbing → Refuses (.partResize b r) 0x0103 b r stWrongState s) ∧
    (d.state ≠ .scrubbing → d.spent = false → resizeStateOk d (parseGrant r.payload) = true →
      resizeFixedOk d.grant (parseGrant r.payload) = false → Refuses (.partResize b r) 0x0103 b r stMalformed s)) ∧
  (∀ (b : Box) (r : Req) (d : Def) (s : State), accepted 0x0400 kDirtyEnable b r s = true → (getBox s b).minor ≠ 0 →
    getDef s r.defId = some d → d.spent = false →
    (d.grant.confidential = true → Refuses (.dirtylogEnable b r) 0x0400 b r stAccessDenied s) ∧
    (d.grant.confidential = false → ∃ t, Answers (.dirtylogEnable b r) 0x0400 b r stOk [] s t ∧
      t = { s with defs := t.defs } ∧ OthersKept r.defId s t ∧
      getDef t r.defId = some { d with
        dirty := if fld r.payload 0 8 = 0 ∧ fld r.payload 8 8 = 0 then none
          else some { a := BitVec.ofNat 64 (fld r.payload 0 8), b := BitVec.ofNat 64 (fld r.payload 8 8), onB := false
                      bits := [] }
        updateSeq := d.updateSeq + 2, updatedAt := s.bell.ns })) ∧
  (∀ (b : Box) (r : Req) (d : Def) (l : DirtyLog) (s : State), accepted 0x0401 kDirtyHarvest b r s = true →
    (getBox s b).minor ≠ 0 → getDef s r.defId = some d → d.spent = false → d.dirty = some l →
    ∃ t, Answers (.dirtylogHarvest b r) 0x0401 b r stOk (leBytes 8 s.bell.ns.toNat ++ leBytes 8 l.bits.length) s t ∧
      t = { s with defs := t.defs } ∧ OthersKept r.defId s t ∧
      getDef t r.defId = some { d with dirty := some { l with onB := !l.onB, bits := [] } }) ∧
  (∀ (b : Box) (r : Req) (d : Def) (s : State), accepted 0x0401 kDirtyHarvest b r s = true → (getBox s b).minor ≠ 0 →
    getDef s r.defId = some d → d.spent = false → d.dirty = none →
    Refuses (.dirtylogHarvest b r) 0x0401 b r stWrongState s)

/-! ### The control page -/

/-- DB_RING (R136, R137, R138): a producer or consumer pointer moves, or the write is discarded and counted. -/
def Obligations.Doorbells : Prop :=
  (∀ (w : HostWrite) (slot : Option Nat) (o fn id i v : Nat) (d : Def) (r : CmdRing) (s : State), operating s = true →
    doorbellAt w.fn w.off = some (slot, o) → o % 4096 = 0 → pageTarget s w.fn slot w.window = some (fn, id, d) →
    getDef s id = some d → i < 65536 → v < 2 ^ 32 → w.data = leBytes 8 (i + v * 2 ^ 32) → mfind d.rings i = some r →
    (r.state = .active ∧ r.group = o / 4096 ∧ (BitVec.ofNat 32 v - r.tail).toNat ≤ 2 ^ r.log2 ∧
      (BitVec.ofNat 32 v - r.head).toNat ≤ 2 ^ r.log2 →
      ∃ t, exec (.dbRing w) s = .next t ∧ t = { s with defs := t.defs } ∧ OthersKept id s t ∧
        getRing t id i = some { r with tail := BitVec.ofNat 32 v }) ∧
    ((r.state ≠ .active ∨ r.group ≠ o / 4096 ∨ 2 ^ r.log2 < (BitVec.ofNat 32 v - r.tail).toNat ∨
        2 ^ r.log2 < (BitVec.ofNat 32 v - r.head).toNat) →
      exec (.dbRing w) s = .next (setFn s fn (fun f => { f with
        discards := mput f.discards (o / 4096) (satAdd ((mfind f.discards (o / 4096)).getD 0) 1) })))) ∧
  (∀ (w : HostWrite) (slot : Option Nat) (o fn id i v : Nat) (d : Def) (c : CplRing) (s : State), operating s = true →
    doorbellAt w.fn w.off = some (slot, o) → o % 4096 = 0 → pageTarget s w.fn slot w.window = some (fn, id, d) →
    getDef s id = some d → i < 65536 → v < 2 ^ 32 → w.data = leBytes 8 (65536 + i + v * 2 ^ 32) →
    mfind d.cpls i = some c → c.group = o / 4096 → (BitVec.ofNat 32 v - c.head).toNat ≤ (c.wcount - c.head).toNat →
    ∃ t, exec (.dbRing w) s = .next t ∧ t = { s with defs := t.defs } ∧ OthersKept id s t ∧
      getCpl t id i = some { c with head := BitVec.ofNat 32 v }) ∧
  (∀ (w : HostWrite) (slot : Option Nat) (o fn id i v : Nat) (send : Bool) (d : Def) (x : Qp) (q : Queue) (s : State),
    operating s = true → doorbellAt w.fn w.off = some (slot, o) → o % 4096 = 0 →
    pageTarget s w.fn slot w.window = some (fn, id, d) → getDef s id = some d → i < 65536 → v < 2 ^ 32 →
    w.data = leBytes 8 ((if send then 131072 else 196608) + i + v * 2 ^ 32) → mfind d.qps i = some x →
    queueOf x send = some q → q.state = .active → q.group = o / 4096 →
    (BitVec.ofNat 32 v - q.tail).toNat ≤ 2 ^ q.log2 → (BitVec.ofNat 32 v - q.head).toNat ≤ 2 ^ q.log2 →
    ∃ t x', exec (.dbRing w) s = .next t ∧ t = { s with defs := t.defs } ∧ OthersKept id s t ∧ getQp t id i = some x' ∧
      queueOf x' send = some { q with tail := BitVec.ofNat 32 v } ∧ queueOf x' (!send) = queueOf x (!send)) ∧
  (∀ (w : HostWrite) (slot : Option Nat) (o fn id : Nat) (d : Def) (s : State), operating s = true →
    doorbellAt w.fn w.off = some (slot, o) → o % 4096 = 0 → pageTarget s w.fn slot w.window = some (fn, id, d) →
    w.data.length ≠ 8 →
    exec (.dbRing w) s = .next (setFn s fn (fun f => { f with
      discards := mput f.discards (o / 4096) (satAdd ((mfind f.discards (o / 4096)).getD 0) 1) })))

/-- RING_CREATE, RING_DESTROY, RING_ABORT and RING_ABORT_DRAINED (R132, R133, R150 to R152): an object of each kind is made
empty and `ACTIVE`, and one that is in use is neither made nor taken away; an abort runs with BUSY high until every
completion of its objects is written and no page read of theirs is in flight, and then shows its count. -/
def Obligations.RingObjects : Prop :=
  (∀ (c : Ctl) (fn id h : Nat) (d : Def) (s : State), CtlRuns s c fn id d → h = bits c.arg0.toNat 17 0 →
    createOk d c = true → handleHeld d.grant h = true → objState d h = none →
    (131072 ≤ h → ∃ q, mfind d.qps (h % 65536) = some q) →
    ∃ t, exec (.ringCreate c) s = .next t ∧ CtlEnded fn c cOk 0 false s t ∧
      t = { s with defs := t.defs, fns := t.fns, outs := t.outs } ∧ OthersKept id s t ∧
      (h < 65536 → ∃ d', getDef t id = some d' ∧ RecordsOnly d d' ∧ d' = { d with
        rings := mput d.rings h (CmdRing.fresh (bits c.arg0.toNat 31 24) (bits c.arg0.toNat 39 32) c.arg1.toNat
          c.arg2.toNat (bits c.arg0.toNat 43 40) (bits c.arg0.toNat 55 48))
        mem := d'.mem, saved := d'.saved }) ∧
      (65536 ≤ h → h < 131072 → getDef t id = some { d with cpls := (mput d.cpls (h % 65536)
        { group := bits c.arg0.toNat 31 24, log2 := bits c.arg0.toNat 39 32, base := c.arg1.toNat
          vector := c.arg2.toNat, head := 0, wcount := 0, reserved := 0, waiting := [] }) }) ∧
      (∀ q, 131072 ≤ h → mfind d.qps (h % 65536) = some q → ∃ q', getQp t id (h % 65536) = some q' ∧
        queueOf q' (h / 65536 == 2) = some { state := .active, group := bits c.arg0.toNat 31 24
                                             log2 := bits c.arg0.toNat 39 32, base := c.arg1.toNat, cpl := c.arg2.toNat
                                             head := 0, tail := 0 } ∧
        queueOf q' (h / 65536 != 2) = queueOf q (h / 65536 != 2) ∧ q'.state = q.state)) ∧
  (∀ (c : Ctl) (fn id : Nat) (d : Def) (s : State), CtlRuns s c fn id d →
    (createOk d c = false → CtlRefused (.ringCreate c) fn c cMalformed s) ∧
    (createOk d c = true → handleHeld d.grant (bits c.arg0.toNat 17 0) = false →
      CtlRefused (.ringCreate c) fn c cAccessDenied s) ∧
    (createOk d c = true → handleHeld d.grant (bits c.arg0.toNat 17 0) = true →
      (objState d (bits c.arg0.toNat 17 0)).isSome = true → CtlRefused (.ringCreate c) fn c cInUse s)) ∧
  (∀ (c : Ctl) (fn id h : Nat) (d : Def) (s : State), CtlRuns s c fn id d → c.arg0.toNat = h → h < 2 ^ 18 → c.arg1 = 0 →
    c.arg2 = 0 → c.arg3 = 0 →
    (handleHeld d.grant h = false → CtlRefused (.ringDestroy c) fn c cAccessDenied s) ∧
    (handleHeld d.grant h = true → destroyBusy d h = true → CtlRefused (.ringDestroy c) fn c cInUse s) ∧
    (handleHeld d.grant h = true → destroyBusy d h = false →
      ∃ t, exec (.ringDestroy c) s = .next t ∧ CtlEnded fn c cOk 0 false s t ∧
        t = { s with defs := t.defs, fns := t.fns, outs := t.outs } ∧ OthersKept id s t ∧
        (h < 65536 → ∃ d', getDef t id = some d' ∧ RecordsOnly d d' ∧
          d' = { d with rings := mdrop d.rings h, mem := d'.mem, saved := d'.saved }) ∧
        (65536 ≤ h → h < 131072 → getDef t id = some { d with cpls := mdrop d.cpls (h % 65536) }) ∧
        (∀ q, 131072 ≤ h → mfind d.qps (h % 65536) = some q → ∃ q', getQp t id (h % 65536) = some q' ∧
          queueOf q' (h / 65536 == 2) = none ∧ queueOf q' (h / 65536 != 2) = queueOf q (h / 65536 != 2)))) ∧
  (∀ (c : Ctl) (fn id : Nat) (d : Def) (s : State), operating s = true →
    pageTarget s c.fn c.slot c.window = some (fn, id, d) → (getFn s fn).busy = true →
    ∃ t, exec (.ringDestroy c) s = .next t ∧ t = { s with fns := t.fns } ∧ (getFn t fn).busy = true ∧
      mfind (getFn t fn).discards 0 = some (satAdd ((mfind (getFn s fn).discards 0).getD 0) 1)) ∧
  (∀ (c : Ctl) (fn id h : Nat) (d : Def) (r : CmdRing) (s : State), CtlRuns s c fn id d → fn = boundFn d →
    c.arg0.toNat = h → h < 65536 → c.arg1 = 0 → c.arg2 = 0 → c.arg3 = 0 → handleHeld d.grant h = true →
    d.rings = [(h, r)] → r.state = .active → r.cur = none → r.nxt = none → r.fall = none →
    (∀ f ∈ s.frags, f.2.ring = h) →
    ∃ t r', exec (.ringAbort c) s = .next t ∧ (getFn t fn).busy = true ∧ OthersKept id s t ∧
      getRing t id h = some r' ∧ r'.state = .aborting ∧ r'.head = r.tail ∧ r'.tail = r.tail ∧ r'.cur = none ∧
      r'.fragEpoch = r.fragEpoch + 1 ∧
      (∀ x, getCpl s id r.cpl = some x → ∃ x', getCpl t id r.cpl = some x' ∧
        x'.waiting.length = x.waiting.length + (r.tail - r.head).toNat ∧
        (∀ p ∈ x'.waiting.drop x.waiting.length, p.status = cCancelled ∧ p.source = h))) ∧
  (∀ (c : Ctl) (fn id h : Nat) (d : Def) (s : State), CtlRuns s c fn id d → c.arg0.toNat = h → h < 2 ^ 18 →
    h / 65536 ≠ 1 → c.arg1 = 0 → c.arg2 = 0 → c.arg3 = 0 → handleHeld d.grant h = true → objState d h ≠ some .active →
    ∃ t, exec (.ringAbort c) s = .next t ∧ CtlEnded fn c cOk 0 true s t ∧
      t = { s with fns := t.fns, outs := t.outs }) ∧
  (∀ (fn id : Nat) (d : Def) (a : AbortOp) (h : Nat) (r : CmdRing) (s : State), operating s = true →
    (getFn s fn).abort = some a → boundTo s fn = some (id, d) → getDef s id = some d → a.handles = [h] → h < 65536 →
    mfind d.rings h = some r → (getFn s fn).unload = none →
    (objDrained s d h = true →
      ∃ t, exec (.ringAbortDrained fn) s = .next t ∧ t = { s with defs := t.defs, fns := t.fns, outs := t.outs } ∧
        getRing t id h = some { r with state := .aborted } ∧ OthersKept id s t ∧
        getFn t fn = { getFn s fn with
          busy := false, ctlStatus := if a.reset then cPartitionReset else cOk, ctlResult := BitVec.ofNat 64 a.count
          drained := true, waitOp := none, abort := none }) ∧
    (objDrained s d h = false → exec (.ringAbortDrained fn) s = .next s))

/-- PT_SET and INVALIDATE (R151, R154, R156): the table's base, and how many pages of a range are referenced. FENCE_INIT,
FENCE_READ and FENCE_ABANDON (R150, R151, R159, R161): an abandoned fence keeps its value and stays abandoned until it is
set up again. A range of INVALIDATE that runs past the 48-bit addresses is `MALFORMED` by the model's choice (log 28). -/
def Obligations.PageTablesAndFences : Prop :=
  (∀ (c : Ctl) (fn id : Nat) (d : Def) (s : State), CtlRuns s c fn id d → c.arg0.toNat % 4096 = 0 → c.arg1 = 0 →
    c.arg2 = 0 → c.arg3 = 0 →
    (anyAdmitted d = true → CtlRefused (.ptSet c) fn c cInUse s) ∧
    (anyAdmitted d = false → ∃ t, exec (.ptSet c) s = .next t ∧ CtlEnded fn c cOk 0 false s t ∧
      t = { s with defs := t.defs, fns := t.fns, outs := t.outs } ∧ OthersKept id s t ∧
      getDef t id = some { d with ptBase := some c.arg0.toNat })) ∧
  (∀ (c : Ctl) (fn id : Nat) (d : Def) (s : State), CtlRuns s c fn id d → c.arg0.toNat % 4096 ≠ 0 →
    CtlRefused (.ptSet c) fn c cMalformed s) ∧
  (∀ (c : Ctl) (fn id k : Nat) (d : Def) (s : State), CtlRuns s c fn id d → c.arg0.toNat % 65536 = 0 →
    c.arg0.toNat + c.arg1.toNat * 65536 ≤ 2 ^ 48 → 1 ≤ c.arg1.toNat → c.arg2 = 0 → c.arg3 = 0 →
    k = referencedPages (usedRanges s d) (c.arg0.toNat / 65536) c.arg1.toNat →
    ∃ t, exec (.invalidate c) s = .next t ∧
      CtlEnded fn c (if k = 0 then cOk else cInUse) (BitVec.ofNat 64 k) false s t ∧
      t = { s with fns := t.fns, outs := t.outs } ∧ k ≤ c.arg1.toNat) ∧
  (∀ (c : Ctl) (fn id : Nat) (d : Def) (s : State), CtlRuns s c fn id d →
    (c.arg0.toNat % 65536 ≠ 0 ∨ c.arg1 = 0 ∨ 2 ^ 48 < c.arg0.toNat + c.arg1.toNat * 65536) →
    CtlRefused (.invalidate c) fn c cMalformed s) ∧
  (∀ (c : Ctl) (fn id : Nat) (d : Def) (s : State), CtlRuns s c fn id d → c.arg0.toNat < 2 ^ 18 →
    c.arg0.toNat < d.grant.fences → c.arg2 = 0 → c.arg3 = 0 →
    (anyAdmitted d = true → CtlRefused (.fenceInit c) fn c cInUse s) ∧
    (anyAdmitted d = false → ∃ t, exec (.fenceInit c) s = .next t ∧ CtlEnded fn c cOk 0 false s t ∧
      t = { s with defs := t.defs, fns := t.fns, outs := t.outs } ∧ OthersKept id s t ∧
      getDef t id = some { d with fences := mput d.fences c.arg0.toNat { value := c.arg1, abandoned := false } })) ∧
  (∀ (c : Ctl) (fn id : Nat) (d : Def) (s : State), CtlRuns s c fn id d → c.arg0.toNat < 2 ^ 18 →
    c.arg0.toNat < d.grant.fences → c.arg1 = 0 → c.arg2 = 0 → c.arg3 = 0 →
    (∃ t, exec (.fenceRead c) s = .next t ∧ t = { s with fns := t.fns, outs := t.outs } ∧
      CtlEnded fn c (if (getFence d c.arg0.toNat).abandoned then cAbandoned else cOk) (getFence d c.arg0.toNat).value
        false s t) ∧
    (∃ t, exec (.fenceAbandon c) s = .next t ∧ (getFn t fn).busy = false ∧ (getFn t fn).ctlStatus = cOk) ∧
    ((∀ p ∈ d.rings, ∀ x, p.2.cur = some x ∨ p.2.nxt = some x → isXform x = false) →
      ∃ t d', exec (.fenceAbandon c) s = .next t ∧ getDef t id = some d' ∧ OthersKept id s t ∧
      (getFence d' c.arg0.toNat).abandoned = true ∧
      (getFence d' c.arg0.toNat).value = (getFence d c.arg0.toNat).value ∧
      (∀ i, (getFence d i).abandoned = true → getFence d' i = getFence d i) ∧
      (∀ i, (getFence d' i).value = (getFence d i).value) ∧ RecordsOnly d d' ∧ t.host = s.host ∧
      (getFn t fn).busy = false ∧ (getFn t fn).ctlStatus = cOk)) ∧
  (∀ (c : Ctl) (fn id : Nat) (d : Def) (s : State), CtlRuns s c fn id d → c.arg0.toNat < 2 ^ 18 →
    d.grant.fences ≤ c.arg0.toNat → c.arg1 = 0 → c.arg2 = 0 → c.arg3 = 0 →
    CtlRefused (.fenceInit c) fn c cAccessDenied s ∧ CtlRefused (.fenceRead c) fn c cAccessDenied s ∧
    CtlRefused (.fenceAbandon c) fn c cAccessDenied s)

/-- QP_MODIFY_READY, QP_MODIFY_RESET and QP_QUERY (R312 to R315): a QP enters `READY` with its record and fresh streams, goes
back to `RESET` from `ERROR` alone, and shows its status in 64 bytes. -/
def Obligations.QpOperations : Prop :=
  (∀ (c : Ctl) (fn id qi : Nat) (d : Def) (q : Qp) (rec_ : List Byte) (sl : Nat) (s : State), CtlRuns s c fn id d →
    d.slot = some sl → modifyArgsOk c = true → bits c.arg0.toNat 17 16 = 1 → qi = bits c.arg0.toNat 15 0 →
    qi < d.grant.qps → mfind d.qps qi = some q → readVa s d c.arg1.toNat 128 = .ok rec_ →
    connOk d.grant d.linkKeys rec_ = true → queuesActive q = true →
    (q.state ≠ .reset → CtlRefused (.qpModifyReady c) fn c cInUse s) ∧
    (q.state = .reset → ∃ t q', exec (.qpModifyReady c) s = .next t ∧ CtlEnded fn c cOk 0 false s t ∧
      t = { s with defs := t.defs, slots := t.slots, fns := t.fns, outs := t.outs } ∧ OthersKept id s t ∧
      getQp t id qi = some q' ∧ q'.state = .ready ∧ q'.conn = rec_ ∧ q'.sndNxt = fld rec_ 64 4 ∧
      q'.sndUna = fld rec_ 64 4 ∧ q'.rcvNxt = fld rec_ 68 4 ∧ q'.sq = q.sq ∧ q'.rq = q.rq ∧ q'.phys = q.phys ∧
      q'.counts = QpCounts.zero ∧ q'.msgs = [] ∧ q'.sent = [] ∧ q'.reason = 0 ∧
      (getSlot t sl).qpCached.head? = (if d.grant.qpCache = 0 then none else some qi))) ∧
  (∀ (c : Ctl) (fn id : Nat) (d : Def) (s : State), CtlRuns s c fn id d → modifyArgsOk c = false →
    (bits c.arg0.toNat 17 16 ≠ 0 → CtlRefused (.qpModifyReady c) fn c cMalformed s) ∧
    (bits c.arg0.toNat 17 16 ≠ 1 → CtlRefused (.qpModifyReset c) fn c cMalformed s)) ∧
  (∀ (c : Ctl) (fn id qi : Nat) (d : Def) (q : Qp) (s : State), CtlRuns s c fn id d → modifyArgsOk c = true →
    bits c.arg0.toNat 17 16 = 0 → qi = bits c.arg0.toNat 15 0 → qi < d.grant.qps → mfind d.qps qi = some q →
    (q.state ≠ .error → CtlRefused (.qpModifyReset c) fn c cInUse s) ∧
    (q.state = .error → hasEntries d (hSend qi) = false → hasEntries d (hRecv qi) = false → q.sent = [] → q.msgs = [] →
      ∃ t q', exec (.qpModifyReset c) s = .next t ∧ CtlEnded fn c cOk 0 false s t ∧
        t = { s with defs := t.defs, fns := t.fns, outs := t.outs } ∧ OthersKept id s t ∧ getQp t id qi = some q' ∧
        q'.state = .reset ∧ q'.conn = q.conn ∧ q'.sq = q.sq ∧ q'.rq = q.rq ∧ q'.phys = q.phys ∧
        q'.counts = QpCounts.zero)) ∧
  (∀ (c : Ctl) (fn id : Nat) (d : Def) (q : Qp) (s : State), CtlRuns s c fn id d → c.arg0.toNat < 2 ^ 16 →
    c.arg0.toNat < d.grant.qps → mfind d.qps c.arg0.toNat = some q → c.arg1.toNat % 64 = 0 → c.arg1.toNat < 2 ^ 48 →
    c.arg2 = 0 → c.arg3 = 0 →
    (qpStatus q).length = 64 ∧
    (∀ off, translate s d c.arg1.toNat true = some (.mem off) → d.dirty = none →
      ∃ t, exec (.qpQuery c) s = .next t ∧ CtlEnded fn c cOk 0 false s t ∧
        t = { s with defs := t.defs, slots := t.slots, fns := t.fns, outs := t.outs } ∧ Charged d.slot s t ∧
        OthersKept id s t ∧ ∃ l, getDef t id = some { d.write off (qpStatus q) with rings := l }) ∧
    (∀ a, translate s d c.arg1.toNat true = some (.host a) →
      ∃ t, exec (.qpQuery c) s = .next t ∧ CtlEnded fn c cOk 0 false s t ∧
        t = { hostWrite s (boundFn d) a (qpStatus q) with
          defs := t.defs, slots := t.slots, fns := t.fns, outs := t.outs } ∧ Charged d.slot s t ∧
        OthersKept id s t ∧ ∃ l, getDef t id = some { d with rings := l }))

/-! ### Entries of command rings -/

/-- NOP, FENCE_WAIT and FENCE_SIGNAL (R141, R147, R158 to R160, R164, R166): an entry that may be taken completes at once,
and its signal sets or increments its fence. -/
def Obligations.FenceEntries : Prop :=
  (∀ (slot ring id : Nat) (d : Def) (r : CmdRing) (e : List Byte) (s : State),
    (HeadEntry s slot ring 0x01 id d r e → ∃ t d', CompletesNow (.nop slot ring) s ring id d r e t d') ∧
    (HeadEntry s slot ring 0x02 id d r e → ∃ t d', CompletesNow (.fenceWait slot ring) s ring id d r e t d')) ∧
  (∀ (slot ring id i : Nat) (d : Def) (r : CmdRing) (e : List Byte) (s : State),
    HeadEntry s slot ring 0x03 id d r e → i = fIndex (eSignalFence e) →
    ∃ t d', CompletesNow (.fenceSignal slot ring) s ring id d r e t d' ∧
      ((getFence d i).abandoned = true → getFence d' i = getFence d i) ∧
      ((getFence d i).abandoned = false → fMode (eSignalFence e) = 2 →
        getFence d' i = { value := (getFence d i).value + 1, abandoned := false } ∧ t.fns = s.fns) ∧
      ((getFence d i).abandoned = false → fMode (eSignalFence e) = 1 →
        (eSignalValue e - (getFence d i).value).toNat < 2 ^ 63 →
        getFence d' i = { value := eSignalValue e, abandoned := false } ∧ t.fns = s.fns) ∧
      ((getFence d i).abandoned = false → fMode (eSignalFence e) = 1 →
        2 ^ 63 ≤ (eSignalValue e - (getFence d i).value).toNat →
        getFence d' i = getFence d i ∧
        (getFn t (boundFn d)).regress = satAdd (getFn s (boundFn d)).regress 1)) ∧
  (∀ (slot ring id : Nat) (d : Def) (r : CmdRing) (e : List Byte) (s : State), operating s = true →
    inSlot s slot = some (id, d) → getDef s id = some d → d.state = .running → IdleRings d →
    (∀ f ∈ s.frags, f.2.slot ≠ slot) → mfind d.rings ring = some r →
    e = entryAt s (boundFn d) r.base r.log2 r.head → eOp e = 0x02 → r.cancelRest = false → r.waitSat = false →
    entryFault s d (!r.jobOpen) e = none → fMode (eWaitFence e) = 1 →
    (getFence d (fIndex (eWaitFence e))).abandoned = false →
    reaches (getFence d (fIndex (eWaitFence e))).value (eWaitValue e) = false →
    ∃ t d', exec (.fenceWait slot ring) s = .next t ∧ t = { s with defs := t.defs } ∧ OthersKept id s t ∧
      getDef t id = some d' ∧ d' = { d with rings := d'.rings } ∧
      ∀ j, (mfind d'.rings j).map (fun x => { x with hot := false, vt := 0 }) =
        (mfind d.rings j).map (fun x => { x with hot := false, vt := 0 }))

/-- GEMM, MERGE, LANTERN_RUN and the KV commands (R168, R218, R234, R267, R287 to R291): admission, and the tiles of each. -/
def Obligations.CommandsBegin : Prop :=
  (∀ (slot ring id : Nat) (d : Def) (r : CmdRing) (e p : List Byte) (s : State), HeadEntry s slot ring 0x30 id d r e →
    Descriptor s d r e p → (parseGemm p e).check p d.grant = none → gemmTiles (parseGemm p e) d.grant ≠ [] →
    ∃ c, Begins (.gemm slot ring) s ring id d r e p c ∧ c.tiles = gemmTiles (parseGemm p e) d.grant) ∧
  (∀ (slot ring id : Nat) (d : Def) (r : CmdRing) (e p : List Byte) (s : State), HeadEntry s slot ring 0x41 id d r e →
    Descriptor s d r e p → (parseMerge p).ok p = true →
    ∃ c, Begins (.merge slot ring) s ring id d r e p c ∧
      c.tiles.map (·.kind) = (List.range (((parseMerge p).records + 63) / 64)).map (fun i =>
        TileKind.merge (i * 64) (min 64 ((parseMerge p).records - i * 64)))) ∧
  (∀ (slot ring id : Nat) (d : Def) (r : CmdRing) (e p : List Byte) (s : State), HeadEntry s slot ring 0x60 id d r e →
    Descriptor s d r e p →
    ∃ c, Begins (.lanternRun slot ring) s ring id d r e p c ∧
      c.tiles.map (·.kind) = (List.range (fld e 34 2)).map TileKind.routine) ∧
  (∀ (slot ring id : Nat) (d : Def) (r : CmdRing) (e p : List Byte) (s : State), Descriptor s d r e p →
    (HeadEntry s slot ring 0x48 id d r e →
      ∃ c, Begins (.kvAppend slot ring) s ring id d r e p c ∧ c.tiles.map (·.kind) = [.kv]) ∧
    (HeadEntry s slot ring 0x49 id d r e →
      ∃ c, Begins (.kvCommit slot ring) s ring id d r e p c ∧ c.tiles.map (·.kind) = [.kv]) ∧
    (HeadEntry s slot ring 0x4A id d r e →
      ∃ c, Begins (.kvRollback slot ring) s ring id d r e p c ∧ c.tiles.map (·.kind) = [.kv]) ∧
    (HeadEntry s slot ring 0x4B id d r e →
      ∃ c, Begins (.kvTrim slot ring) s ring id d r e p c ∧ c.tiles.map (·.kind) = [.kv]))

/-- ATTEND, BATCH_STEP, REDUCE and CONVERT (R242, R252, R298, R337, R338, R345): the chains are read as they stand when the
command begins, and a transform's chunks are ready as their fences allow. -/
def Obligations.LargeCommandsBegin : Prop :=
  (∀ (slot ring id : Nat) (d : Def) (r : CmdRing) (e p : List Byte) (cs : List Chain) (pages : Nat) (s : State),
    HeadEntry s slot ring 0x40 id d r e → Descriptor s d r e p → attendDescOk p (parseAttend p) = true →
    readsFail s d [(fld p 8 8, (parseAttend p).heads * 8), (nth (parseAttend p).metas 0 0, (parseAttend p).rows * 16)] =
      none →
    snapshot s d (parseAttend p) 0
      ((List.range (parseAttend p).heads).map (fun h => peekNat s d (fld p 8 8 + h * 8) 8)) none = .ok cs →
    attPages (parseAttend p) (match cs with | c :: _ => c.fmt | [] => 0x03) d.grant = some pages →
    ∃ c, Begins (.attend slot ring) s ring id d r e p c ∧ c.chains = cs ∧
      c.tiles.head?.map (·.kind) = some .attendOpen ∧
      (closes (parseAttend p) = true → c.tiles.getLast?.map (·.kind) = some .attendClose) ∧
      (∀ x ∈ c.tiles, x.kind = .attendOpen ∨ x.kind = .attendClose ∨
        ∃ h first count, x.kind = .attend h first count ∧ h < (parseAttend p).heads)) ∧
  (∀ (slot ring id : Nat) (d : Def) (r : CmdRing) (e p : List Byte) (u : Cmd → Cmd) (s : State),
    HeadEntry s slot ring 0x50 id d r e → Descriptor s d r e p →
    batchBegin s d p e = .ok [] u (fun x => x) → (∀ c, (u c).tiles ≠ []) →
    ∃ c, Begins (.batchStep slot ring) s ring id d r e p c ∧
      (∀ x ∈ c.tiles, ∃ ph first count, x.kind = .phase ph first count ∧ 1 ≤ ph ∧ ph ≤ 3)) ∧
  (∀ (slot ring id : Nat) (d : Def) (r : CmdRing) (e p : List Byte) (s : State), Descriptor s d r e p →
    ((parseXform e p).page = true ∨ (parseXform e p).fits d.grant 1024 = true) →
    (∀ i ∈ (parseXform e p).inputs, (getFence d i.fence).abandoned = false) → (parseXform e p).tiles d.grant ≠ [] →
    (HeadEntry s slot ring 0x20 id d r e → reduceFieldsOk p d.grant.fences = true → badInput p d.grant.fences = none →
      ∃ c, Begins (.reduce slot ring) s ring id d r e p c ∧ c.tiles = (parseXform e p).tiles d.grant ∧
        (∀ k, k ∈ c.ready ↔ k < (parseXform e p).chunks ∧ ((parseXform e p).blocker d k).isNone = true)) ∧
    (HeadEntry s slot ring 0x21 id d r e → convertFieldsOk p d.grant.fences = true →
      ∃ c, Begins (.convert slot ring) s ring id d r e p c ∧ c.tiles = (parseXform e p).tiles d.grant ∧
        (∀ k, k ∈ c.ready ↔ k < (parseXform e p).chunks ∧ ((parseXform e p).blocker d k).isNone = true)))

/-! ### Queue pairs: sending -/

/-- PUT, GET, ATOMIC, SEND and SEND_RECEIVE (R144, R306, R316, R319, R320): an entry that may be admitted takes its PSNs, and
its data is read then (log 48); on a QP in `ERROR` it completes at once (R315). -/
def Obligations.PostedEntries : Prop :=
  (∀ (slot qi id : Nat) (d : Def) (q : Qp) (sq : Queue) (e bs : List Byte) (s : State),
    readVa s d (fld e 16 6) (fld e 32 4) = .ok bs →
    (PostReady s slot qi 0x10 id d q sq e →
      Posted (.put slot qi) s qi 0x10 id d q sq e bs (fld e 32 4) (packetsOf q.conn (fld e 32 4))) ∧
    (PostReady s slot qi 0x13 id d q sq e →
      Posted (.send slot qi) s qi 0x13 id d q sq e bs (fld e 32 4) (packetsOf q.conn (fld e 32 4)))) ∧
  (∀ (slot qi id : Nat) (d : Def) (q : Qp) (sq : Queue) (e : List Byte) (s : State),
    (PostReady s slot qi 0x11 id d q sq e → Posted (.get slot qi) s qi 0x11 id d q sq e [] (fld e 32 4) 1) ∧
    (PostReady s slot qi 0x12 id d q sq e → Posted (.atomic slot qi) s qi 0x12 id d q sq e
      (beBytes 1 (fld e 22 1) ++ List.replicate 7 0 ++ beBytes 8 (fld e 32 8) ++ beBytes 8 (fld e 40 8)) 24 1)) ∧
  (∀ (slot qi id : Nat) (d : Def) (q : Qp) (rq : Queue) (e : List Byte) (s : State), operating s = true →
    inSlot s slot = some (id, d) → getDef s id = some d → headRuns d (hRecv qi) rq.head = true → mfind d.qps qi = some q →
    q.rq = some rq → rq.state = .active → rq.head ≠ rq.tail → q.state = .ready →
    e = entryAt s (boundFn d) rq.base rq.log2 rq.head → recvFault s d e = none →
    (∃ c, mfind d.cpls rq.cpl = some c ∧ 1 ≤ cplRoom c) →
    ∃ t, exec (.sendReceive slot qi) s = .next t ∧ t = { s with defs := t.defs, slots := t.slots } ∧ Charged d.slot s t ∧
      OthersKept id s t ∧
      getQp t id qi = some { q with
        rq := some { rq with head := rq.head + 1 }, recvNext := q.recvNext + 1
        recvs := q.recvs ++ [{ pos := rq.head, entry := e, fin := none }] } ∧ MemoryKept id s t) ∧
  (∀ (slot qi id : Nat) (d : Def) (q : Qp) (sq : Queue) (c : CplRing) (s : State), operating s = true →
    inSlot s slot = some (id, d) → getDef s id = some d → headRuns d (hSend qi) sq.head = true → mfind d.qps qi = some q →
    q.sq = some sq → sq.state = .active → sq.head ≠ sq.tail → q.state = .error →
    eOp (entryAt s (boundFn d) sq.base sq.log2 sq.head) = 0x10 → mfind d.cpls sq.cpl = some c →
    ∃ t p, exec (.put slot qi) s = .next t ∧ t = { s with defs := t.defs, slots := t.slots } ∧ Charged d.slot s t ∧
      OthersKept id s t ∧
      getQp t id qi = some { q with sq := some { sq with head := sq.head + 1 } } ∧
      getCpl t id sq.cpl = some { c with waiting := c.waiting ++ [p] } ∧ p.source = hSend qi ∧ p.pos = sq.head ∧
      p.status = (if q.reason = 0x05 then cPartitionReset else cCancelled))

/-- BURST_RELEASE (R51, R310, R322, R330): the port's READY levels are taken, and then one burst of the oldest message with
packets left goes, within the burst limit, the congestion window and 1,024 PSNs, where its egress ownership, its queue's
READY and the order of the messages on its port permit it; a QP that is not `READY` does nothing. -/
def Obligations.BurstReleased : Prop :=
  (∀ (slot qi id n : Nat) (d : Def) (q : Qp) (m : Msg) (ready : BitVec 256) (s : State), operating s = true →
    inSlot s slot = some (id, d) → getDef s id = some d → mfind d.qps qi = some q → q.state = .ready →
    unreleased q = some m → burstSize q (now s) m = some n →
    burstPermitted (takeReady (cnPort q.conn) ready s) d slot q m = true →
    d.state ≠ .scrubbing ∧
    1 ≤ n ∧ n ≤ burstLimit q.conn ∧ m.released + n ≤ m.pkts ∧ m.firstPsn + m.released + n ≤ lowestUnacked q + 1024 ∧
    m.firstPsn + m.released + n + 1024 ≤ 2 ^ 48 ∧
    (unackedBytes q + burstBytes q m n) * 65536 ≤ q.cong.w ∧
    ∃ t q', exec (.burstRelease slot qi ready) s = .next t ∧ getQp t id qi = some q' ∧ OthersKept id s t ∧
      MemoryKept id s t ∧
      t = { s with
        defs := t.defs, slots := t.slots, outs := t.outs, car := { s.car with heldFrames := t.car.heldFrames }
        fabric := { s.fabric with netUsed := t.fabric.netUsed, netCtl := t.fabric.netCtl }
        xpt := { s.xpt with ready := setNth s.xpt.ready (cnPort q.conn) (fun _ => ready), crc := t.xpt.crc } } ∧
      q'.sent.map (·.psn) = q.sent.map (·.psn) ++ (List.range n).map (fun i => m.firstPsn + m.released + i) ∧
      q'.sndNxt = q.sndNxt ∧
      q'.msgs = q.msgs.map (fun x => if x.firstPsn = m.firstPsn then { x with released := x.released + n } else x)) ∧
  (∀ (slot qi id : Nat) (d : Def) (q : Qp) (ready : BitVec 256) (s : State), operating s = true →
    inSlot s slot = some (id, d) → getDef s id = some d → mfind d.qps qi = some q →
    (q.state ≠ .ready → exec (.burstRelease slot qi ready) s = .next s) ∧
    (q.state = .ready → (burstOf s q = none ∨ ∃ m n, burstOf s q = some (m, n) ∧
        burstPermitted (takeReady (cnPort q.conn) ready s) d slot q m = false) →
      ∃ t, exec (.burstRelease slot qi ready) s = .next t ∧ t.defs = s.defs ∧ t.host = s.host ∧
        t.xpt.ready = setNth s.xpt.ready (cnPort q.conn) (fun _ => ready) ∧
        (s.car.heldFrames = [] → t = { s with xpt := { s.xpt with ready := t.xpt.ready } })))

/-- ACK_DELAY_TIMER, RTO_EXPIRY, RNR_RESEND, RNR_LIMIT_EXPIRY, PATH_SUSPEND_END and QP_CONTEXT_FETCHED (R319, R324 to R326,
R332). A packet is sent again under its own PSN with the next TRY, and one lost with TRY 7 ends the QP. -/
def Obligations.TransportTimers : Prop :=
  (∀ (slot qi id : Nat) (d : Def) (q : Qp) (s : State), operating s = true → inSlot s slot = some (id, d) →
    getDef s id = some d → mfind d.qps qi = some q →
    (q.state = .ready → d.state ≠ .scrubbing → q.ack.oldest.isSome = true →
      ∃ t, exec (.ackDelayTimer slot qi) s = .next t ∧ OthersKept id s t ∧ MemoryKept id s t ∧
        getQp t id qi = some { q with
          ctlSent := q.ctlSent + 1, ack := { q.ack with pkts := 0, ce := 0, owd := none, oldest := none } }) ∧
    (q.ack.oldest = none ∨ d.state = .scrubbing → exec (.ackDelayTimer slot qi) s = .next s)) ∧
  (∀ (slot qi id rtoAt : Nat) (d : Def) (q : Qp) (x : Sent) (m : Msg) (s : State), operating s = true →
    inSlot s slot = some (id, d) → getDef s id = some d → mfind d.qps qi = some q → q.state = .ready → q.sent = [x] →
    d.state ≠ .scrubbing → heldByRnr q x.psn = false → q.cong.timer = some rtoAt →
    q.msgs.find? (fun m => m.firstPsn == x.firstPsn) = some m →
    (x.tries < 7 → ∃ t q' path, exec (.rtoExpiry slot qi) s = .next t ∧ getQp t id qi = some q' ∧ OthersKept id s t ∧
      MemoryKept id s t ∧ q'.cong.rto = min (2 * q.cong.rto) 8000000 ∧ q'.state = .ready ∧
      q'.sent = [{ x with path := path, tries := x.tries + 1, at_ := now s }] ∧ q'.msgs = q.msgs ∧
      q'.counts.retransmitted = satN 32 q.counts.retransmitted 1) ∧
    (7 ≤ x.tries → IdleRings d → NoFragments s slot →
      ∃ t q', exec (.rtoExpiry slot qi) s = .next t ∧ getQp t id qi = some q' ∧ q'.state = .error ∧ q'.reason = 0x01 ∧
        q'.sent = [] ∧ q'.msgs = [])) ∧
  (∀ (slot qi id p : Nat) (d : Def) (q : Qp) (x : Sent) (m : Msg) (s : State), operating s = true →
    inSlot s slot = some (id, d) → getDef s id = some d → mfind d.qps qi = some q → q.sent = [x] → q.rnrFrom = some p →
    d.state ≠ .scrubbing → p ≤ x.psn → q.msgs.find? (fun m => m.firstPsn == x.firstPsn) = some m →
    ∃ t q' path, exec (.rnrResend slot qi) s = .next t ∧ getQp t id qi = some q' ∧ OthersKept id s t ∧
      MemoryKept id s t ∧ q'.rnrFrom = none ∧ q'.sent = [{ x with path := path, at_ := now s }] ∧
      q'.counts.retransmitted = satN 32 q.counts.retransmitted 1) ∧
  (∀ (slot qi id : Nat) (d : Def) (q : Qp) (s : State), operating s = true → inSlot s slot = some (id, d) →
    getDef s id = some d → mfind d.qps qi = some q → q.state = .ready → IdleRings d → NoFragments s slot →
    (q.rnrs = [] → exec (.rnrLimitExpiry slot qi) s = .next s) ∧
    (q.rnrs ≠ [] → ∃ t q' f, exec (.rnrLimitExpiry slot qi) s = .next t ∧ getQp t id qi = some q' ∧ q'.state = .error ∧
      q'.reason = 0x07 ∧ q'.msgs = [] ∧ q'.sent = [] ∧ oldestRefused q = some f ∧
      (∀ g x, mfind q.rnrs g = some x → (mfind q.rnrs f).getD 0 ≤ x))) ∧
  (∀ (slot qi id path : Nat) (d : Def) (q : Qp) (s : State), operating s = true → inSlot s slot = some (id, d) →
    getDef s id = some d → mfind d.qps qi = some q →
    ∃ t q', exec (.pathSuspendEnd slot qi path) s = .next t ∧ t = { s with defs := t.defs } ∧ OthersKept id s t ∧
      getQp t id qi = some q' ∧ q' = { q with cong := { q.cong with suspended := q'.cong.suspended } } ∧
      q'.cong.suspended.length = q.cong.suspended.length ∧
      (∀ k, nth q'.cong.suspended k 0 = if k = path then 0 else nth q.cong.suspended k 0)) ∧
  (∀ (slot qi id : Nat) (d : Def) (q : Qp) (s : State), operating s = true → inSlot s slot = some (id, d) →
    mfind d.qps qi = some q →
    ((getSlot s slot).windows.contains q.phys = true → (∀ f ∈ s.xpt.waitingFrames, fDst f.1 ≠ q.phys) →
      ∃ t, exec (.qpContextFetched slot qi) s = .next t ∧ t = { s with slots := t.slots } ∧
        getSlot t slot = { getSlot s slot with
          qpCached := (qi :: (getSlot s slot).qpCached.filter (· != qi)).take d.grant.qpCache
          served := mput (getSlot s slot).served 0 (((mfind (getSlot s slot).served 0).getD 0) +
            charge64 Config.contextBytes) } ∧
        (∀ j, j ≠ slot → getSlot t j = getSlot s j)) ∧
    (slot < 64 → (getSlot s slot).windows.contains q.phys = false →
      exec (.qpContextFetched slot qi) s = .next (emit (detect1
        { code := 0x0C00, slot := some slot, owner := none, loadGen := (getSlot s slot).loadGen.toNat
          detail := BitVec.ofNat 64 (Config.contextAddr q.phys), injected := false } s)
        (.memory slot stAccessDenied []))))

/-! ### Queue pairs: receiving -/

/-- PUT_PACKET, GET_PACKET and ATOMIC_PACKET (R317, R318, R320): a packet in order is placed where its range lies in the
window and ACCESS permits it; a GET and an ATOMIC form their response, and the ATOMIC's result is held. Behind a fragment
that the QP has in service they wait for its reply (log 36). -/
def Obligations.InboundRequests : Prop :=
  (∀ (f : Frame) (slot id qi : Nat) (d : Def) (q : Qp) (payload : List Byte) (s : State),
    NextPacket s f slot id qi 0x10 d q payload →
    (remoteOk s d q 1 (fVa f) (fMsgLen f) false true = true →
      ∃ t q', exec (.putPacket f) s = .next t ∧ getQp t id qi = some q' ∧ OthersKept id s t ∧
        WrittenAs id (fVa f + fIndex' f * fullPayload q.conn) payload s t ∧ q'.rcvNxt = q.rcvNxt + 1 ∧ q'.got = [] ∧
        q'.inbound = [] ∧ q'.msgs = q.msgs ∧ q'.state = .ready ∧ t.frags = s.frags) ∧
    (remoteOk s d q 1 (fVa f) (fMsgLen f) false true = false →
      ∃ t q', exec (.putPacket f) s = .next t ∧ getQp t id qi = some q' ∧ OthersKept id s t ∧ MemoryKept id s t ∧
        q'.rcvNxt = q.rcvNxt ∧ q'.got = [] ∧ q'.ctlSent = q.ctlSent + 1)) ∧
  (∀ (f : Frame) (slot id qi : Nat) (d : Def) (q : Qp) (payload data : List Byte) (s : State),
    NextPacket s f slot id qi 0x11 d q payload → (∀ x ∈ d.serving, x.qp ≠ qi) →
    remoteOk s d q 0 (fVa f) (fMsgLen f) true false = true →
    readVa s d (fVa f) (fMsgLen f) = .ok data → psnsLeft q = true →
    ∃ t q' m, exec (.getPacket f) s = .next t ∧ getQp t id qi = some q' ∧ OthersKept id s t ∧ MemoryKept id s t ∧
      q'.rcvNxt = q.rcvNxt + 1 ∧ q'.inbound = [] ∧ q'.msgs = q.msgs ++ [m] ∧ m.op = 0x21 ∧ m.pos = none ∧
      m.data = data ∧ m.reqPsn = q.rcvNxt ∧ m.firstPsn = q.sndNxt) ∧
  (∀ (f : Frame) (slot id qi : Nat) (d : Def) (q : Qp) (payload : List Byte) (s : State),
    NextPacket s f slot id qi 0x11 d q payload → (∃ x ∈ d.serving, x.qp = qi) →
    ∃ t q', exec (.getPacket f) s = .next t ∧ getQp t id qi = some q' ∧ OthersKept id s t ∧ MemoryKept id s t ∧
      q'.rcvNxt = q.rcvNxt + 1 ∧ q'.msgs = q.msgs ∧ q'.inbound.map (fun m => (m.op, m.psn)) = [(0x11, q.rcvNxt)]) ∧
  (∀ (f : Frame) (slot id qi : Nat) (d : Def) (q : Qp) (payload data : List Byte) (old : Word) (s : State),
    NextPacket s f slot id qi 0x12 d q payload → (∀ x ∈ d.serving, x.qp ≠ qi) →
    fVa f % 8 = 0 → remoteOk s d q 2 (fVa f) 8 true true = true →
    readVa s d (fVa f) 8 = .ok data → old = BitVec.ofNat 64 (leNat data) → psnsLeft q = true →
    ∃ t q' m, exec (.atomicPacket f) s = .next t ∧ getQp t id qi = some q' ∧ OthersKept id s t ∧
      WrittenAs id (fVa f) (leBytes 8 (atomicValue (fldBe payload 0 1) old (BitVec.ofNat 64 (fldBe payload 8 8))
        (BitVec.ofNat 64 (fldBe payload 16 8))).toNat) s t ∧
      q'.rcvNxt = q.rcvNxt + 1 ∧ q'.inbound = [] ∧ q'.atomics = ((q.rcvNxt, old) :: q.atomics).take 16 ∧
      q'.msgs = q.msgs ++ [m] ∧ m.op = 0x22 ∧ m.data = beBytes 8 old.toNat ∧ m.reqPsn = q.rcvNxt)

/-- SEND_PACKET and FRAGMENT_REQUEST of one packet (R256 to R258, R319): a SEND fills its receive entry and completes it, or
is refused where none is posted; a fragment request that cannot be served is answered with its status, and one that can is in
service from then on, with its records as the chain stands (log 36). -/
def Obligations.InboundMessages : Prop :=
  (∀ (f : Frame) (slot id qi : Nat) (d : Def) (q : Qp) (payload : List Byte) (s : State),
    NextPacket s f slot id qi 0x13 d q payload → recvPlace q (fSendSeq f) = none → queueLeft q.rq = 0 →
    ∃ t q', exec (.sendPacket f) s = .next t ∧ getQp t id qi = some q' ∧ OthersKept id s t ∧ MemoryKept id s t ∧
      q'.rcvNxt = q.rcvNxt ∧ q'.recvs = q.recvs ∧ q'.ctlSent = q.ctlSent + 1) ∧
  (∀ (f : Frame) (slot id qi : Nat) (d : Def) (q : Qp) (rq : Queue) (c : CplRing) (m : Recv) (payload : List Byte)
      (s : State),
    NextPacket s f slot id qi 0x13 d q payload → IdleRings d → NoFragments s slot → q.rq = some rq → q.recvs = [m] →
    m.fin = none → recvPlace q (fSendSeq f) = some 0 → fIndex' f = 0 → fMsgLen f ≤ fullPayload q.conn →
    fMsgLen f ≤ fld m.entry 32 4 → firstDenied s d (fld m.entry 16 6) payload.length true = none →
    mfind d.cpls rq.cpl = some c →
    ∃ t q' p, exec (.sendPacket f) s = .next t ∧ getQp t id qi = some q' ∧ OthersKept id s t ∧
      WrittenAs id (fld m.entry 16 6) payload s t ∧ q'.rcvNxt = q.rcvNxt + 1 ∧ q'.recvs = [] ∧ q'.inbound = [] ∧
      getCpl t id rq.cpl = some { c with waiting := c.waiting ++ [p], reserved := c.reserved - 1 } ∧
      p.source = hRecv qi ∧ p.pos = m.pos ∧ p.status = lateStatusOf s m.entry cOk ∧
      p.result = BitVec.ofNat 64 (fMsgLen f)) ∧
  (∀ (f : Frame) (slot id qi : Nat) (d : Def) (q : Qp) (payload recs : List Byte) (st : Nat) (s : State),
    NextPacket s f slot id qi 0x14 d q payload → (∀ x ∈ d.serving, x.qp ≠ qi) → fIndex' f = 0 →
    fMsgLen f ≤ fullPayload q.conn → 64 ≤ payload.length →
    (if d.state ≠ .running then (0x80, []) else if bit (cnAccess q.conn) 3 = false then (0x15, [])
      else serveBody s d payload) = (st, recs) → psnsLeft q = true →
    (st ≠ 0 → ∃ t q' m, exec (.fragmentRequest f) s = .next t ∧ getQp t id qi = some q' ∧ OthersKept id s t ∧
      MemoryKept id s t ∧ q'.rcvNxt = q.rcvNxt + 1 ∧ q'.inbound = [] ∧ q'.msgs = q.msgs ++ [m] ∧ m.op = 0x24 ∧
      m.reqPsn = q.rcvNxt ∧ m.data.take 10 = payload.take 10 ∧ fldBe m.data 10 1 = st ∧ m.data.length = 32) ∧
    (∀ c parts, st = 0 → readChain s d (fqChain payload) = .ok c → servedParts d payload c = some parts →
      ∃ t q' d', exec (.fragmentRequest f) s = .next t ∧ getQp t id qi = some q' ∧ OthersKept id s t ∧
        MemoryKept id s t ∧ q'.rcvNxt = q.rcvNxt + 1 ∧ q'.inbound = [] ∧ q'.msgs = q.msgs ∧ getDef t id = some d' ∧
        d'.rings = d.rings ∧ d'.serving = d.serving ++ [{
          qp := qi, firstPsn := q.rcvNxt, body := payload, chain := c.va, ents := servedCut c (fqCount payload)
          recs := recs, parts := parts, tile := none }]))

/-- GET_RESP, ATOMIC_RESP and FRAGMENT_RESP of one packet (R178, R257, R259, R318, R320): a response answers its entry and is
placed in the entry's own target; a reply that matches no outstanding fragment is counted and dropped, and `RETRY` asks for
the fragment again 50 µs later. -/
def Obligations.InboundResponses : Prop :=
  (∀ (f : Frame) (slot id qi : Nat) (d : Def) (q : Qp) (m : Msg) (payload : List Byte) (s : State),
    NextPacket s f slot id qi 0x21 d q payload → IdleRings d → NoFragments s slot →
    answered q 0x11 (fReqPsn f) = some m → fIndex' f = 0 → fMsgLen f ≤ fullPayload q.conn →
    payload.take m.len ≠ [] → firstDenied s d (fld m.entry 16 6) (payload.take m.len).length true = none →
    ∃ t q', exec (.getResp f) s = .next t ∧ getQp t id qi = some q' ∧ OthersKept id s t ∧
      WrittenAs id (fld m.entry 16 6) (payload.take m.len) s t ∧ q'.rcvNxt = q.rcvNxt + 1 ∧ q'.inbound = [] ∧
      (∀ x ∈ q'.msgs, x.firstPsn = m.firstPsn → x.answered = true ∧ x.result = BitVec.ofNat 64 m.len)) ∧
  (∀ (f : Frame) (slot id qi : Nat) (d : Def) (q : Qp) (m : Msg) (payload : List Byte) (s : State),
    NextPacket s f slot id qi 0x22 d q payload → IdleRings d → NoFragments s slot →
    answered q 0x12 (fReqPsn f) = some m →
    ((fld m.entry 16 6 = 0 → ∃ t q', exec (.atomicResp f) s = .next t ∧ getQp t id qi = some q' ∧ OthersKept id s t ∧
      MemoryKept id s t ∧ q'.rcvNxt = q.rcvNxt + 1 ∧
      (∀ x ∈ q'.msgs, x.firstPsn = m.firstPsn → x.result = BitVec.ofNat 64 (fldBe payload 0 8))) ∧
    (fld m.entry 16 6 ≠ 0 → firstDenied s d (fld m.entry 16 6) 8 true = none →
      ∃ t q', exec (.atomicResp f) s = .next t ∧ getQp t id qi = some q' ∧ OthersKept id s t ∧
      WrittenAs id (fld m.entry 16 6) (leBytes 8 (fldBe payload 0 8)) s t ∧ q'.rcvNxt = q.rcvNxt + 1 ∧
      (∀ x ∈ q'.msgs, x.firstPsn = m.firstPsn → x.result = BitVec.ofNat 64 (fldBe payload 0 8))))) ∧
  (∀ (f : Frame) (slot id qi : Nat) (d : Def) (q : Qp) (payload : List Byte) (s : State),
    NextPacket s f slot id qi 0x24 d q payload → fIndex' f = 0 → fMsgLen f ≤ fullPayload q.conn →
    (matchReply s id d slot qi payload = none →
      ∃ t q', exec (.fragmentResp f) s = .next t ∧ getQp t id qi = some q' ∧ OthersKept id s t ∧ MemoryKept id s t ∧
        q'.rcvNxt = q.rcvNxt + 1 ∧ t.frags = s.frags ∧ (getSlot t slot).squash = (getSlot s slot).squash + 1) ∧
    (∀ x c, matchReply s id d slot qi payload = some (x, c) → fldBe payload 10 1 = 0x80 →
      ∃ t q', exec (.fragmentResp f) s = .next t ∧ getQp t id qi = some q' ∧ OthersKept id s t ∧ MemoryKept id s t ∧
        q'.rcvNxt = q.rcvNxt + 1 ∧ (getSlot t slot).squash = (getSlot s slot).squash ∧
        t.frags = mput s.frags (fldBe payload 0 2) { x with retryAt := some (now s + 50000) }))

/-- ACK, ABORT and NON_MAELIC_FRAME (R44, R314, R315, R325, R331, R333): an acknowledgement removes what it
covers, an ABORT puts the QP in `ERROR` with reason PEER_ERROR, and what no QP can take is counted by its port. -/
def Obligations.ControlPackets : Prop :=
  (∀ (f : Frame) (slot id qi p : Nat) (d : Def) (q : Qp) (x : List Byte) (s : State), FramePasses s f slot id qi d q →
    p = extendPsn q.ctlSeen (fEpsn f) →
    gcmOpen (linkKeyOf d q).2 (maelicNonce (fNode f) (fSrcQpn f) true (fTry f) p) (f.hdr ++ f.body) [] f.tag =
      some x → q.ctlSeen < p → IdleRings d → NoFragments s slot →
    (fOp f = 0x30 → akFlags f.body = 0 → lostBy q (akCovers q f.body) = [] → psnsLeft q = true →
      ∃ t q', exec (.ack f) s = .next t ∧ getQp t id qi = some q' ∧ OthersKept id s t ∧ MemoryKept id s t ∧
        q'.ctlSeen = p ∧ q'.state = .ready ∧ q'.sent = q.sent.filter (fun y => !akCovers q f.body y) ∧
        q'.rcvNxt = q.rcvNxt ∧ q'.sndNxt = q.sndNxt) ∧
    (fOp f = 0x31 →
      ∃ t q', exec (.abort f) s = .next t ∧ getQp t id qi = some q' ∧ OthersKept id s t ∧ MemoryKept id s t ∧
        q'.state = .error ∧ q'.reason = 0x03 ∧ q'.msgs = [] ∧ q'.sent = [] ∧ q'.recvs = [])) ∧
  (∀ (f : Frame) (slot id qi p : Nat) (d : Def) (q : Qp) (x : List Byte) (s : State), FramePasses s f slot id qi d q →
    fOp f = 0x30 → p = extendPsn q.ctlSeen (fEpsn f) →
    gcmOpen (linkKeyOf d q).2 (maelicNonce (fNode f) (fSrcQpn f) true (fTry f) p) (f.hdr ++ f.body) [] f.tag =
      some x → p ≤ q.ctlSeen →
    ∃ t q', exec (.ack f) s = .next t ∧ getQp t id qi = some q' ∧ MemoryKept id s t ∧
      q' = { q with counts := { q.counts with duplicate := satN 32 q.counts.duplicate 1 } }) ∧
  (∀ (f : Frame) (s : State), operating s = true → f.rxErr = false → f.rxTrunc = false →
    (f.udpPort ≠ 51804 → exec (.nonMaelicFrame f) s = .next { s with xpt := { s.xpt with
      nonMaelic := setNth s.xpt.nonMaelic f.port (fun c => satAdd c 1) } }) ∧
    (f.udpPort = 51804 → exec (.nonMaelicFrame f) s = .next s ∧
      (fOp f = 0x10 → qpByNumber s (fDst f) = none → exec (.putPacket f) s = .next { s with xpt := { s.xpt with
        noQp := setNth s.xpt.noQp f.port (fun c => satAdd c 1) } })))

/-- RX_ERROR_FRAME (R46): a frame with RX_TRUNC is counted as malformed against the QP that its header names, one with RX_ERR
against the port alone; nothing else changes, so neither is acknowledged. -/
def Obligations.DroppedFrames : Prop :=
  (∀ (f : Frame) (s : State), operating s = true →
    (f.rxErr = true → exec (.rxErrorFrame f) s = .next { s with xpt := { s.xpt with
      rxErr := setNth s.xpt.rxErr f.port (fun c => satAdd c 1) } }) ∧
    (f.rxErr = false → f.rxTrunc = true → qpByNumber s (fDst f) = none → exec (.rxErrorFrame f) s = .next s) ∧
    (∀ slot id qi d q, f.rxErr = false → f.rxTrunc = true → qpByNumber s (fDst f) = some (slot, id, d, qi, q) →
      exec (.rxErrorFrame f) s = .next (setQp id qi (fun q => { q with
        counts := { q.counts with malformed := satN 32 q.counts.malformed 1 } }) s)))

/-! ### Tiles and completions -/

/-- TILE_ISSUE (R87, R98, R168, R171, R172, R228, R234, R258, R375): a free lane of a dome takes the next tile of the one
command that has one, with what the watch has brought into drum for it, a routine with its code and arguments loaded anew,
or a tile of a fragment in service; what it reads is charged. A busy lane and a fenced dome take none, nor does a command
with no ready tile, a dome that its partition may not use now, or a lantern of another slot. -/
def Obligations.TileIssued : Prop :=
  (∀ (dome lane slot ring id : Nat) (d : Def) (r : CmdRing) (c : Cmd) (x : Tile) (s : State),
    OneCommand s slot ring id d r c → NoFragments s slot → dome < 16 → lane < 16 → s.domes.fenced.getLsbD dome = false →
    laneBusy s dome lane = false → bit d.grant.domeMask dome = true → (getSlot s slot).held = false →
    0 < share12 s slot dome → ownerNow s (11 + dome) ≠ ownerEmpty →
    (8 ≤ lane → (getSlot s slot).lanes.contains (8 * dome + (lane - 8)) = true) →
    nextTile s d dome (decide (8 ≤ lane)) r = some (c, x) →
    x.state = .waiting ∧ onLanternLane x.kind = decide (8 ≤ lane) ∧
    (isRoutine x.kind = false → ∃ t y, exec (.tileIssue dome lane) s = .next t ∧
      t = { s with defs := t.defs, slots := t.slots } ∧ Charged (some slot) s t ∧
      tileAt t id ring x.idx = some y ∧ y.state = .issued ∧ y.dome = dome ∧ y.lane = lane ∧ y.lantern = none ∧
      (c.tile x.idx = some x → y.asked = x.asked ++ broughtIn s slot c x ∧
        ∀ k, k ∈ y.bad ↔ k ∈ broughtIn s slot c x ∧ markedBad s slot c x k = true) ∧
      MemoryKept id s t) ∧
    (∀ k, x.kind = .routine k → (routineLoad s d c.entry k).1.isNone = true →
      ∃ t y, exec (.tileIssue dome lane) s = .next t ∧
        t = { s with defs := t.defs, slots := t.slots, crcBad := t.crcBad } ∧
        Charged (some slot) s t ∧ tileAt t id ring x.idx = some y ∧ y.state = .issued ∧ y.dome = dome ∧ y.lane = lane ∧
        y.lantern = some (Lantern.start (fld c.entry 36 2) k (fld c.entry 34 2)
          (peek s d (fld c.entry 16 8) (fld c.entry 32 2)) (peek s d (fld c.entry 24 8) 256)) ∧
        MemoryKept id s t)) ∧
  (∀ (dome lane slot ring id : Nat) (d : Def) (r : CmdRing) (c : Cmd) (s : State),
    OneCommand s slot ring id d r c → NoFragments s slot → (∃ x ∈ c.tiles, x.state ≠ .ended) →
    ((nextTile s d dome (decide (8 ≤ lane)) r).isNone = true ∨ bit d.grant.domeMask dome = false ∨
      (getSlot s slot).held = true ∨ share12 s slot dome = 0 ∨ ownerNow s (11 + dome) = ownerEmpty ∨
      (8 ≤ lane ∧ (getSlot s slot).lanes.contains (8 * dome + (lane - 8)) = false)) →
    ∃ t r', exec (.tileIssue dome lane) s = .next t ∧ t = { s with defs := t.defs } ∧
      getDef t id = some { d with rings := [(ring, r')] } ∧ r' = { r with hot := r'.hot, vt := r'.vt }) ∧
  (∀ (dome lane : Nat) (s : State), operating s = true →
    (laneBusy s dome lane = true ∨ s.domes.fenced.getLsbD dome = true ∨ 16 ≤ dome ∨ 16 ≤ lane) →
    exec (.tileIssue dome lane) s = .next s) ∧
  (∀ (dome lane slot id : Nat) (d : Def) (v : Serving) (x : Tile) (s : State), operating s = true → s.defs = [(id, d)] →
    d.slot = some slot → d.state = .running → IdleRings d → NoFragments s slot → dome < 16 → lane < 8 →
    s.domes.fenced.getLsbD dome = false → laneBusy s dome lane = false → bit d.grant.domeMask dome = true →
    (getSlot s slot).held = false → 0 < share12 s slot dome → ownerNow s (11 + dome) ≠ ownerEmpty →
    (∀ p ∈ d.rings, p.2.head = p.2.tail) → d.serving = [v] → v.tile = none → servingTile v = some x →
    drumHeld d dome + x.drum ≤ drumOn d.grant dome →
    ∃ t d', exec (.tileIssue dome lane) s = .next t ∧ t = { s with defs := t.defs, slots := t.slots } ∧
      Charged (some slot) s t ∧ getDef t id = some d' ∧ d' = { d with rings := d'.rings, serving := d'.serving } ∧
      d'.serving = [{ v with tile := some { x with state := .issued, dome := dome, lane := lane } }])

/-- TILE_LOCAL_END (R169, R170, R172, R231, R258, R261): a routine's staged effects take place when its tile ends, an attend
tile with replies outstanding enters `REMOTE_WAIT`, its engine released, and the last tile of a fragment in service sends
its reply (log 36). COMPLETION_WRITE (R83, R85, R98, R123, R146, R147, R406): where the carillon slot carries it on the host
port, the oldest decided completion goes to the next slot of its ring in the host's memory with its phase bit, and its
vector is raised where the entry asks for it or the status is neither OK nor OK_FALLBACK; nothing is written while the slot
is `SCRUBBING`. -/
def Obligations.TileEndsAndCompletions : Prop :=
  (∀ (slot ring tile id i : Nat) (order : List Nat) (d : Def) (r : CmdRing) (c : Cmd) (x : Tile) (l : Lantern) (s : State),
    OneCommand s slot ring id d r c → NoFragments s slot → ring ≠ servedRing d → eOp c.entry = 0x60 →
    c.tile tile = some x → x.idx = tile →
    x.state = .issued → x.kind = .routine i → x.bad = [] → x.lantern = some l → l.result.isSome = true →
    x.noFold = false →
    (∃ y ∈ c.tiles, y.idx ≠ tile ∧ y.state ≠ .ended) →
    (writesFail s d ((l.staged.filter (fun y => y.kind == 0)).map (fun y => (y.addr, y.data.length)))).isNone = true →
    ∃ t y d', exec (.tileLocalEnd slot ring tile order) s = .next t ∧ tileAt t id ring tile = some y ∧ y.state = .ended ∧
      getDef t id = some d' ∧
      t.host = (writeAll id ((l.staged.filter (fun y => y.kind == 0)).map (fun y => (y.addr, y.data))) s).host ∧
      some d'.mem = (getDef (writeAll id ((l.staged.filter (fun y => y.kind == 0)).map (fun y => (y.addr, y.data))) s)
        id).map (·.mem) ∧
      some d'.persist = (getDef (commitShare id l.staged s) id).map (·.persist) ∧
      ((getCur t id ring).map (·.result)) = some (if i = 0 then l.result.getD 0 else c.result)) ∧
  (∀ (slot ring tile id h first count : Nat) (order : List Nat) (d : Def) (r : CmdRing) (c : Cmd) (x : Tile) (s : State),
    OneCommand s slot ring id d r c → NoFragments s slot → ring ≠ servedRing d → c.tile tile = some x → x.idx = tile →
    x.state = .issued → x.kind = .attend h first count → x.lantern = none → x.noFold = false →
    ((attLocal s id d (attOf c) c x.bad (headChain c h) h first count).2).isNone = true →
    x.replies ≠ ((tileEnts (headChain c h) first count).filter (fun e => e.remote)).length →
    ∃ t y, exec (.tileLocalEnd slot ring tile order) s = .next t ∧ tileAt t id ring tile = some y ∧
      y.state = .remoteWait ∧ y.loc = (attLocal s id d (attOf c) c x.bad (headChain c h) h first count).1 ∧
      y.acc = x.acc ∧ MemoryKept id s t ∧
      (getRing t id ring).map (·.vt) = some (r.vt + BitVec.ofNat 64 (x.clocks * 256 / r.weight))) ∧
  (∀ (slot ring tile id : Nat) (order : List Nat) (d : Def) (r : CmdRing) (c : Cmd) (x : Tile) (s : State),
    operating s = true → inSlot s slot = some (id, d) → mfind d.rings ring = some r → r.cur = some c →
    c.tile tile = some x → x.state ≠ .issued → NoRequests d → ring ≠ servedRing d →
    exec (.tileLocalEnd slot ring tile order) s = .next s) ∧
  (∀ (slot id : Nat) (order : List Nat) (d : Def) (q : Qp) (v : Serving) (x : Tile) (s : State), operating s = true →
    inSlot s slot = some (id, d) → getDef s id = some d → d.serving = [v] → v.tile = some x → mfind d.qps v.qp = some q →
    (∀ p ∈ d.qps, p.2.inbound = []) → psnsLeft q = true → 10 ≤ v.body.length →
    (v.parts.length = 1 → ∃ t d' q' m, exec (.tileLocalEnd slot (servedRing d) v.qp order) s = .next t ∧
      t = { s with defs := t.defs, slots := t.slots } ∧ Charged (some slot) s t ∧ getDef t id = some d' ∧
      d' = { d with serving := [], servedVt := d.servedVt + BitVec.ofNat 64 (x.clocks * 2), qps := d'.qps } ∧
      getQp t id v.qp = some q' ∧ q'.msgs = q.msgs ++ [m] ∧ m.op = 0x24 ∧ m.reqPsn = v.firstPsn ∧
      m.data.take 10 = v.body.take 10 ∧ fldBe m.data 10 1 = 0x00 ∧ m.data.drop 32 = v.recs) ∧
    (∀ p p2 rest, v.parts = p :: p2 :: rest → ∃ t, exec (.tileLocalEnd slot (servedRing d) v.qp order) s = .next t ∧
      t = { s with defs := t.defs, slots := t.slots } ∧ Charged (some slot) s t ∧
      getDef t id = some { d with
        serving := [{ v with tile := none, parts := p2 :: rest }]
        servedVt := d.servedVt + BitVec.ofNat 64 (x.clocks * 2) })) ∧
  (∀ (slot cpl id : Nat) (d : Def) (c : CplRing) (p : Pend) (rest : List Pend) (e : List Byte) (s : State),
    operating s = true → inSlot s slot = some (id, d) → getDef s id = some d → mfind d.cpls cpl = some c →
    c.waiting = p :: rest → (c.wcount - c.head).toNat < 2 ^ c.log2 →
    (d.grant.confidential = false ∨ (getFn s (boundFn d)).tdi ≠ .error) → d.state ≠ .scrubbing →
    hostMay s slot (portOf (boundFn d)) 32 = true →
    e = p.entry.getD (entryAt s (boundFn d) p.base p.log2 p.pos) →
    ∃ t, exec (.completionWrite slot cpl) s = .next t ∧
      t = { hostWrite s (boundFn d) (c.base + c.wcount.toNat % 2 ^ c.log2 * 32)
              (completionBytes p e (decide (c.wcount.toNat / 2 ^ c.log2 % 2 = 0))) with
        defs := t.defs, slots := t.slots, outs := t.outs
        fabric := { s.fabric with hostCtl := t.fabric.hostCtl, hostTurns := t.fabric.hostTurns } } ∧ Charged (some slot) s t ∧
      (completionBytes p e (decide (c.wcount.toNat / 2 ^ c.log2 % 2 = 0))).length = 32 ∧ OthersKept id s t ∧
      getDef t id = some { d with cpls := madj d.cpls cpl (fun c => { c with wcount := c.wcount + 1, waiting := rest }) } ∧
      getCpl t id cpl = some { c with wcount := c.wcount + 1, waiting := rest } ∧
      t.outs = (if eIrq e = true ∨ (p.status ≠ cOk ∧ p.status ≠ cOkFallback)
        then .msix (boundFn d) (c.vector % 2048) :: s.outs else s.outs)) ∧
  (∀ (slot cpl id : Nat) (d : Def) (c : CplRing) (s : State), operating s = true → inSlot s slot = some (id, d) →
    mfind d.cpls cpl = some c → (c.waiting = [] ∨ 2 ^ c.log2 ≤ (c.wcount - c.head).toNat ∨
      d.state = .scrubbing ∨ hostMay s slot (portOf (boundFn d)) 32 = false ∨
      (d.grant.confidential = true ∧ (getFn s (boundFn d)).tdi = .error)) →
    exec (.completionWrite slot cpl) s = .next s)

/-! ### The watch and its fragments -/

/-- WATCH_FETCH_ISSUE (R9, R11, R26, R253 to R256, R272): the part of a local entry's page that holds tokens, or a page of a
waiting GEMM tile's tensors (log 73), is read into the lowest granted dome with room, with the three stamps and its class,
and charged at once; a remote entry's fragment takes the lowest free tag and goes out on the entry's QP. WATCH_DATA_ARRIVAL,
WATCH_READ_ABANDON and LOAD_GEN_ABANDON (R25, R26, R284, R375, R508): data is kept only while its load generation, its
chain's epoch and its ring's fragment epoch are what they were at its issue; anything else is dropped and counted. -/
def Obligations.WatchFetches : Prop :=
  (∀ (slot ring head entry id : Nat) (d : Def) (r : CmdRing) (c : Cmd) (x : Tile) (e : ChainEnt) (s : State),
    OneCommand s slot ring id d r c → NoFragments s slot → eOp c.entry = 0x40 → s.fetches = [] → s.frags = [] →
    c.early = [] → tileOfEntry c head entry = some x → watched s d slot ring r c.pos head entry = true →
    x.asked.contains entry = false → x.state ≠ .ended → x.state ≠ .dropped → (headChain c head).ents[entry]? = some e →
    (e.remote = false → x.state = .waiting →
      (firstDenied s d e.addr (pageUsed e.fmt (headChain c head).dim) false).isNone = true →
      ∀ dome, (grantedDomes d.grant).find? (fun k => 65536 ≤ drumSpare s d slot k) = some dome →
      ∃ t, exec (.watchFetchIssue slot ring head entry) s = .next t ∧ Charged (some slot) s t ∧
        t = { s with slots := t.slots, fetches := [(0,
          { slot := slot, ring := ring, pos := c.pos, head := head, entry := entry, chainVa := some (headChain c head).va
            page := e.addr, dome := dome, len := pageUsed e.fmt (headChain c head).dim
            cls := if firstPage c head entry then 3 else classOfEntry s c.entry
            epoch := (headChain c head).epoch, fragEpoch := r.fragEpoch, loadGen := (getSlot s slot).loadGen
            issuedAt := now s, arrived := false, poisoned := false })] }) ∧
    (e.remote = false → (x.state ≠ .waiting ∨
        (firstDenied s d e.addr (pageUsed e.fmt (headChain c head).dim) false).isSome = true ∨
        (∀ k ∈ grantedDomes d.grant, drumSpare s d slot k < 65536)) →
      exec (.watchFetchIssue slot ring head entry) s = .next s) ∧
    (∀ q, e.remote = true → mfind d.qps e.qp = some q → q.state = .ready → psnsLeft q = true →
      (readsFail s d [(qAt (attOf c) head 0, (attOf c).rows * qBytes (attOf c)),
        (metaAt (attOf c) head 0, (attOf c).rows * 16)]).isNone = true →
      ∃ t f q' m, exec (.watchFetchIssue slot ring head entry) s = .next t ∧
        t = { s with defs := t.defs, frags := [(0, f)] } ∧ f.slot = slot ∧ f.ring = ring ∧ f.pos = c.pos ∧
        f.head = head ∧ f.entry = entry ∧ f.qp = e.qp ∧ f.cls = classOfEntry s c.entry ∧
        f.epoch = (headChain c head).epoch ∧
        f.fragEpoch = r.fragEpoch ∧ f.loadGen = (getSlot s slot).loadGen ∧ f.issuedAt = now s ∧ f.retryAt = none ∧
        getQp t id e.qp = some q' ∧ q'.msgs = q.msgs ++ [m] ∧ m.op = 0x14 ∧ m.data = f.body ∧ MemoryKept id s t)) ∧
  (∀ (slot ring tile page dome id va : Nat) (d : Def) (r : CmdRing) (c : Cmd) (s : State),
    OneCommand s slot ring id d r c → eOp c.entry = 0x30 → s.fetches = [] →
    ((tensorAhead s d c).take 32).find? (fun x => x.1 == tile && x.2.1 == page) = some (tile, page, va) →
    (firstDenied s d va 65536 false).isNone = true →
    (grantedDomes d.grant).find? (fun k => 65536 ≤ drumSpare s d slot k) = some dome →
    ∃ t, exec (.watchFetchIssue slot ring tile page) s = .next t ∧ Charged (some slot) s t ∧
      t = { s with slots := t.slots, fetches := [(0,
        { slot := slot, ring := ring, pos := c.pos, head := tile, entry := page, chainVa := none, page := va
          dome := dome, len := 65536, cls := classOfEntry s c.entry, epoch := 0, fragEpoch := r.fragEpoch
          loadGen := (getSlot s slot).loadGen, issuedAt := now s, arrived := false, poisoned := false })] }) ∧
  (∀ (k id : Nat) (f : Fetch) (d : Def) (s : State), operating s = true → mfind s.fetches k = some f →
    f.arrived = false → inSlot s f.slot = some (id, d) →
    stampsHold s d f.slot f.ring f.chainVa f.epoch f.fragEpoch f.loadGen = true →
    ∃ f', exec (.watchDataArrival k) s = .next { s with fetches := mput s.fetches k f' } ∧
      f' = { f with arrived := true, poisoned := (firstPoison s d f.page f.len).isSome }) ∧
  (∀ (k : Nat) (f : Fetch) (s : State), operating s = true → mfind s.fetches k = some f → f.arrived = false →
    (inSlot s f.slot = none ∨ ∃ id d, inSlot s f.slot = some (id, d) ∧
      stampsHold s d f.slot f.ring f.chainVa f.epoch f.fragEpoch f.loadGen = false) →
    ∃ t, exec (.watchDataArrival k) s = .next t ∧ t = { s with fetches := mdrop s.fetches k, slots := t.slots } ∧
      getSlot t f.slot = { getSlot s f.slot with squash := (getSlot s f.slot).squash + 1 } ∧
      (∀ j, j ≠ f.slot → getSlot t j = getSlot s j)) ∧
  (∀ (k : Nat) (f : Fetch) (s : State), operating s = true → mfind s.fetches k = some f →
    (f.arrived = false → exec (.watchReadAbandon k) s = .next { s with fetches := mdrop s.fetches k }) ∧
    (f.arrived = true → exec (.watchReadAbandon k) s = .next s ∧ exec (.watchDataArrival k) s = .next s)) ∧
  (∀ (slot gen : Nat) (s : State), operating s = true →
    ∃ t, exec (.loadGenAbandon slot gen) s = .next t ∧ t = { s with fetches := t.fetches, frags := t.frags } ∧
      (∀ p, p ∈ t.fetches ↔ p ∈ s.fetches ∧ (p.2.arrived = true ∨ p.2.slot ≠ slot ∨ p.2.loadGen.toNat ≠ gen ∨
        now s < p.2.issuedAt + 1000000000)) ∧
      (∀ p, p ∈ t.frags ↔ p ∈ s.frags ∧ (p.2.slot ≠ slot ∨ p.2.loadGen.toNat ≠ gen ∨
        now s < p.2.issuedAt + 1000000000)))

/-- FRAGMENT_RESEND_TIMER, REMOTE_LIMIT_EXPIRY and ARRIVAL_LIMIT_EXPIRY (R259, R260, R264, R345): a fragment goes out again
as it was, and a limit fails its command, which completes `REMOTE_TIMEOUT` once no tile of it runs. -/
def Obligations.RemoteLimits : Prop :=
  (∀ (tag id at_ : Nat) (f : Frag) (d : Def) (c : Cmd) (q : Qp) (s : State), operating s = true →
    mfind s.frags tag = some f → f.retryAt = some at_ → inSlot s f.slot = some (id, d) → getDef s id = some d →
    getCur s id f.ring = some c → c.pos = f.pos → mfind d.qps f.qp = some q → psnsLeft q = true →
    ∃ t q' m, exec (.fragmentResendTimer tag) s = .next t ∧ t = { s with defs := t.defs, frags := t.frags } ∧
      t.frags = mput s.frags tag { f with retryAt := none, sentAt := now s } ∧ getQp t id f.qp = some q' ∧
      q'.msgs = q.msgs ++ [m] ∧ m.op = 0x14 ∧ m.data = f.body ∧ m.pos = none ∧
      (getCur t id f.ring).map (·.resends) = some (c.resends + 1) ∧ MemoryKept id s t) ∧
  (∀ (tag : Nat) (f : Frag) (s : State), operating s = true → mfind s.frags tag = some f → f.retryAt = none →
    exec (.fragmentResendTimer tag) s = .next s) ∧
  (∀ (tag slot ring id : Nat) (f : Frag) (d : Def) (r : CmdRing) (c : Cmd) (x : CplRing) (s : State),
    OneCommand s slot ring id d r c → s.frags = [(tag, f)] → f.slot = slot → f.ring = ring → f.pos = c.pos →
    f.loadGen = (getSlot s slot).loadGen → mfind d.cpls r.cpl = some x →
    ((∃ y ∈ c.tiles, y.state = .issued) → ∃ t c', exec (.remoteLimitExpiry tag) s = .next t ∧ getCur t id ring = some c' ∧
      (c'.failed.map (·.status)) = some cRemoteTimeout ∧ (c'.failed.map (·.detail)) = some f.qp ∧ t.frags = [] ∧
      (∀ y ∈ c'.tiles, y.state ≠ .waiting ∧ y.state ≠ .remoteWait) ∧ MemoryKept id s t) ∧
    ((∀ y ∈ c.tiles, y.state ≠ .issued) → ∃ t p x', exec (.remoteLimitExpiry tag) s = .next t ∧
      getCur t id ring = none ∧
      getCpl t id r.cpl = some x' ∧ x'.waiting = x.waiting ++ [p] ∧ p.source = ring ∧ p.pos = c.pos ∧
      p.status = cRemoteTimeout ∧ p.detail = f.qp ∧ t.frags = [])) ∧
  (∀ (slot ring id : Nat) (d : Def) (r : CmdRing) (c : Cmd) (fl : Fail) (s : State), operating s = true →
    s.defs = [(id, d)] → d.slot = some slot → d.state = .running → d.rings = [(ring, r)] → r.state = .active →
    r.fall = none → r.cur = some c → r.nxt = none → c.began = true → c.failed = none → isXform c = true →
    NoFragments s slot → (∃ y ∈ c.tiles, y.state = .issued) →
    (∀ k, k < (parseXform c.entry c.desc).chunks → c.ready.contains k = true ∨
      (((parseXform c.entry c.desc).blocker d k).isSome = true)) →
    (parseXform c.entry c.desc).abandoned d c.ready = none → arrivalFail d c = some fl →
    fl.status = cRemoteTimeout ∧
    ∃ t c', exec (.arrivalLimitExpiry slot ring) s = .next t ∧ getCur t id ring = some c' ∧ c'.failed = some fl ∧
      (∀ y ∈ c'.tiles, y.state ≠ .waiting) ∧ MemoryKept id s t)

/-! ### Lantern routines -/

/-- QREAD, QWRITE, QDRUM_LD, QDRUM_ST, QDRUM_ADD, QEXIT, the QCRC operations and LANTERN_CLOCK_LIMIT (R229, R231, R235,
R354, R355, R360, R363): copies and stores of a routine, the stores staged until its tile ends; rs2 selects the QCRC
operation in whichever row it comes, and the unit's remainder follows the bytes fed, lowest first; an operand out of range,
a reserved one, the result of a remainder with a parity error, and a run beyond 100,000 clocks trap. -/
def Obligations.LanternRoutines : Prop :=
  (∀ (u : LRef) (a b : Word) (r : Running) (s : State), Runs s u r → copyOk r.l a b = true →
    localOk dataBase b = true → readsFail s r.d [(a.toNat, copyLen b)] = none →
    LanternTakes (.qread u a b) s u r { r.l with
      mem := writeBytes r.l.mem (copyLocal b) (peek s r.d a.toNat (copyLen b)), rd := 0 }) ∧
  (∀ (u : LRef) (a b : Word) (r : Running) (s : State), Runs s u r → copyOk r.l a b = true →
    localOk argsBase b = true → r.l.stagedBytes + copyLen b ≤ 131072 →
    LanternTakes (.qwrite u a b) s u r { r.l with
      staged := r.l.staged ++
        [{ kind := 0, addr := a.toNat, data := readBytes r.l.mem (copyLocal b) (copyLen b) }]
      stagedBytes := r.l.stagedBytes + copyLen b, rd := 0 }) ∧
  (∀ (u : LRef) (a b : Word) (r : Running) (s : State), Runs s u r → a.toNat % 8 = 0 →
    a.toNat < r.d.grant.persistKib * 1024 →
    LanternTakes (.qdrumLd u a) s u r { r.l with rd := BitVec.ofNat 64 (leNat (readBytes r.d.persist a.toNat 8)) } ∧
    (r.l.stagedBytes + 8 ≤ 131072 →
      LanternTakes (.qdrumSt u a b) s u r { r.l with
        staged := r.l.staged ++ [{ kind := 1, addr := a.toNat, data := leBytes 8 b.toNat }]
        stagedBytes := r.l.stagedBytes + 8 } ∧
      LanternTakes (.qdrumAdd u a b) s u r { r.l with
        staged := r.l.staged ++ [{ kind := 2, addr := a.toNat, data := leBytes 8 b.toNat }]
        stagedBytes := r.l.stagedBytes + 8 })) ∧
  (∀ (u : LRef) (a : Word) (r : Running) (s : State), Runs s u r →
    LanternTakes (.qexit u a) s u r { r.l with result := some a, mode := .machine }) ∧
  (∀ (u : LRef) (a b : Word) (r : Running) (s : State), Runs s u r → r.d.state = .running →
    (copyOk r.l a b = false → Traps (.qread u a b) s r ∧ Traps (.qwrite u a b) s r) ∧
    ((a.toNat % 8 ≠ 0 ∨ r.d.grant.persistKib * 1024 ≤ a.toNat) →
      Traps (.qdrumLd u a) s r ∧ Traps (.qdrumSt u a b) s r ∧ Traps (.qdrumAdd u a b) s r)) ∧
  (∀ (u : LRef) (a b : Word) (s : State), running s u = none →
    exec (.qread u a b) s = .next s ∧ exec (.qwrite u a b) s = .next s ∧ exec (.qexit u a) s = .next s) ∧
  (∀ (i : Instr) (u : LRef) (a b : Word) (r : Running) (s : State), QcrcRow i u a b → Runs s u r → b.toNat < 128 →
    b.toNat % 16 = 0 → r.l.clocks + (if b.toNat.testBit 6 then 9 else 1) ≤ 100000 →
    LanternTakesWith (s.crcBad.filter (· != crcLaneU r.t.dome r.t.lane)) i s u r { r.l with
      crcU := CrcCtx.init (b.toNat / 16 % 4) (b.toNat.testBit 6) a, rd := 0
      clocks := r.l.clocks + (if b.toNat.testBit 6 then 9 else 1) }) ∧
  (∀ (i : Instr) (u : LRef) (a b : Word) (r : Running) (s : State), QcrcRow i u a b → Runs s u r →
    (b = 1 → r.l.clocks + 1 ≤ 100000 → LanternTakes i s u r { r.l with
      crcU := r.l.crcU.feed [BitVec.ofNat 8 a.toNat], rd := 0, clocks := r.l.clocks + 1 }) ∧
    (b = 2 → r.l.clocks + 2 ≤ 100000 → LanternTakes i s u r { r.l with
      crcU := (r.l.crcU.feed [BitVec.ofNat 8 a.toNat]).feed [BitVec.ofNat 8 (a.toNat / 256)], rd := 0
      clocks := r.l.clocks + 2 }) ∧
    (b = 3 → r.l.clocks + 4 ≤ 100000 → LanternTakes i s u r { r.l with
      crcU := ((r.l.crcU.feed (leBytes 2 a.toNat)).feed [BitVec.ofNat 8 (a.toNat / 65536)]).feed
        [BitVec.ofNat 8 (a.toNat / 16777216)]
      rd := 0, clocks := r.l.clocks + 4 }) ∧
    (b = 4 → r.l.clocks ≤ 100000 → s.crcBad.contains (crcLaneU r.t.dome r.t.lane) = false →
      LanternTakes i s u r { r.l with rd := r.l.crcU.value }) ∧
    (b = 4 → r.d.state = .running → s.crcBad.contains (crcLaneU r.t.dome r.t.lane) = true → Traps i s r)) ∧
  (∀ (i : Instr) (u : LRef) (a b : Word) (r : Running) (s : State), QcrcRow i u a b → Runs s u r → r.d.state = .running →
    (128 ≤ b.toNat ∨ 4 < b.toNat % 16 ∨ (b.toNat % 16 ≠ 0 ∧ 16 ≤ b.toNat)) → Traps i s r) ∧
  (∀ (u : LRef) (r : Running) (s : State), Runs s u r → r.d.state = .running → Traps (.lanternClockLimit u) s r) ∧
  (∀ (u : LRef) (s : State), running s u = none → exec (.lanternClockLimit u) s = .next s)

/-! ### The vault -/

/-- MEMORY_READ, MEMORY_WRITE and DEBUG_ACCESS (R11, R13, R84, R85, R367 to R370, R374 to R378, R384, R385): a request that
the present carillon slot carries is served at once and one that it does not waits; a read returns the bytes or `POISONED`,
a write of whole sectors replaces the bytes and clears their poison, a shared window reaches the reserve, and a request
outside its label's lines is refused with memory unchanged. A line that the stack returns changed is decrypted as it comes,
and its tag is checked; one with two symbols in error in a sector is poisoned. An engine's request to memory that is not
populated has no effect the manual gives, and stops; that a reserved label has no effect is the model's choice (log 61). -/
def Obligations.VaultAccess : Prop :=
  (∀ (m : MemReq) (id : Nat) (d : Def) (s : State), operating s = true → m.label < 64 → m.window = false →
    inSlot s m.label = some (id, d) → getDef s id = some d → inOffsets d m.addr m.len = true →
    CarriedNow s (waitOf s .read m) →
    (rangePoisoned d m.addr m.len = false → CleanLines m.found →
      ∃ t d', exec (.memoryRead m) s = .next t ∧ t = { servedIn s t with
          defs := t.defs, outs := .memory m.label stOk (readBytes d.mem m.addr m.len) :: s.outs } ∧
        t.fabric.waiting = [] ∧ portOfLine s (blockAddr d m.addr) ∉ t.power.refreshing ∧ OthersKept id s t ∧
        getDef t id = some d' ∧ d' = { d with early := d'.early, poison := d'.poison } ∧
        (d.uninit = [] → t.defs = s.defs)) ∧
    (∀ f line tag off, rangePoisoned d m.addr m.len = false → m.found = [f] → f.line < lineCount m.addr m.len →
      off = m.addr / 256 * 256 + f.line * 256 → (∀ x ∈ f.errs, x = 0) → f.stored = .other line tag →
      d.grant.confidential = true → checkTag (lineKey s d off) (lineIndex d off) line tag = .ok →
      ∃ t d', exec (.memoryRead m) s = .next t ∧ t = { servedIn s t with defs := t.defs, outs := t.outs } ∧
        OthersKept id s t ∧ getDef t id = some d' ∧
        d' = { d with
          early := d'.early, poison := d'.poison
          mem := writeBytes d.mem off (decLine (lineKey s d off) (lineIndex d off) line) } ∧
        t.outs = .memory m.label stOk (readBytes d'.mem m.addr m.len) :: s.outs) ∧
    (rangePoisoned d m.addr m.len = true → d.uninit = [] → CleanLines m.found →
      ∃ t, exec (.memoryRead m) s = .next t ∧ t = { servedIn s t with outs := .memory m.label stPoisoned [] :: s.outs }) ∧
    (∀ f off, d.state = .running → IdleRings d → s.flt.safe = false → s.vault.eccUnc ≠ 2 → m.found = [f] →
      f.line < lineCount m.addr m.len → off = m.addr / 256 * 256 + f.line * 256 → linePoisoned d off = false →
      2 ∈ f.errs →
      ∃ t d', exec (.memoryRead m) s = .next t ∧ .memory m.label stPoisoned [] ∈ t.outs ∧ getDef t id = some d' ∧
        linePoisoned d' off = true ∧ d'.mem = d.mem ∧ d'.state = .faulted)) ∧
  (∀ (m : MemReq) (bs : List Byte) (id : Nat) (d : Def) (s : State), operating s = true → m.label < 64 →
    m.window = false → inSlot s m.label = some (id, d) → getDef s id = some d → inOffsets d m.addr bs.length = true →
    CarriedNow s (waitOf s (.write bs) m) → CleanMerges d.grant.confidential m.addr bs.length m.found → d.dirty = none →
    ∃ t d', exec (.memoryWrite m bs) s = .next t ∧
      t = { servedIn s t with defs := t.defs, outs := .memory m.label stOk [] :: s.outs } ∧ OthersKept id s t ∧
      getDef t id = some d' ∧ d' = { d with
        early := d'.early, poison := d'.poison, mem := writeBytes d.mem m.addr bs } ∧
      (∀ x ∈ d'.poison, x ∈ d.poison ∧ coveredSectors d.grant m.addr bs.length x = false) ∧
      (d.uninit = [] → d'.early = d.early ∧
        d'.poison = d.poison.filter (fun x => !coveredSectors d.grant m.addr bs.length x))) ∧
  (∀ (m : MemReq) (bs : List Byte) (id : Nat) (d : Def) (s : State), operating s = true → m.label < 64 →
    m.window = false → inSlot s m.label = some (id, d) → s.fabric.waiting = [] →
    (inOffsets d m.addr m.len = true → mayServe (rollSlot s) (waitOf s .read m) = false →
      ∃ t, exec (.memoryRead m) s = .next t ∧ t = servedIn s t ∧ t.slots = s.slots ∧
        t.fabric.waiting = [waitOf s .read m]) ∧
    (inOffsets d m.addr bs.length = true → mayServe (rollSlot s) (waitOf s (.write bs) m) = false →
      ∃ t, exec (.memoryWrite m bs) s = .next t ∧ t = servedIn s t ∧ t.slots = s.slots ∧
        t.fabric.waiting = [waitOf s (.write bs) m])) ∧
  (∀ (m : MemReq) (bs : List Byte) (s : State), operating s = true → m.label < 64 → m.window = true →
    (inSharedWindow s m.label m.addr m.len = true → CarriedNow s (waitOf s .read m) → CleanLines m.found →
      ∃ t, exec (.memoryRead m) s = .next t ∧ t = { servedIn s t with
        outs := .memory m.label stOk (readBytes s.vault.reserve m.addr m.len) :: s.outs }) ∧
    (inSharedWindow s m.label m.addr bs.length = true → CarriedNow s (waitOf s (.write bs) m) →
      CleanMerges true m.addr bs.length m.found →
      ∃ t, exec (.memoryWrite m bs) s = .next t ∧ t = { servedIn s t with
        vault := { s.vault with reserve := writeBytes s.vault.reserve m.addr bs }
        outs := .memory m.label stOk [] :: s.outs })) ∧
  (∀ (m : MemReq) (bs : List Byte) (s : State), operating s = true → m.label < 64 →
    ((m.window = false ∧ inSlot s m.label = none) ∨ (m.window = true ∧ (getSlot s m.label).windows = [])) → Clear 12 s →
    (∃ t, exec (.memoryRead m) s = .next t ∧ t.defs = s.defs ∧ t.host = s.host ∧
      .memory m.label stAccessDenied [] ∈ t.outs ∧ (getBlock t 12).head = (getBlock s 12).head + 1) ∧
    (∃ t, exec (.memoryWrite m bs) s = .next t ∧ t.defs = s.defs ∧ t.host = s.host ∧
      .memory m.label stAccessDenied [] ∈ t.outs ∧ (getBlock t 12).head = (getBlock s 12).head + 1)) ∧
  (∀ (m : MemReq) (bs : List Byte) (s : State), operating s = true → m.label = 0x40 →
    (inReserve m.addr m.len = true → CarriedNow s (waitOf s .read m) → CleanLines m.found →
      ∃ t, exec (.memoryRead m) s = .next t ∧ t = { servedIn s t with
        outs := .memory 0x40 stOk (readBytes s.vault.reserve m.addr m.len) :: s.outs }) ∧
    (inReserve m.addr bs.length = true → CarriedNow s (waitOf s (.write bs) m) →
      CleanMerges true m.addr bs.length m.found →
      ∃ t, exec (.memoryWrite m bs) s = .next t ∧ t = { servedIn s t with
        vault := { s.vault with reserve := writeBytes s.vault.reserve m.addr bs }
        outs := .memory 0x40 stOk [] :: s.outs })) ∧
  (∀ (m : MemReq) (bs : List Byte) (s : State), operating s = true → (m.label = 0x41 ∨ 0x44 ≤ m.label) →
    exec (.memoryRead m) s = .next s ∧ exec (.memoryWrite m bs) s = .next s) ∧
  (∀ (m : MemReq) (data : Option (List Byte)) (s : State), operating s = true → s.keep.confLock = true → Clear 7 s →
    ∃ t, exec (.debugAccess m data) s = .next t ∧ t = { s with faults := t.faults, outs := t.outs } ∧
      .debug stAccessDenied [] ∈ t.outs ∧ Recorded 7 0x0706 .corrected (BitVec.ofNat 64 (m.addr / 256)) s t) ∧
  (∀ (m : MemReq) (bs : List Byte) (id sl off : Nat) (d : Def) (s : State), operating s = true → getDef s id = some d →
    inSlot s sl = some (id, d) → d.slot = some sl → d.uninit = [] →
    (debugTarget s m.addr m.len = some (id, off) → CarriedNow s (waitOf s .debugRead { m with label := 0x42 }) →
      rangePoisoned d off m.len = false → CleanLines m.found →
      ∃ t, exec (.debugAccess m none) s = .next t ∧ t.slots = s.slots ∧
        t = { servedIn s t with outs := .debug stOk (readBytes d.mem off m.len) :: s.outs }) ∧
    (debugTarget s m.addr bs.length = some (id, off) →
      CarriedNow s (waitOf s (.debugWrite bs) { m with label := 0x42 }) →
      CleanMerges d.grant.confidential off bs.length m.found →
      ∃ t, exec (.debugAccess m (some bs)) s = .next t ∧ t.slots = s.slots ∧
        t = { servedIn s t with defs := t.defs, outs := .debug stOk [] :: s.outs } ∧ OthersKept id s t ∧
        getDef t id = some { d with
          mem := writeBytes d.mem off bs
          poison := d.poison.filter (fun x => !coveredSectors d.grant off bs.length x) })) ∧
  (∀ (m : MemReq) (bs : List Byte) (s : State), operating s = true → m.label = 0x43 →
    (populated s m.addr m.len = false → exec (.memoryRead m) s = .fault (.noSuchMemory m.addr)) ∧
    (populated s m.addr bs.length = false → exec (.memoryWrite m bs) s = .fault (.noSuchMemory m.addr)))

/-- PATROL_START, REKEY_PAGE_DONE and REKEY_WALK_COMPLETE (R378, R381, R382, R388): a patrol runs on every populated port,
and ends on a port with its last line; the boundary follows the pages done in flight; at the end of the walk the new version
is current and the old one destroyed. MEMORY_READ, MEMORY_WRITE and DEBUG_ACCESS in an `OPEN` memory slot that nothing else
has used (R84, R85, R385): the request is served at once. -/
def Obligations.RekeyAndPatrol : Prop :=
  (∀ s : State, operating s = true → s.vault.ports.length = 8 →
    ∃ t, exec .patrolStart s = .next t ∧ t = { s with vault := { s.vault with ports := t.vault.ports } } ∧
      ∀ p, p < 8 → nth t.vault.ports p VltPort.reset =
        { nth s.vault.ports p VltPort.reset with
          patrol := decide (p < ports s) || (nth s.vault.ports p VltPort.reset).patrol }) ∧
  (∀ (m : MemReq) (s : State), operating s = true → m.label = 0x43 → populated s m.addr m.len = true →
    CarriedNow s (waitOf s .read m) → CleanLines m.found → s.vault.ports.length = 8 →
    ∃ t, exec (.memoryRead m) s = .next t ∧
      t = { servedIn s t with vault := { s.vault with ports := t.vault.ports } } ∧
      ∀ p last, p < 8 → last = ports s * s.boot.stackGib * 4194304 - ports s + p →
        nth t.vault.ports p VltPort.reset = { nth s.vault.ports p VltPort.reset with
          patrol := (nth s.vault.ports p VltPort.reset).patrol && !(decide (p < ports s) && decide (0 < m.len) &&
            decide (m.addr / 256 ≤ last) && decide (last ≤ (m.addr + m.len - 1) / 256)) }) ∧
  (∀ (m : MemReq) (bs : List Byte) (id : Nat) (d : Def) (s : State), operating s = true → m.label < 64 →
    m.window = false → m.found = [] → inSlot s m.label = some (id, d) → getDef s id = some d → d.uninit = [] →
    d.rotation = none → d.dirty = none → d.poison = [] → s.fabric.waiting = [] → s.fabric.slotNo ≠ now s / 128 →
    ownerNow s 0 = ownerOpen →
    (m.addr + m.len ≤ memUsable d.grant → ∃ t, exec (.memoryRead m) s = .next t ∧ t.defs = s.defs ∧ t.host = s.host ∧
      t.outs = .memory m.label stOk (readBytes d.mem m.addr m.len) :: s.outs) ∧
    (m.addr + bs.length ≤ memUsable d.grant → ∃ t, exec (.memoryWrite m bs) s = .next t ∧ t.host = s.host ∧
      t.outs = .memory m.label stOk [] :: s.outs ∧ OthersKept id s t ∧
      getDef t id = some { d with mem := writeBytes d.mem m.addr bs })) ∧
  (∀ (m : MemReq) (bs : List Byte) (id sl off : Nat) (d : Def) (s : State), operating s = true → m.found = [] →
    inSlot s sl = some (id, d) → getDef s id = some d → d.slot = some sl → d.uninit = [] → d.rotation = none →
    d.poison = [] → s.fabric.waiting = [] → s.fabric.slotNo ≠ now s / 128 → ownerNow s 0 = ownerOpen →
    (debugTarget s m.addr m.len = some (id, off) → ∃ t, exec (.debugAccess m none) s = .next t ∧ t.defs = s.defs ∧
      t.host = s.host ∧ t.outs = .debug stOk (readBytes d.mem off m.len) :: s.outs) ∧
    (debugTarget s m.addr bs.length = some (id, off) → ∃ t, exec (.debugAccess m (some bs)) s = .next t ∧
      t.host = s.host ∧ t.outs = .debug stOk [] :: s.outs ∧ OthersKept id s t ∧
      getDef t id = some { d with mem := writeBytes d.mem off bs })) ∧
  (∀ (slot id page : Nat) (d : Def) (r : Rotation) (found : List LineFound) (s : State), operating s = true →
    inSlot s slot = some (id, d) →
    getDef s id = some d → d.rotation = some r → r.walking = true → r.doneInFlight = [] → page < r.pages →
    r.boundary ≤ page → page ≤ r.boundary + 7 → CleanLines found →
    ∃ t, exec (.rekeyPageDone slot page found) s = .next t ∧ t = { s with defs := t.defs, slots := t.slots } ∧
      OthersKept id s t ∧ Charged (some slot) s t ∧ getDef t id = some { d with rotation := some (if page = r.boundary
        then { r with boundary := r.boundary + 1 } else { r with doneInFlight := [page] }) }) ∧
  (∀ (slot id page : Nat) (d : Def) (found : List LineFound) (s : State), operating s = true →
    inSlot s slot = some (id, d) →
    (d.rotation = none → exec (.rekeyPageDone slot page found) s = .next s ∧
      exec (.rekeyWalkComplete slot) s = .next s) ∧
    (∀ r, d.rotation = some r →
      (page < r.boundary ∨ r.boundary + 7 < page ∨ r.pages ≤ page → exec (.rekeyPageDone slot page found) s = .next s) ∧
      (r.boundary < r.pages → exec (.rekeyWalkComplete slot) s = .next s))) ∧
  (∀ (slot id : Nat) (d : Def) (r : Rotation) (s : State), operating s = true → inSlot s slot = some (id, d) →
    getDef s id = some d → d.rotation = some r → r.walking = true → r.pages ≤ r.boundary →
    ∃ t d', exec (.rekeyWalkComplete slot) s = .next t ∧ getDef t id = some d' ∧ OthersKept id s t ∧ t.host = s.host ∧
      d' = { d with rotation := none, keyVersion := r.toVersion, destroyed := r.toVersion - 1
                    updateSeq := d'.updateSeq, updatedAt := d'.updatedAt } ∧
      getSlot t slot = { getSlot s slot with keyCurrent := (getSlot s slot).keyNext, keyNext := none } ∧
      (∀ j, j ≠ slot → getSlot t j = getSlot s j))

/-! ### Power, heat and the module -/

/-- POWER_SAMPLE, PEAK_CREDIT_EXHAUSTED, PEAK_CREDIT_FULL, ENVELOPE_RAISE, POWER_WINDOW_END, WEAR_RATED and
POWER_BUDGET_EXHAUSTED (R447, R448, R455 to R458). A sample brings each resident slot its share of the static power and the
energy metered of it (log 82). The target of a step down with no dome power is a free value (log 4). -/
def Obligations.PowerLoop : Prop :=
  (∀ (p pd : Nat) (s : State), alive s = true → s.flt.safe = false → s.boot.stage ≠ .stopped →
    s.power.wearExceeded = true →
    ∃ t, exec (.powerSample p pd []) s = .next t ∧
      t = { s with power := t.power, freeCtr := t.freeCtr, slots := t.slots, life := { s.life with acc := { s.life.acc with
        peakNs := if 420000 < p then satN 64 s.life.acc.peakNs 128 else s.life.acc.peakNs } } } ∧
      (∀ k, getSlot t k = { getSlot s k with
        energy := (getSlot t k).energy, energy100 := (getSlot t k).energy100, held := (getSlot t k).held }) ∧
      t.power.credit = (if 420000 < p then s.power.credit - 1280 else min (s.power.credit + 128) 400000000) ∧
      t.power.clock = min (min t.power.ftarget t.power.thermal)
        (min t.power.freqCap (if throttled s then 400 else t.power.freqCap)) ∧
      t.power.winSum = s.power.winSum + p ∧ t.power.winN = s.power.winN + 1 ∧
      (s.power.envelope = false → t.power.credit ≠ 0 → t.power.envelope = false ∧ t.power.ftarget = s.power.freqCap) ∧
      (s.power.envelope = false → t.power.credit = 0 → t.power.envelope = true) ∧
      (s.power.envelope = true → 420000 < p → 0 < pd →
        t.power.ftarget = max 400 (s.power.clock * (420000 - (p - pd)) / pd / 25 * 25))) ∧
  (∀ (p pd id sl e : Nat) (d : Def) (s : State), alive s = true → s.flt.safe = false → s.boot.stage ≠ .stopped →
    s.power.wearExceeded = true → s.defs = [(id, d)] → d.slot = some sl →
    ∃ t, exec (.powerSample p pd [(sl, e)]) s = .next t ∧
      (getSlot t sl).energy = (getSlot s sl).energy + staticShare s d.grant * 128 + e) ∧
  (∀ (p pd : Nat) (s : State), alive s = true → s.flt.safe = false → s.boot.stage ≠ .stopped →
    (s.power.envelope = false → 420000 < p → s.power.credit ≤ 1280 →
      ∃ t, exec (.peakCreditExhausted p pd) s = .next t ∧ t.power.credit = 0 ∧ t.power.envelope = true ∧ t.defs = s.defs ∧
        t.host = s.host) ∧
    (s.power.envelope = true ∨ p ≤ 420000 ∨ 1280 < s.power.credit → exec (.peakCreditExhausted p pd) s = .next s) ∧
    (s.power.envelope = true → s.power.peakDisable = false → 400000000 ≤ s.power.credit + 128 →
      exec .peakCreditFull s = .next { s with power := { s.power with credit := 400000000, envelope := false } }) ∧
    (s.power.envelope = false ∨ s.power.peakDisable = true → exec .peakCreditFull s = .next s)) ∧
  (∀ (x : Nat) (s : State), alive s = true → s.flt.safe = false → s.boot.stage ≠ .stopped →
    (s.power.envelope = true → s.power.roomSince = some x → x + 100000 ≤ now s → s.power.lastRaise + 100000 ≤ now s →
      ∃ t, exec .envelopeRaise s = .next t ∧ t = { s with power := { s.power with
        ftarget := min (s.power.ftarget + 25) s.power.freqCap, lastRaise := now s, clock := t.power.clock } }) ∧
    (s.power.envelope = false ∨ s.power.roomSince = none → exec .envelopeRaise s = .next s)) ∧
  (∀ s : State, operating s = true → s.defs = [] → exec .powerWindowEnd s = .next { s with power := { s.power with
    winW := (if s.power.winN = 0 then 0 else s.power.winSum / s.power.winN / 5000 * 5), winSum := 0, winN := 0 } }) ∧
  (∀ s : State, alive s = true →
    (s.power.wearExceeded = true ∨ (s.life.acc.peakNs < 18000000 * 10 ^ 9 ∧ s.life.acc.hotNs < 3600000 * 10 ^ 9) →
      exec .wearRated s = .next s) ∧
    (s.power.wearExceeded = false → 18000000 * 10 ^ 9 ≤ s.life.acc.peakNs ∨ 3600000 * 10 ^ 9 ≤ s.life.acc.hotNs →
      Clear 6 s →
      ∃ t, exec .wearRated s = .next t ∧ Recorded 6 0x0606 .corrected 0 s t ∧
        t = { s with power := { s.power with wearExceeded := true }, faults := t.faults, outs := t.outs })) ∧
  (∀ (slot id : Nat) (d : Def) (s : State), operating s = true → inSlot s slot = some (id, d) →
    (d.grant.powerBudget ≠ 0 → (getSlot s slot).held = false →
      d.grant.powerBudget * 5000 * 1048576 ≤ (getSlot s slot).energy →
      ∃ t, exec (.powerBudgetExhausted slot) s = .next t ∧ getSlot t slot = { getSlot s slot with held := true } ∧
        (∀ j, j ≠ slot → getSlot t j = getSlot s j) ∧
        t = { s with slots := t.slots, power := { s.power with
          budgetHit := s.power.budgetHit ||| BitVec.ofNat 64 (2 ^ slot) } }) ∧
    (d.grant.powerBudget = 0 ∨ (getSlot s slot).energy < d.grant.powerBudget * 5000 * 1048576 →
      exec (.powerBudgetExhausted slot) s = .next s))

/-- THERMAL_SENSOR_READ, THERMAL_LIMIT_STEP, HBM_TEMP_POLL, SELF_REFRESH_ENTRY, PMBUS_POLL, PMB_ALERT and MAC_STATS_POLL
(R50, R70, R450 to R453, R480): a trip at 115 °C needs two readings one after the other; the limit rises by 25 MHz a step
(log 81), and the safe state leaves it as it was. -/
def Obligations.HeatAndModule : Prop :=
  (∀ (temps : List Nat) (s : State), alive s = true → s.power.wearExceeded = true →
    (hottest temps ≤ 100 → ∃ t, exec (.thermalSensorRead temps) s = .next t ∧
      t = { s with power := { s.power with temps := temps, hotReadings := 0 } }) ∧
    (100 < hottest temps → hottest temps < 115 → hottest s.power.temps ≤ 100 → Clear 6 s →
      ∃ t, exec (.thermalSensorRead temps) s = .next t ∧
        (s.flt.safe = false → t.power.thermalHot = true ∧ t.power.thermal = s.power.clock) ∧
        (s.flt.safe = true → t.power.thermalHot = s.power.thermalHot ∧ t.power.thermal = s.power.thermal) ∧
        t.life.acc.hotNs = satN 64 s.life.acc.hotNs 10000 ∧ t.flt.safe = s.flt.safe ∧
        Recorded 6 0x0600 .corrected 0 s t) ∧
    (115 ≤ hottest temps → 1 ≤ s.power.hotReadings →
      ∃ t, exec (.thermalSensorRead temps) s = .next t ∧ t.flt.safe = true)) ∧
  (∀ s : State, alive s = true → s.flt.safe = false → s.boot.stage ≠ .stopped →
    (s.power.thermalHot = false → (Config.binTop ≤ s.power.thermal ∨ 97 < hottest s.power.temps) →
      exec .thermalLimitStep s = .next s) ∧
    (hottest s.power.temps ≤ 97 → (s.power.thermalHot = true ∨ s.power.thermal < Config.binTop) →
      ∃ t, exec .thermalLimitStep s = .next t ∧ t = { s with power := { s.power with
        thermal := t.power.thermal, thermalHot := t.power.thermalHot, clock := t.power.clock } } ∧
        t.power.thermal = max s.power.thermal (min (s.power.thermal + 25) Config.binTop) ∧
        (t.power.thermalHot = true ↔ t.power.thermal < min s.power.ftarget s.power.freqCap) ∧
        t.power.clock ≤ t.power.thermal) ∧
    (s.power.thermalHot = true → 100 < hottest s.power.temps →
      ∃ t, exec .thermalLimitStep s = .next t ∧ t = { s with power := { s.power with
        thermal := max 400 (s.power.thermal - 25), clock := t.power.clock } } ∧ t.power.clock ≤ t.power.thermal) ∧
    (s.power.thermalHot = true → 97 < hottest s.power.temps → hottest s.power.temps ≤ 100 →
      exec .thermalLimitStep s = .next s)) ∧
  (∀ (temps : List Nat) (s : State), operating s = true → Clear 6 s →
    ((∀ p, p < ports s → nth temps p 0 ≤ 95) →
      ∃ t, exec (.hbmTempPoll temps) s = .next t ∧ t = { s with
          power := { s.power with
            hbmTemps := (List.range (ports s)).map (fun p => nth temps p 0), hbmHot := []
            refresh := (List.range (ports s)).map (fun p => Config.refreshRate (nth temps p 0)) }
          outs := t.outs } ∧
        ∀ p, p < ports s → .refresh p (Config.refreshRate (nth temps p 0)) ∈ t.outs) ∧
    (∀ p, p < ports s → 95 < nth temps p 0 → (∀ k, k ≠ p → nth temps k 0 ≤ 95) → s.power.hbmHot = [] →
      ∃ t, exec (.hbmTempPoll temps) s = .next t ∧ t.power.hbmHot = [p] ∧
        Recorded 6 0x0602 .corrected (BitVec.ofNat 64 p) s t)) ∧
  (∀ (port : Nat) (s : State), operating s = true →
    (port < ports s → memoryIdle s = true → exec (.selfRefreshEntry port) s = .next { s with power := { s.power with
      refreshing := insNat port s.power.refreshing } }) ∧
    (memoryIdle s = false → exec (.selfRefreshEntry port) s = .next s)) ∧
  (∀ (v w : BitVec 16) (s : State), alive s = true → s.boot.convs = 1 → Clear 6 s → s.power.rangeOut = [] →
    (vinOut v = false → ∃ t, exec (.pmbusPoll [(some v, some w)]) s = .next t ∧ t = { s with power := { s.power with
      vin := [v], iin := [w], stale := false, rangeOut := [], inputW := inputWatts [v] [w]
      inputs := t.power.inputs } }) ∧
    (vinOut v = true → ∃ t, exec (.pmbusPoll [(some v, some w)]) s = .next t ∧ t.power.rangeOut = [0] ∧
      Recorded 6 0x0603 .corrected 0 s t) ∧
    (∃ t, exec (.pmbusPoll [(none, some w)]) s = .next t ∧ t.power.stale = true ∧
      t.power.vin = [nth s.power.vin 0 0] ∧ t.power.iin = [w] ∧ Recorded 6 0x0605 .corrected 0 s t) ∧
    (vinOut v = false → ∃ t, exec (.pmbusPoll [(some v, none)]) s = .next t ∧ t.power.stale = true ∧
      t.power.vin = [v] ∧ t.power.iin = [nth s.power.iin 0 0] ∧ Recorded 6 0x0605 .corrected 0 s t)) ∧
  (∀ (w : BitVec 16) (s : State), alive s = true → s.boot.convs = 1 → Clear 6 s →
    (∃ t, exec (.pmbAlert [some w]) s = .next t ∧ Recorded 6 0x0604 .corrected (BitVec.ofNat 64 w.toNat) s t ∧
      t = { s with pins := { s.pins with pmbAlertN := false }, power := { s.power with statusWord := [w], stale := false }
                   faults := t.faults, outs := t.outs }) ∧
    (∃ t, exec (.pmbAlert [none]) s = .next t ∧ t = { s with
      pins := { s.pins with pmbAlertN := false }
      power := { s.power with statusWord := [nth s.power.statusWord 0 0], stale := true }
      faults := t.faults, outs := t.outs })) ∧
  (∀ (counts : List (List Nat)) (s : State), alive s = true → s.boot.stage = .ready →
    ∃ t, exec (.macStatsPoll counts) s = .next t ∧ t = { s with xpt := { s.xpt with mac := t.xpt.mac } } ∧
      ∀ p i, p < 8 → i < 64 → nth (nth t.xpt.mac p []) i 0 =
        nth (nth s.xpt.mac p []) i 0 + BitVec.ofNat 64 (nth (nth counts p []) i 0 % 2 ^ 32))

/-! ### The keep -/

/-- KEY_ROTATE (R396) and ATTEST_GET (R402): a rotation begins to the next version, with its walk where the definition is
resident; the certificate chain is written to the partition's memory. -/
def Obligations.RotateAndAttest : Prop :=
  (∀ (b : Box) (r : Req) (d : Def) (s : State), accepted 0x0300 kKeyRotate b r s = true → s.keep.entropyOk = true →
    getDef s r.defId = some d → d.state ≠ .scrubbing → d.keyVersion ≠ 65535 → d.spent = false → d.rotation = none →
    (∀ agree, d.slot = none → ∃ t, Answers (.keyRotate b r agree) 0x0300 b r stOk
        (leBytes 2 (d.keyVersion + 1) ++ [1, 0, 0, 0, 0, 0]) s t ∧ t = { s with defs := t.defs } ∧
      OthersKept r.defId s t ∧
      getDef t r.defId = some { d with rotation := some (newRotation (d.keyVersion + 1) false 0 b r) }) ∧
    (∀ sl, d.slot = some sl → ∃ t, Answers (.keyRotate b r true) 0x0300 b r stOk
        (leBytes 2 (d.keyVersion + 1) ++ [0, 0, 0, 0, 0, 0]) s t ∧ t = { s with defs := t.defs, slots := t.slots } ∧
      OthersKept r.defId s t ∧
      getDef t r.defId = some { d with
        rotation := some (newRotation (d.keyVersion + 1) true (walkPages d.grant) b r) } ∧
      getSlot t sl = { getSlot s sl with keyNext := some (memKey d (d.keyVersion + 1)) } ∧
      (∀ j, j ≠ sl → getSlot t j = getSlot s j))) ∧
  (∀ (b : Box) (r : Req) (agree : Bool) (d : Def) (s : State), accepted 0x0300 kKeyRotate b r s = true →
    getDef s r.defId = some d →
    (d.state = .scrubbing → Refuses (.keyRotate b r agree) 0x0300 b r stWrongState s) ∧
    (d.state ≠ .scrubbing → d.keyVersion = 65535 ∨ d.spent = true →
      Refuses (.keyRotate b r agree) 0x0300 b r stKeyVersionExhausted s) ∧
    (d.state ≠ .scrubbing → d.keyVersion ≠ 65535 → d.spent = false → d.rotation.isSome = true →
      Refuses (.keyRotate b r agree) 0x0300 b r stInUse s)) ∧
  (∀ (b : Box) (r : Req) (d : Def) (va len : Nat) (s : State), accepted 0x0302 kAttestGet b r s = true →
    getDef s r.defId = some d → va = fld r.payload 32 8 → len = fld r.payload 40 4 → d.spent = false →
    d.state = .resident ∨ d.state = .running ∨ d.state = .quiescing ∨ d.state = .quiesced →
    (va % 64 ≠ 0 ∨ len < 8192 → Refuses (.attestGet b r) 0x0302 b r stMalformed s) ∧
    (va % 64 = 0 → 8192 ≤ len → s.keep.chainOk = false → Refuses (.attestGet b r) 0x0302 b r stWrongState s) ∧
    (va % 64 = 0 → 8192 ≤ len → s.keep.chainOk = true → s.keep.entropyOk = true →
      if (firstDenied s d va (min len (attestChain s r.defId d (r.payload.take 32)).length) true).isSome then
        Refuses (.attestGet b r) 0x0302 b r stAccessDenied s
      else ∃ t, Answers (.attestGet b r) 0x0302 b r stOk
          (leBytes 4 (attestChain s r.defId d (r.payload.take 32)).length) s t ∧
        WrittenAs r.defId va ((attestChain s r.defId d (r.payload.take 32)).take len) s t)) ∧
  (∀ (b : Box) (r : Req) (d : Def) (s : State), accepted 0x0302 kAttestGet b r s = true → getDef s r.defId = some d →
    d.spent = true ∨ d.state = .defined ∨ d.state = .faulted ∨ d.state = .scrubbing →
    Refuses (.attestGet b r) 0x0302 b r stWrongState s)

/-- WEIGHT_BIND and BIND_COMPLETE (R411 to R415): a link package installs its key at once, and a weight package is opened
segment by segment into its destination, each as its time comes and the rest at the end (log 52). Whether a key unwraps and
whether a segment's tag verifies are the ciphers' answers, and each has its clause. -/
def Obligations.WeightBinds : Prop :=
  (∀ (b : Box) (r : Req) (d : Def) (h table : List Byte) (s : State), accepted 0x0301 kWeightBind b r s = true →
    getDef s r.defId = some d → s.keep.entropyOk = true → d.spent = false →
    d.state = .resident ∨ d.state = .running ∨ d.state = .quiesced →
    bindFieldBad d r.payload = false → readVa s d (fld r.payload 0 8) 256 = .ok h → bindHeaderBad r.payload h = false →
    bindInUse d r.payload (some h) = false →
    (fld h 1 1 = 0 →
      firstDenied s d (fld r.payload 0 8) (packageLen (fld h 2 2) (fld h 8 8)) false = none ∧
      firstDenied s d (fld r.payload 8 8) (fld h 8 8) true = none) →
    readVa s d (fld r.payload 0 8 + 256) (96 * fld h 2 2) = .ok table →
    match unwrapCek s d r.payload h table with
    | .error st => ∀ agree, Refuses (.weightBind b r agree) 0x0301 b r st s
    | .ok cek => ∃ t d', Answers (.weightBind b r true) 0x0301 b r stOk
        (padTo 40 (keyWrap (weightSeal d) cek) ++ List.replicate 8 0) s t ∧ t = { s with defs := t.defs } ∧
      OthersKept r.defId s t ∧ getDef t r.defId = some d' ∧
      d' = { d with linkKeys := d'.linkKeys, bind := d'.bind } ∧
      (fld h 1 1 = 1 → d'.bind = d.bind ∧ mfind d'.linkKeys (fld r.payload 16 2) =
        some (fld h 32 2, kdf cek "maelic link" ((h.drop 16).take 16) 32)) ∧
      (fld h 1 1 = 0 → ∃ bi, d'.bind = some bi ∧ bi.pkgVa = fld r.payload 0 8 ∧ bi.dstVa = fld r.payload 8 8 ∧
        bi.payloadLen = fld h 8 8 ∧ bi.records = fld h 2 2 ∧ bi.linkSlot = fld r.payload 16 2 ∧ bi.cek = cek ∧
        bi.hash = sha384 (h ++ table) ∧ bi.began = now s ∧ bi.written = 0)) ∧
  (∀ (b : Box) (r : Req) (agree : Bool) (d : Def) (s : State), accepted 0x0301 kWeightBind b r s = true →
    getDef s r.defId = some d →
    (d.spent = true ∨ d.state = .defined ∨ d.state = .quiescing ∨ d.state = .faulted ∨ d.state = .scrubbing →
      Refuses (.weightBind b r agree) 0x0301 b r stWrongState s) ∧
    (d.spent = false → d.state = .resident → bindFieldBad d r.payload = true →
      Refuses (.weightBind b r agree) 0x0301 b r stMalformed s) ∧
    (∀ h, d.spent = false → d.state = .resident → bindFieldBad d r.payload = false →
    readVa s d (fld r.payload 0 8) 256 = .ok h →
      (bindHeaderBad r.payload h = true → Refuses (.weightBind b r agree) 0x0301 b r stMalformed s) ∧
      (bindHeaderBad r.payload h = false → bindInUse d r.payload (some h) = true →
        Refuses (.weightBind b r agree) 0x0301 b r stInUse s))) ∧
  (∀ (slot id : Nat) (d : Def) (bi : Bind) (bs : List Byte) (s : State), operating s = true →
    inSlot s slot = some (id, d) → getDef s id = some d → d.bind = some bi → 1 ≤ bi.payloadLen →
    bi.payloadLen ≤ 1048576 → bi.written = 0 →
    readVa s d (bi.pkgVa + payloadOff bi.records) (bi.payloadLen + 16) = .ok bs →
    firstDenied s d bi.dstVa bi.payloadLen true = none →
    ∃ t d', exec (.bindComplete slot) s = .next t ∧ getDef t id = some d' ∧ OthersKept id s t ∧ d'.bind = none ∧
      d'.linkKeys = mdrop d.linkKeys bi.linkSlot ∧ d'.state = d.state ∧ d'.rotation = d.rotation ∧
      match gcmOpen bi.cek (List.replicate 12 0) (bi.hash ++ List.replicate 8 0 ++ [1]) (bs.take bi.payloadLen)
          (bs.drop bi.payloadLen) with
      | none => MemoryKept id s t
      | some pt => WrittenAs id bi.dstVa pt s t) ∧
  (∀ (slot id : Nat) (d : Def) (bi : Bind) (s : State), operating s = true →
    inSlot s slot = some (id, d) → getDef s id = some d → d.bind = some bi → segCount bi.payloadLen ≤ bi.written →
    ∃ t, exec (.bindComplete slot) s = .next t ∧ OthersKept id s t ∧ MemoryKept id s t ∧
      getDef t id = some { d with bind := none, linkKeys := mdrop d.linkKeys bi.linkSlot }) ∧
  (∀ (slot id : Nat) (d : Def) (s : State), operating s = true → inSlot s slot = some (id, d) → d.bind = none →
    exec (.bindComplete slot) s = .next s)

/-- GET_VERSION, GET_CAPABILITIES, NEGOTIATE_ALGORITHMS, GET_DIGESTS, GET_CERTIFICATE, CHALLENGE, GET_MEASUREMENTS,
KEY_EXCHANGE, FINISH, SPDM_HEARTBEAT, KEY_UPDATE and END_SESSION (R400, R403, R404). The order of negotiation is the model's
(log 31). -/
def Obligations.SpdmRequests : Prop :=
  (∀ (q : Doe) (x : Spdm) (s : State), DoePort s q.fn → x = getSpdm s (portOf q.fn) →
    DoeAnswers (.getVersion q) q.fn "VERSION" s (setSpdm (portOf q.fn) (fun _ => { x with stage := 1 }) s) ∧
    (1 ≤ x.stage → DoeAnswers (.getCapabilities q) q.fn "CAPABILITIES" s
      (setSpdm (portOf q.fn) (fun _ => { x with stage := max x.stage 2 }) s)) ∧
    (2 ≤ x.stage → DoeAnswers (.negotiateAlgorithms q) q.fn "ALGORITHMS" s
      (setSpdm (portOf q.fn) (fun _ => { x with stage := 3 }) s)) ∧
    (3 ≤ x.stage →
      DoeAnswers (.getDigests q) q.fn "DIGESTS" s s ∧
      (fld q.body 0 1 % 16 = 0 →
        (s.keep.chainOk = true → DoeAnswers (.getCertificate q) q.fn "CERTIFICATE" s s) ∧
        (s.keep.chainOk = false → DoeAnswers (.getCertificate q) q.fn "ERROR Unspecified" s s) ∧
        DoeAnswers (.challenge q) q.fn "CHALLENGE_AUTH" s
          { s with keep := { s.keep with draws := s.keep.draws + 1 } }) ∧
      (fld q.body 0 1 % 16 ≠ 0 → DoeAnswers (.getCertificate q) q.fn "ERROR InvalidRequest" s s ∧
        DoeAnswers (.challenge q) q.fn "ERROR InvalidRequest" s s) ∧
      DoeAnswers (.getMeasurements q) q.fn "MEASUREMENTS" s
        { s with keep := { s.keep with draws := s.keep.draws + 1 } } ∧
      (4 ≤ x.sessions.length + x.opening.length →
        DoeAnswers (.keyExchange q) q.fn "ERROR SessionLimitExceeded" s s) ∧
      (x.sessions.length + x.opening.length < 4 → ∃ t, DoeAnswers (.keyExchange q) q.fn "KEY_EXCHANGE_RSP" s t ∧
        t = { s with keep := { s.keep with draws := s.keep.draws + 1, spdm := t.keep.spdm } } ∧
        getSpdm t (portOf q.fn) = { x with opening := x.opening ++ [x.nextId], nextId := x.nextId + 1 })) ∧
    (x.stage < 3 → DoeAnswers (.challenge q) q.fn "ERROR UnexpectedRequest" s s ∧
      DoeAnswers (.keyExchange q) q.fn "ERROR UnexpectedRequest" s s) ∧
    (∀ i, q.session = some i → x.opening.contains i = true → DoeAnswers (.finish q) q.fn "FINISH_RSP" s
      (setSpdm (portOf q.fn) (fun _ => { x with
        opening := x.opening.filter (· != i), sessions := x.sessions ++ [i] }) s)) ∧
    (∀ i, q.session = some i → x.sessions.contains i = true →
      DoeAnswers (.spdmHeartbeat q) q.fn "HEARTBEAT_ACK" s s ∧
      DoeAnswers (.keyUpdate q) q.fn "KEY_UPDATE_ACK" s (setSpdm (portOf q.fn) (fun _ => { x with
        updates := mput x.updates i ((mfind x.updates i).getD 0 + 1) }) s) ∧
      ((∀ fn, vfOf fn ≠ 0 → (getFn s fn).tdiSession ≠ some (portOf q.fn, i)) →
        ∃ t body, exec (.endSession q) s = .next t ∧
          t = { s with keep := { s.keep with spdm := t.keep.spdm }, outs := .doe q.fn "END_SESSION_ACK" body :: s.outs } ∧
          getSpdm t (portOf q.fn) = { x with
            sessions := x.sessions.filter (· != i), opening := x.opening.filter (· != i)
            updates := x.updates.filter (fun p => p.1 != i) })) ∧
    (q.session = none → DoeAnswers (.finish q) q.fn "ERROR UnexpectedRequest" s s ∧
      DoeAnswers (.spdmHeartbeat q) q.fn "ERROR UnexpectedRequest" s s ∧
      DoeAnswers (.endSession q) q.fn "ERROR UnexpectedRequest" s s)) ∧
  (∀ (q : Doe) (s : State), alive s = true → portExists s (portOf q.fn) = true →
    (vfOf q.fn ≠ 0 → DoeAnswers (.getVersion q) q.fn "ERROR UnsupportedRequest" s s) ∧
    (vfOf q.fn = 0 → s.flt.safe = true → DoeAnswers (.getVersion q) q.fn "ERROR Unspecified" s s ∧
      DoeAnswers (.challenge q) q.fn "ERROR Unspecified" s s))

/-- QUERY, KEY_PROG, K_SET_GO, K_SET_STOP and IDE_STREAM_INTEGRITY_FAILURE (R395, R405, R406): a key goes to its controller,
at most eight streams hold keys on a port, a key set goes into use once its check agrees and the set before it is destroyed,
and a stream that stops leaves its TDIs in `ERROR`. -/
def Obligations.IdeStreams : Prop :=
  (∀ (q : IdeReq) (i : Nat) (st : IdeStream) (s : State), SessionOn s q.port q.session i →
    st = (mfind s.keep.streams (streamKey q.port q.stream)).getD { keys := [], go := none, covers := [] } →
    DoeAnswers (.query q) (pfOf q.port) "QUERY_RESP" s s ∧
    (2 < q.sub ∨ (st.keys = [] ∧ 8 ≤ streamsOf s q.port) →
      DoeAnswers (.keyProg q) (pfOf q.port) "KP_ACK refused" s s) ∧
    (q.sub ≤ 2 → st.keys ≠ [] ∨ streamsOf s q.port < 8 →
      ∃ t st', DoeAnswers (.keyProg q) (pfOf q.port) "KP_ACK" s t ∧
        t = { s with keep := { s.keep with streams := t.keep.streams }
                     outs := .ideKey q.port q.stream q.keySet q.sub q.tx q.key q.iv :: s.outs } ∧
        mfind t.keep.streams (streamKey q.port q.stream) = some st' ∧ (q.keySet, q.sub, q.tx) ∈ st'.keys ∧
        st'.go = st.go ∧ st'.covers = q.covers ∧
        (∀ k, k ≠ streamKey q.port q.stream → mfind t.keep.streams k = mfind s.keep.streams k)) ∧
    (st.keys.any (fun x => x.1 == q.keySet) = true → q.agree = true →
      ∃ t, DoeAnswers (.kSetGo q) (pfOf q.port) "K_GOSTOP_ACK" s t ∧
        t = { s with keep := { s.keep with streams := t.keep.streams } } ∧
        mfind t.keep.streams (streamKey q.port q.stream) = some { st with
          go := some q.keySet
          keys := if st.go = some q.keySet then st.keys else st.keys.filter (fun x => some x.1 != st.go) }) ∧
    (st.keys.any (fun x => x.1 == q.keySet) = true → q.agree = false → s.vault.keyCheck = 0 → Clear 7 s →
      mfind s.keep.streams (streamKey q.port q.stream) = some st → st.go ≠ some q.keySet →
      ∃ t, DoeAnswers (.kSetGo q) (pfOf q.port) "K_GOSTOP_ACK refused" s t ∧ Recorded 7 0x0705 .corrected 0 s t ∧
        t = { s with keep := { s.keep with streams := t.keep.streams }, faults := t.faults, outs := t.outs } ∧
        mfind t.keep.streams (streamKey q.port q.stream) = some { st with
          keys := st.keys.filter (fun x => x.1 != q.keySet) }) ∧
    (st.keys.any (fun x => x.1 == q.keySet) = false →
      DoeAnswers (.kSetGo q) (pfOf q.port) "K_GOSTOP_ACK refused" s s) ∧
    (mfind s.keep.streams (streamKey q.port q.stream) = some st →
      (∀ fn, (getFn s fn).tdiStream = q.stream → (getFn s fn).tdi ≠ .locked ∧ (getFn s fn).tdi ≠ .run) →
      ∃ t, DoeAnswers (.kSetStop q) (pfOf q.port) "K_GOSTOP_ACK" s t ∧
        t = { s with keep := { s.keep with streams := t.keep.streams } } ∧
        mfind t.keep.streams (streamKey q.port q.stream) = some { st with
          keys := st.keys.filter (fun x => x.1 != q.keySet)
          go := if st.go = some q.keySet then none else st.go })) ∧
  (∀ (q : IdeReq) (s : State), DoePort s (pfOf q.port) → inSession s q.port q.session = none →
    DoeAnswers (.keyProg q) (pfOf q.port) "ERROR UnsupportedRequest" s s ∧
    DoeAnswers (.query q) (pfOf q.port) "ERROR UnsupportedRequest" s s) ∧
  (∀ (port stream vf : Nat) (s : State), operating s = true → portExists s port = true → 1 ≤ vf → vf ≤ 64 →
    (getFn s (fnId port vf)).tdiStream = stream → tdiHeld s (fnId port vf) = true →
    (∀ fn, fn ≠ fnId port vf → (getFn s fn).tdiStream ≠ stream ∨ tdiHeld s fn = false) →
    tdiDef s (fnId port vf) = none →
    exec (.ideStreamIntegrityFailure port stream) s =
      .next (setFn s (fnId port vf) (fun f => { f with tdi := .error }))) ∧
  (∀ (port stream : Nat) (s : State), operating s = true → portExists s port = true →
    (∀ fn, (getFn s fn).tdiStream ≠ stream ∨ tdiHeld s fn = false) →
    exec (.ideStreamIntegrityFailure port stream) s = .next s)

/-- GET_TDISP_VERSION, GET_TDISP_CAPABILITIES, LOCK_INTERFACE_REQUEST, GET_DEVICE_INTERFACE_REPORT,
GET_DEVICE_INTERFACE_STATE, START_INTERFACE_REQUEST, STOP_INTERFACE_REQUEST and TDISP_CONFIG_WRITE (R406, R407). -/
def Obligations.TdispRequests : Prop :=
  (∀ (q : TdiReq) (i : Nat) (s : State), SessionOn s q.port q.session i →
    DoeAnswers (.getTdispVersion q) (pfOf q.port) "TDISP_VERSION" s s ∧
    DoeAnswers (.getTdispCapabilities q) (pfOf q.port) "TDISP_CAPABILITIES" s s ∧
    (isTdi s (tdiFn q) = true →
      exec (.getDeviceInterfaceState q) s = .next (emit s (.doe (pfOf q.port) "DEVICE_INTERFACE_STATE"
        [BitVec.ofNat 8 q.vf, BitVec.ofNat 8 (tdiCode (getFn s (tdiFn q)).tdi)]))) ∧
    (isTdi s (tdiFn q) = false → DoeAnswers (.getDeviceInterfaceState q) (pfOf q.port) "TDISP_ERROR" s s) ∧
    (∀ id d st, tdiDef s (tdiFn q) = some (id, d) → coveringStream s q.port q.vf = some st →
      (getFn s (tdiFn q)).tdi = .unlocked → d.state = .resident ∨ d.state = .quiesced → d.scrubbed = true →
      ∃ t, DoeAnswers (.lockInterfaceRequest q) (pfOf q.port) "LOCK_INTERFACE_RESPONSE" s t ∧
        t = { s with keep := { s.keep with draws := s.keep.draws + 1 }, fns := t.fns } ∧
        getFn t (tdiFn q) = { getFn s (tdiFn q) with
          tdi := .locked, tdiSession := some (q.port, i), tdiNonce := Config.drbg s.keep.draws, tdiStream := st } ∧
        (∀ f, f ≠ tdiFn q → getFn t f = getFn s f)) ∧
    (coveringStream s q.port q.vf = none ∨ (getFn s (tdiFn q)).tdi ≠ .unlocked →
      DoeAnswers (.lockInterfaceRequest q) (pfOf q.port) "TDISP_ERROR" s s) ∧
    (∀ id d, tdiDef s (tdiFn q) = some (id, d) → tdiHeld s (tdiFn q) = true →
      ((getFn s (tdiFn q)).tdiSession = some (q.port, i) →
        DoeAnswers (.getDeviceInterfaceReport q) (pfOf q.port) "DEVICE_INTERFACE_REPORT" s s) ∧
      ((getFn s (tdiFn q)).tdiSession ≠ some (q.port, i) →
        DoeAnswers (.getDeviceInterfaceReport q) (pfOf q.port) "TDISP_ERROR" s s)) ∧
    ((getFn s (tdiFn q)).tdi = .locked → (getFn s (tdiFn q)).tdiSession = some (q.port, i) →
      ((getFn s (tdiFn q)).tdiNonce = q.nonce → DoeAnswers (.startInterfaceRequest q) (pfOf q.port)
        "START_INTERFACE_RESPONSE" s (setFn s (tdiFn q) (fun f => { f with tdi := .run }))) ∧
      ((getFn s (tdiFn q)).tdiNonce ≠ q.nonce →
        DoeAnswers (.startInterfaceRequest q) (pfOf q.port) "TDISP_ERROR" s s)) ∧
    ((getFn s (tdiFn q)).tdi = .unlocked → DoeAnswers (.stopInterfaceRequest q) (pfOf q.port) "TDISP_ERROR" s s) ∧
    (∀ x, (getFn s (tdiFn q)).tdiSession = some x → x ≠ (q.port, i) →
      DoeAnswers (.startInterfaceRequest q) (pfOf q.port) "TDISP_ERROR" s s ∧
      DoeAnswers (.stopInterfaceRequest q) (pfOf q.port) "TDISP_ERROR" s s) ∧
    ((getFn s (tdiFn q)).tdi ≠ .unlocked → (getFn s (tdiFn q)).tdiSession = some (q.port, i) →
      tdiDef s (tdiFn q) = none → DoeAnswers (.stopInterfaceRequest q) (pfOf q.port) "STOP_INTERFACE_RESPONSE" s
        (setFn s (tdiFn q) (fun f => { f with tdi := .unlocked, tdiSession := none, tdiNonce := 0 }))) ∧
    (∀ id d, (getFn s (tdiFn q)).tdi ≠ .unlocked → (getFn s (tdiFn q)).tdiSession = some (q.port, i) →
      tdiDef s (tdiFn q) = some (id, d) → getDef s id = some d → d.state = .running → IdleRings d → d.bind = none →
      ∃ t d', DoeAnswers (.stopInterfaceRequest q) (pfOf q.port) "STOP_INTERFACE_RESPONSE" s t ∧
        (getFn t (tdiFn q)).tdi = .unlocked ∧ getDef t id = some d' ∧ d'.state = .quiescing ∧
        (∃ x, d'.quiesce = some x ∧ x.flush = true ∧ x.thenReset = true) ∧ d'.mem = d.mem)) ∧
  (∀ (q : TdiReq) (s : State), DoePort s (pfOf q.port) → inSession s q.port q.session = none →
    DoeAnswers (.lockInterfaceRequest q) (pfOf q.port) "ERROR UnsupportedRequest" s s ∧
    DoeAnswers (.stopInterfaceRequest q) (pfOf q.port) "ERROR UnsupportedRequest" s s) ∧
  (∀ (fn : Nat) (s : State), operating s = true →
    (tdiHeld s fn = false → exec (.tdispConfigWrite fn) s = .next s) ∧
    (tdiHeld s fn = true → tdiDef s fn = none →
      exec (.tdispConfigWrite fn) s = .next (setFn s fn (fun f => { f with tdi := .error }))) ∧
    (∀ id d sl, tdiHeld s fn = true → tdiDef s fn = some (id, d) → getDef s id = some d → d.slot = some sl →
      inSlot s sl = some (id, d) → d.state = .running →
      ∃ t d', exec (.tdispConfigWrite fn) s = .next t ∧ (getFn t fn).tdi = .error ∧ getDef t id = some d' ∧
        d'.state = .faulted))

/-! ### The belfry -/

/-- HELLO, HEARTBEAT, TELEMETRY_GET of each KIND, and LIFETIME_GET (R424, R429, R431, R432, R434, R462, R516). -/
def Obligations.BelfryMessages : Prop :=
  (∀ (b : Box) (r : Req) (s : State), accepted 0x0001 (kHello b) b r s = true →
    (fld r.payload 0 1 = 3 → (getBox s b).heldNotices = [] →
      ∃ t, Answers (.hello b r) 0x0001 b r stOk (helloAnswer b (getBox s b).prevDriver t) s t ∧
        t = { s with fns := t.fns, belfry := { s.belfry with state := t.belfry.state, pfExpired := t.belfry.pfExpired } } ∧
        getBox t b = { getBox s b with
          minor := min 1 (fld r.payload 1 1), hellos := (getBox s b).hellos + 1, prevDriver := fld r.payload 4 4
          session := some
            { driverId := fld r.payload 4 4, lapseQuiesce := decide (fld r.payload 2 1 = 1), beatAt := now s } } ∧
        t.belfry.state = if b = .pf ∧ s.belfry.state = .orphaned then .attached else s.belfry.state) ∧
    (fld r.payload 0 1 ≠ 3 → exec (.hello b r) s = .next (moveServed (answerVersion b r s)))) ∧
  (∀ (b : Box) (r : Req) (x : Session) (s : State), alive s = true → whole 0x0002 b r s = true → b ≠ .i3c →
    ((getBox s b).session = some x → exec (.heartbeat b r) s = .next (answer b 0x0002 r.seq r.defId stOk
      (leBytes 8 s.bell.ns.toNat) (setBox s b (fun m => { m with session := some { x with beatAt := now s } })))) ∧
    ((getBox s b).session = none → s.boot.stage = .ready →
      exec (.heartbeat b r) s = .next (answer b 0x0002 r.seq r.defId stOrphaned [] s))) ∧
  (∀ (b : Box) (r : Req) (d : Def) (s : State), accepted 0x0500 (kTelemetry r) b r s = true →
    (telKind r = 0 → getDef s r.defId = some d →
      Answers (.telemetryGetCapPage b r) 0x0500 b r stOk (capPage s r.defId d) s s) ∧
    (telKind r = 1 → (8 ≤ fld r.payload 1 1 → Refuses (.telemetryGetMacTotals b r) 0x0500 b r stMalformed s) ∧
      (fld r.payload 1 1 < 8 → Answers (.telemetryGetMacTotals b r) 0x0500 b r stOk
        ((nth s.xpt.mac (fld r.payload 1 1) []).flatMap (fun w => leBytes 8 w.toNat)) s s)) ∧
    (telKind r = 2 → Answers (.telemetryGetPower b r) 0x0500 b r stOk (powerRecord s) s s) ∧
    (telKind r = 3 → getDef s r.defId = some d →
      (d.grant.confidential = true → Refuses (.telemetryGetSlotCounts b r) 0x0500 b r stAccessDenied s) ∧
      (d.grant.confidential = false → d.slot = none → Refuses (.telemetryGetSlotCounts b r) 0x0500 b r stWrongState s) ∧
      (∀ sl, d.grant.confidential = false → d.slot = some sl → Answers (.telemetryGetSlotCounts b r) 0x0500 b r stOk
        (leBytes 8 (getSlot s sl).squash.toNat ++ qpSums d) s s))) ∧
  (∀ (b : Box) (r : Req) (s : State), accepted 0x0501 kLifetime b r s = true →
    (s.flash.worn = true → Answers (.lifetimeGet b r) 0x0501 b r stLogWorn (lifetimeAnswer (accNow s) false s) s s) ∧
    (s.flash.worn = false → s.life.writing = true →
      Answers (.lifetimeGet b r) 0x0501 b r stOk (lifetimeAnswer (accNow s) false s) s s) ∧
    (s.flash.worn = false → s.life.writing = false → s.clk ≤ s.life.cpClk + 20000000000 → s.life.cpSeq ≠ 0 →
      Answers (.lifetimeGet b r) 0x0501 b r stOk (lifetimeAnswer (newestAcc s.flash) true s) s s) ∧
    (s.flash.worn = false → s.life.writing = false → s.life.cpSeq = 0 → 1 ≤ s.flash.inSector → s.flash.inSector < 1024 →
      ∃ t x, Answers (.lifetimeGet b r) 0x0501 b r stOk (lifetimeAnswer (newestAcc t.flash) true t) s t ∧
        t = { s with flash := t.flash, life := t.life } ∧ t.flash.log = s.flash.log ++ [x] ∧ x.kind = 0x0002 ∧
        x.payload = padTo 37 (checkpointBytes (accNow s)) ∧ t.life.cpSeq = s.life.seq + 1))

/-- FW_RECOVER of each OP, FW_IMAGE_VERIFIED and FW_IMAGE_WRITTEN (R430, R499, R503): an image is received in order,
committed, verified and written; a transfer that begins abandons the one before it (log 32), and while that is the other
mailbox's it is refused. Whether its signature verifies is the cipher's answer. -/
def Obligations.RecoverImages : Prop :=
  (∀ (b : Box) (r : Req) (len : Nat) (s : State), accepted 0x0502 (kRecover r) b r s = true → recOp r = 0 →
    len = fld r.payload 8 4 →
    (len < 4096 ∨ 33554432 < len → Refuses (.fwRecoverBegin b r) 0x0502 b r stMalformed s) ∧
    (4096 ≤ len → len ≤ 33554432 →
      (s.belfry.xfer = none → Answers (.fwRecoverBegin b r) 0x0502 b r stOk [] s
        { s with belfry := { s.belfry with xfer := some { len := len, data := [], phase := 1, box := b } } }) ∧
      (∀ x, s.belfry.xfer = some x → x.box = b ∨ (x.phase ≠ 1 ∧ x.phase ≠ 2 ∧ x.phase ≠ 3) →
        (x.phase ≠ 3 → Answers (.fwRecoverBegin b r) 0x0502 b r stOk [] s
          { s with belfry := { s.belfry with xfer := some { len := len, data := [], phase := 1, box := b } } }) ∧
        (x.phase = 3 → s.life.due = false → Answers (.fwRecoverBegin b r) 0x0502 b r stOk [] s { s with
          belfry := { s.belfry with xfer := some { len := len, data := [], phase := 1, box := b } }
          flash := { s.flash with image := [] }, life := { s.life with writing := false } })) ∧
      (∀ x, s.belfry.xfer = some x → x.phase = 1 ∨ x.phase = 2 ∨ x.phase = 3 → x.box ≠ b →
        Refuses (.fwRecoverBegin b r) 0x0502 b r stInUse s))) ∧
  (∀ (b : Box) (r : Req) (off len : Nat) (x : Xfer) (s : State), accepted 0x0502 (kRecover r) b r s = true →
    recOp r = 1 → off = fld r.payload 4 4 → len = fld r.payload 8 4 → s.belfry.xfer = some x →
    (x.phase = 1 → x.box = b → off = x.data.length → len % 4 = 0 → 4 ≤ len → len ≤ 4096 →
    (b = .i3c → len ≤ 976) →
      off + len ≤ x.len → Answers (.fwRecoverData b r) 0x0502 b r stOk [] s { s with belfry := { s.belfry with
        xfer := some { x with data := x.data ++ padTo len (r.payload.drop 16) } } }) ∧
    (x.phase ≠ 1 ∨ x.box ≠ b ∨ off ≠ x.data.length ∨ x.len < off + len →
      Refuses (.fwRecoverData b r) 0x0502 b r stMalformed s)) ∧
  (∀ (b : Box) (r : Req) (x : Xfer) (s : State), accepted 0x0502 (kRecover r) b r s = true → s.belfry.xfer = some x →
    (recOp r = 2 → x.phase = 1 → x.box = b → x.data.length = x.len → Answers (.fwRecoverCommit b r) 0x0502 b r stOk [] s
      { s with belfry := { s.belfry with xfer := some { x with phase := 2 } } }) ∧
    (recOp r = 2 → x.phase ≠ 1 ∨ x.box ≠ b ∨ x.data.length ≠ x.len →
      Refuses (.fwRecoverCommit b r) 0x0502 b r stMalformed s) ∧
    (recOp r = 3 → Answers (.fwRecoverStatus b r) 0x0502 b r (if x.phase = 5 then stImageRejected else stOk)
      (leBytes 1 x.phase ++ [0, 0, 0] ++ leBytes 4 x.data.length) s s)) ∧
  (∀ (x : Xfer) (s : State), operating s = true → s.belfry.xfer = some x →
    (x.phase = 2 → exec .fwImageVerified s = .next
      (if imgLen x.data = x.len ∧ imageReason x.data s.keep.fuseCount = 0 then
        { s with belfry := { s.belfry with xfer := some { x with phase := 3 } }, life := { s.life with writing := true } }
      else { s with belfry := { s.belfry with xfer := some { x with phase := 5 } } })) ∧
    (x.phase ≠ 2 → exec .fwImageVerified s = .next s) ∧
    (x.phase = 3 → s.life.due = false → ∀ ok, exec (.fwImageWritten ok) s = .next { s with
      belfry := { s.belfry with xfer := some { x with phase := if ok then 4 else 5 } }
      flash := { s.flash with image := if ok then x.data else [] }, life := { s.life with writing := false } }) ∧
    (x.phase ≠ 3 → ∀ ok, exec (.fwImageWritten ok) s = .next s))

/-- UNLOCK_CHAL, UNLOCK_TOKEN, FAULT_INJECT and FAULT_INJECT_FIRE (R427, R489, R490): a nonce and the token that signs it
unlock the injector, and an injection records its cause as often as it was asked to. -/
def Obligations.InjectAndUnlock : Prop :=
  (∀ s : State, alive s = true →
    (s.keep.confLock = true → exec .unlockChal s = .next s) ∧
    (s.keep.confLock = false → exec .unlockChal s = .next (emit { s with keep := { s.keep with
        draws := s.keep.draws + 1, unlockNonce := some (Config.drbg s.keep.draws) } }
      (.tap (leBytes 32 (Config.drbg s.keep.draws).toNat))))) ∧
  (∀ (sig : List Byte) (n : BitVec 256) (s : State), alive s = true →
    (s.keep.unlockNonce = some n → s.pins.testMode = true → s.keep.confLock = false → s.keep.loadSeen = false →
      if sigOk Config.productKey (sha384 (unlockMessage n)) sig = true then
        ∃ t, exec (.unlockToken sig) s = .next t ∧ t = { s with
          keep := { s.keep with unlocked := true, unlockNonce := none }, flash := t.flash, life := t.life, crc0 := t.crc0 }
      else exec (.unlockToken sig) s = .next s) ∧
    (s.keep.unlockNonce = none ∨ s.pins.testMode = false ∨ s.keep.confLock = true ∨ s.keep.loadSeen = true →
      exec (.unlockToken sig) s = .next s)) ∧
  (∀ (r : Req) (code sl : Nat) (s : State), accepted 0x05FF (plainMsg 16 noReserved true false false) .pf r s = true →
    code = fld r.payload 0 2 → sl = fld r.payload 2 1 →
    (s.keep.unlocked = false →
      Refuses (.faultInject .pf r) 0x05FF .pf r stMalformed s) ∧
    (s.keep.unlocked = true → (64 ≤ sl ∧ sl ≠ 0xFF) ∨ fld r.payload 3 1 = 0 ∨ 10000000 < fld r.payload 4 4 ∨
      injectable s code = false → Refuses (.faultInject .pf r) 0x05FF .pf r stMalformed s) ∧
    (s.keep.unlocked = true → sl = 0xFF ∨ (sl < 64 ∧ (inSlot s sl).isSome = true) → injectable s code = true →
      fld r.payload 3 1 ≠ 0 → fld r.payload 4 4 ≤ 10000000 →
      (slotCodes.contains code = true → sl = 0xFF → Refuses (.faultInject .pf r) 0x05FF .pf r stWrongState s) ∧
      (slotCodes.contains code = false ∨ sl < 64 →
        (s.belfry.inject.isSome = true → Refuses (.faultInject .pf r) 0x05FF .pf r stInUse s) ∧
        (s.belfry.inject = none → Answers (.faultInject .pf r) 0x05FF .pf r stOk [] s
          { s with belfry := { s.belfry with inject := some (⟨code, if sl = 0xFF then none else some sl, fld r.payload 3 1,
            fld r.payload 4 4, BitVec.ofNat 64 (fld r.payload 8 8)⟩ : Inject) } })))) ∧
  (∀ s : State, operating s = true →
    (s.belfry.inject = none → exec .faultInjectFire s = .next s) ∧
    (∀ x, s.belfry.inject = some x → x.slot = none → x.code ∈ [0x0602, 0x0603, 0x0604, 0x0605, 0x0700, 0x0D02] →
      Clear (x.code / 256) s →
      ∃ t, exec .faultInjectFire s = .next t ∧ Recorded (x.code / 256) x.code .corrected x.detail s t ∧
        t = { s with belfry := { s.belfry with inject := t.belfry.inject }, faults := t.faults, outs := t.outs } ∧
        t.belfry.inject = if x.count ≤ 1 then none else some { x with count := x.count - 1 }))

/-- VF_SESSION_LAPSE, PF_HEARTBEAT_TIMEOUT, WATCHDOG_EXPIRY, FIRMWARE_SELF_RESTART, BELFRY_RESTART_COMPLETE and
BELFRY_MEM_ECC (R20, R433, R434, R439, R440, R442, R488): a restart loses the messages that the keep holds and the unloads
that wait, and the fourth restart within 60 s halts the belfry. -/
def Obligations.BelfryHealth : Prop :=
  (∀ (fn : Nat) (s : State), operating s = true →
    ((getFn s fn).mbox.session = none ∨ boundTo s fn = none → exec (.vfSessionLapse fn) s = .next s) ∧
    (∀ x id d, vfOf fn ≠ 0 → (getFn s fn).mbox.session = some x → boundTo s fn = some (id, d) →
      (x.lapseQuiesce = false → ∃ t, exec (.vfSessionLapse fn) s = .next t ∧
        t = { s with fns := t.fns, outs := t.outs, crc0 := t.crc0 } ∧ (getFn t fn).mbox.session = none) ∧
      (x.lapseQuiesce = true → firmwareRuns s = true → getDef s id = some d → d.spent = false → d.state = .running →
        ∃ t d', exec (.vfSessionLapse fn) s = .next t ∧ (getFn t fn).mbox.session = none ∧ getDef t id = some d' ∧
          d'.state = .quiescing ∧ (∃ q, d'.quiesce = some q ∧ q.flush = true ∧ q.lapse = true) ∧ d'.mem = d.mem))) ∧
  (∀ s : State, operating s = true →
    ((getBox s .pf).session = none → exec .pfHeartbeatTimeout s = .next s) ∧
    ((getBox s .pf).session.isSome = true → s.belfry.state = .attached →
      ∃ t, exec .pfHeartbeatTimeout s = .next t ∧ (getBox t .pf).session = none ∧
        (∀ f, f ≠ 0 → getFn t f = getFn s f) ∧ t = { s with
          fns := t.fns, belfry := { s.belfry with state := .orphaned, orphans := satAdd s.belfry.orphans 1 } })) ∧
  (∀ (i : Instr) (s : State), i = .watchdogExpiry ∨ i = .firmwareSelfRestart → operating s = true →
    (firmwareRuns s = false → s.belfry.state ≠ .restarting → exec i s = .next s) ∧
    (firmwareRuns s = true → (recentRestarts s).length < 3 → Clear 2 s →
      ∃ t, exec i s = .next t ∧ Recorded 2 0x0200 .corrected 0 s t ∧
        t = { s with
          belfry := t.belfry, faults := t.faults, outs := t.outs, fns := t.fns, keep := { s.keep with waits := [] } } ∧
        (∀ f, getFn t f = { getFn s f with unload := none }) ∧ t.belfry.state = .restarting ∧
        t.belfry.before = s.belfry.state ∧ t.belfry.restarts = satAdd s.belfry.restarts 1 ∧
        t.belfry.restartAt = now s :: recentRestarts s ∧ t.belfry.backlog = s.belfry.backlog) ∧
    (firmwareRuns s = true → 3 ≤ (recentRestarts s).length → s.belfry.backlog = [] →
      ∃ t, exec i s = .next t ∧ t = { s with
        belfry := t.belfry, faults := t.faults, outs := t.outs, fns := t.fns, keep := { s.keep with waits := [] } } ∧
        t.belfry.state = .halted)) ∧
  (∀ s : State, operating s = true →
    (s.belfry.state ≠ .restarting → exec .belfryRestartComplete s = .next s) ∧
    (s.belfry.state = .restarting → s.belfry.backlog = [] → s.belfry.lapsed = [] →
      exec .belfryRestartComplete s = .next { s with belfry := { s.belfry with
        state := if s.belfry.pfExpired then .orphaned else s.belfry.before, pfExpired := false, lapsed := []
        orphans := if s.belfry.pfExpired = true ∧ s.belfry.before = .attached then satAdd s.belfry.orphans 1
          else s.belfry.orphans } })) ∧
  (∀ s : State, Clear 2 s →
    (alive s = true → ∃ t, exec (.belfryMemEcc false) s = .next t ∧ Recorded 2 0x0202 .corrected 0 s t ∧
      t = { s with faults := t.faults, outs := t.outs }) ∧
    (operating s = true → firmwareRuns s = true → (recentRestarts s).length < 3 →
      ∃ t, exec (.belfryMemEcc true) s = .next t ∧ t.belfry.state = .restarting ∧ t.defs = s.defs ∧ t.host = s.host))

/-- VF_FLR, PF0_FLR, PF1_FLR, HOST_LINK_DOWN and HOST_LINK_UP (R58, R62, R153, R403, R406, R434, R532). -/
def Obligations.ResetsAndLinks : Prop :=
  (∀ (fn : Nat) (s : State), operating s = true → tdiHeld s fn = false →
    (boundTo s fn = none → exec (.vfFlr fn) s =
      .next (setFn s fn (fun f => { f with mbox := { f.mbox with session := none } }))) ∧
    (∀ id d, boundTo s fn = some (id, d) → getDef s id = some d →
      (d.state = .running → ∃ t d', exec (.vfFlr fn) s = .next t ∧ (getFn t fn).mbox.session = none ∧
        getDef t id = some d' ∧ d'.state = .quiescing ∧
        (∃ q, d'.quiesce = some q ∧ q.flush = true ∧ q.thenReset = true ∧ q.flr = true)) ∧
      (d.state = .resident ∨ d.state = .quiesced ∨ d.state = .faulted →
        ∃ t d', exec (.vfFlr fn) s = .next t ∧ getDef t id = some d' ∧ d'.state = .resident ∧ d'.rings = [] ∧
          d'.cpls = [] ∧ d'.fences = [] ∧ d'.ptBase = none ∧ d'.chunks = d.chunks ∧ d'.slot = d.slot ∧
          ((∀ p ∈ d.rings, p.2.cur = none) → d'.mem = d.mem) ∧ d'.grant = d.grant))) ∧
  (∀ s : State, operating s = true → (∀ fn, tdiHeld s fn = false) →
    (∃ t, exec .pf0Flr s = .next t ∧ t.defs = s.defs ∧ t.host = s.host ∧ (getSpdm t 0).sessions = [] ∧
      (getSpdm t 0).opening = [] ∧
      (getBox t .pf).session = none ∧
      t.belfry.state = if s.belfry.state = .attached then .orphaned else s.belfry.state) ∧
    (s.pins.host1En = false → exec .pf1Flr s = .next s) ∧
    (s.pins.host1En = true → ∃ t, exec .pf1Flr s = .next t ∧ (getSpdm t 1).sessions = [] ∧
      (getSpdm t 1).opening = [] ∧
      getFn t 65 = { getFn s 65 with
        arg0 := 0, arg1 := 0, arg2 := 0, arg3 := 0, ctlStatus := 0, drained := false, ctlResult := 0, ctlVecEn := false
        ctlVec := 0, regress := 0, discards := [] } ∧
      t = { s with fns := t.fns, keep := { s.keep with spdm := t.keep.spdm } })) ∧
  (∀ (port : Nat) (flit : Bool) (s : State), alive s = true →
    (portExists s port = false →
      exec (.hostLinkDown port) s = .next s ∧ exec (.hostLinkUp port flit) s = .next s) ∧
    (portExists s port = true → exec (.hostLinkUp port true) s = .next (setLink port true s)) ∧
    (portExists s port = true → operating s = false →
      exec (.hostLinkDown port) s = .next (setLink port false s) ∧
      exec (.hostLinkUp port false) s = .next (setLink port false s))) ∧
  (∀ (port : Nat) (i : Instr) (s : State), i = .hostLinkDown port ∨ i = .hostLinkUp port false → operating s = true →
    portExists s port = true → (∀ fn, tdiHeld s fn = false) →
    (boundOnPort s port = [] → Clear 11 s →
      ∃ t, exec i s = .next t ∧ t.defs = s.defs ∧ t.host = s.host ∧ t.pins = (setLink port false s).pins ∧
        (getSpdm t port).sessions = [] ∧ (getSpdm t port).opening = [] ∧
        t.belfry.state = if port = 0 ∧ s.belfry.state = .attached then .orphaned else s.belfry.state) ∧
    (∀ id d sl, s.defs = [(id, d)] → d.slot = some sl → d.grant.bindPort = port → d.state = .running →
      ∃ t d', exec i s = .next t ∧ getDef t id = some d' ∧ d'.state = .faulted ∧ d'.chunks = d.chunks))

/-- ENTDAA, RSTDAA, GETPID, GETBCR, GETDCR, GETSTATUS, ENEC and DISEC (R68, R69, R484); CHECKPOINT_TIMER and
SECTOR_ERASE_DONE (R511, R514, R515). The address that two equal IDs leave, and the bits of GETSTATUS that the manual does
not give, are free values (log 4). -/
def Obligations.I3cAndLog : Prop :=
  (∀ (dyn : BitVec 7) (s : State), alive s = true →
    (∀ eq, s.belfry.i3cAddr.isSome = true → exec (.entdaa dyn eq) s = .next s) ∧
    (s.belfry.i3cAddr = none →
      exec (.entdaa dyn false) s = .next (emit { s with belfry := { s.belfry with i3cAddr := some dyn } }
        (.i3c (i3cPid s ++ [Config.i3cBcr, Config.i3cDcr]))) ∧
      ∃ a, exec (.entdaa dyn true) s = .next (emit { s with
          freeCtr := s.freeCtr + 1, belfry := { s.belfry with i3cAddr := some a } }
        (.i3c (i3cPid s ++ [Config.i3cBcr, Config.i3cDcr])))) ∧
    exec .rstdaa s = .next { s with belfry := { s.belfry with i3cAddr := none } } ∧
    exec .enec s = .next { s with belfry := { s.belfry with ibiEn := true } } ∧
    exec .disec s = .next { s with belfry := { s.belfry with ibiEn := false } } ∧
    (s.belfry.i3cAddr.isSome = true →
      exec .getpid s = .next (emit s (.i3c (i3cPid s))) ∧ exec .getbcr s = .next (emit s (.i3c [Config.i3cBcr])) ∧
      exec .getdcr s = .next (emit s (.i3c [Config.i3cDcr])) ∧
      ∃ hi lo : Byte, exec .getstatus s = .next (emit { s with freeCtr := s.freeCtr + 1 } (.i3c [hi, lo])) ∧
        hi.getLsbD 0 = s.flt.safe) ∧
    (s.belfry.i3cAddr = none → exec .getpid s = .next s ∧ exec .getbcr s = .next s ∧ exec .getdcr s = .next s ∧
      exec .getstatus s = .next s)) ∧
  (∀ s : State, alive s = true →
    exec .sectorEraseDone s = .next { s with flash := { s.flash with nextErased := true } } ∧
    (s.boot.held = true ∨ s.flash.worn = true → exec .checkpointTimer s = .next s) ∧
    (s.boot.held = false → s.flash.worn = false →
      (s.life.writing = true → exec .checkpointTimer s = .next { s with life := { s.life with due := true } }) ∧
      (s.life.writing = false → 1 ≤ s.flash.inSector → s.flash.inSector < 1024 →
        ∃ t x, exec .checkpointTimer s = .next t ∧ t = { s with flash := t.flash, life := t.life, crc0 := t.crc0 } ∧
          t.flash.log = s.flash.log ++ [x] ∧ x.kind = 0x0002 ∧ x.seq = s.life.seq + 1 ∧
          x.payload = padTo 37 (checkpointBytes (accNow s)) ∧ t.life.cpSeq = s.life.seq + 1 ∧ t.life.cpClk = s.clk ∧
          t.life.due = false)))

/-! ### The whole block -/

/-- What State.reset holds (R20, R33, R74, R88, R447, R482): power is applied, RESET_N is low, and every register, the queue
and every memory stand at their reset values. That the model starts there is its choice (log 3). -/
def Obligations.ResetLeaves : Prop :=
  State.reset.pins.powered = true ∧ State.reset.pins.resetN = false ∧ operating State.reset = false ∧
  State.reset.pending = [] ∧ State.reset.defs = [] ∧ State.reset.host = [] ∧ State.reset.frags = [] ∧
  State.reset.bell.ns = 0 ∧ State.reset.bell.state = .freerun ∧ State.reset.bell.everLocked = false ∧
  State.reset.car.live.gen = 0 ∧ State.reset.car.armed = false ∧
  State.reset.flt = { safe := false, tampered := false, injected := false, firstCode := 0, later := 0, safeAt := 0
                      chatter := 0, containedMode := 0, safeMode := 1 } ∧
  State.reset.power.credit = 400000000 ∧ State.reset.power.envelope = false ∧ State.reset.power.clock = 400 ∧
  State.reset.vault.eccUnc = 1 ∧ State.reset.vault.tagFail = 1 ∧ State.reset.vault.keyCheck = 0 ∧
  (∀ u, getBlock State.reset u = FaultBlock.reset) ∧ (∀ f, getFn State.reset f = Fn.reset) ∧
  (∀ i, getSlot State.reset i = Slot.reset ∧ inSlot State.reset i = none) ∧ MemoryOk State.reset

/-- The carillon table that a reset leaves (R88): generation 0, every owner byte 0x80 and every flag clear. -/
def Obligations.DefaultTable : Prop :=
  ∀ t : State, (t = State.reset ∨
      (∃ s : State, s.pins.powered = true ∧ s.pins.resetN = true ∧ exec .resetNAssert s = .next t) ∨
      (∃ s : State, s.pins.powered = false ∧ exec .powerUp s = .next t)) →
    t.car.live.gen = 0 ∧ (∀ i res, ownerAt t.car.live i res = 0x80) ∧ ∀ i, noLend t.car.live i = (false, false)

/-- While the block does not operate, no command of this list has an effect (R480, R494); and with no power, no command has
one but POWER_UP. -/
def Obligations.OperatingOnly : Prop :=
  (∀ (c : Instr) (s : State), operating s = false → operatingOnly c = true → exec c s = .next s) ∧
  (∀ (c : Instr) (s : State), s.pins.powered = false → c ≠ .powerUp → exec c s = .next s)

/-- Only removal of power ends the safe state or clears the tamper latch, and a reset keeps the held values of FLT (R38,
R481, R482): an invariant of every step. -/
def Obligations.LatchesHold : Prop :=
  ∀ s t : State, Latched s → s.pending.head? ≠ some .powerRemoval → step s = .next t →
    Latched t ∧ (s.flt.tampered = true → t.flt.tampered = true) ∧
    (s.flt.safe = true → t.flt.safe = true ∧ t.flt.firstCode = s.flt.firstCode ∧ t.flt.safeAt = s.flt.safeAt ∧
      t.flt.injected = s.flt.injected)

/-- In the safe state no command completes, no ring, fence or QP changes, the host's memory is not written, no frame is
counted and none is offered (R50, R480), whatever command is taken; a reset, the loss of power and a tamper apart, as the
command or as its neighbour in the same clock. The MAC totals alone go on. -/
def Obligations.SafeStateFreezes : Prop :=
  ∀ (c : Instr) (s t : State), s.pins.powered = true → s.flt.safe = true → c ≠ .powerRemoval → c ≠ .resetNAssert →
    c ≠ .tamperNAssert → exec c s = .next t →
    (c = .errInNAssert → edgeNow .resetNAssert s = false ∧ edgeNow .tamperNAssert s = false) →
    t.defs = s.defs ∧ t.host = s.host ∧ t.frags = s.frags ∧ t.xpt = { s.xpt with mac := t.xpt.mac } ∧
    ∀ port slot cls lso lower hdr body, .frame port slot cls lso lower hdr body ∈ t.outs →
      .frame port slot cls lso lower hdr body ∈ s.outs

/-- Memory: the canonical form makes memories that read alike equal, and the operations that write a partition's memory or
its host's keep it and write what they are given, where they are given it, and nothing else. -/
def Obligations.MemoryCanonical : Prop :=
  (∀ m n : Cells, Memory.wf m = true → Memory.wf n = true → (∀ a, readByte m a = readByte n a) → m = n) ∧
  (∀ (id off : Nat) (bs : List Byte) (s : State), MemoryOk s → MemoryOk (memWrite id off bs s)) ∧
  (∀ (id va : Nat) (bs : List Byte) (s : State), MemoryOk s → MemoryOk (writeVa id va bs s)) ∧
  (∀ (id off : Nat) (bs : List Byte) (d : Def) (s : State), MemoryOk s → getDef s id = some d →
    ∃ d', getDef (memWrite id off bs s) id = some d' ∧ OthersKept id s (memWrite id off bs s) ∧
      readBytes d'.mem off bs.length = bs ∧
      (∀ a, a < off ∨ off + bs.length ≤ a → readByte d'.mem a = readByte d.mem a) ∧
      (d.dirty = none → (memWrite id off bs s).host = s.host))
end

