-- ==== Sys2Proof/Laws/Maps.lean ====
section
/-! SUPPORT. Lemmas about finite maps, and the canonical form of memory that every memory operation keeps. -/

namespace Sys2Proof.Machine

variable {β : Type}

/-! ### Lookup after an update -/

@[simp] theorem mfind_nil (a : Nat) : mfind ([] : NMap β) a = none := rfl

@[simp] theorem mfind_mput_self (m : NMap β) (a : Nat) (b : β) : mfind (mput m a b) a = some b := by
  induction m with
  | nil => simp [mput, mfind]
  | cons p m ih =>
    obtain ⟨k, v⟩ := p
    unfold mput
    split
    · simp [mfind]
    · split
      · simp [mfind]
      · rename_i h1 h2
        have : k ≠ a := fun h => h2 h.symm
        simp [mfind, this, ih]

theorem mfind_mput_ne (m : NMap β) {a c : Nat} (b : β) (h : c ≠ a) : mfind (mput m a b) c = mfind m c := by
  induction m with
  | nil => simp [mput, mfind, Ne.symm h]
  | cons p m ih =>
    obtain ⟨k, v⟩ := p
    unfold mput
    split
    · simp [mfind, Ne.symm h]
    · split
      · rename_i h1 h2
        subst h2
        simp [mfind, Ne.symm h]
      · simp [mfind, ih]

theorem mfind_mdrop_ne (m : NMap β) {a c : Nat} (h : c ≠ a) : mfind (mdrop m a) c = mfind m c := by
  induction m with
  | nil => rfl
  | cons p m ih =>
    obtain ⟨k, v⟩ := p
    unfold mdrop
    split
    · rename_i h1
      subst h1
      simp [mfind, Ne.symm h]
    · simp [mfind, ih]

@[simp] theorem mfind_madj_self (m : NMap β) (a : Nat) (f : β → β) : mfind (madj m a f) a = (mfind m a).map f := by
  induction m with
  | nil => rfl
  | cons p m ih =>
    obtain ⟨k, v⟩ := p
    unfold madj
    split
    · rename_i h
      simp [mfind, h]
    · rename_i h
      simp [mfind, h, ih]

theorem mfind_madj_ne (m : NMap β) {a c : Nat} (f : β → β) (h : c ≠ a) : mfind (madj m a f) c = mfind m c := by
  induction m with
  | nil => rfl
  | cons p m ih =>
    obtain ⟨k, v⟩ := p
    unfold madj
    split
    · rename_i h1
      subst h1
      simp [mfind, Ne.symm h]
    · simp [mfind, ih]

/-! ### Rising keys -/

theorem mrising_cons {lo : Option Nat} {k : Nat} {v : β} {m : NMap β} :
    mrising lo ((k, v) :: m) = true ↔ (∀ l, lo = some l → l < k) ∧ mrising (some k) m = true := by
  cases lo <;> simp [mrising]

theorem mrising_weaken {lo lo' : Option Nat} {m : NMap β} (h : mrising lo m = true)
    (hl : ∀ l', lo' = some l' → ∃ l, lo = some l ∧ l' ≤ l) : mrising lo' m = true := by
  cases m with
  | nil => rfl
  | cons p m =>
    obtain ⟨k, v⟩ := p
    simp only [mrising, Bool.and_eq_true] at h ⊢
    refine ⟨?_, h.2⟩
    cases lo' with
    | none => rfl
    | some l' =>
      obtain ⟨l, rfl, hle⟩ := hl l' rfl
      simp at h ⊢
      omega

theorem mrising_none {lo : Option Nat} {m : NMap β} (h : mrising lo m = true) : mrising none m = true :=
  mrising_weaken h (fun _ hl => by cases hl)

theorem mrising_above {l : Nat} {m : NMap β} (h : mrising (some l) m = true) : ∀ p ∈ m, l < p.1 := by
  induction m generalizing l with
  | nil => simp
  | cons p m ih =>
    obtain ⟨k, v⟩ := p
    simp only [mrising, Bool.and_eq_true, decide_eq_true_eq] at h
    intro q hq
    rcases List.mem_cons.mp hq with rfl | hq
    · exact h.1
    · exact Nat.lt_trans h.1 (ih h.2 q hq)

theorem mrising_mput {lo : Option Nat} (m : NMap β) (a : Nat) (b : β) (h : mrising lo m = true)
    (ha : ∀ l, lo = some l → l < a) : mrising lo (mput m a b) = true := by
  induction m generalizing lo with
  | nil => exact mrising_cons.mpr ⟨ha, rfl⟩
  | cons p m ih =>
    obtain ⟨k, v⟩ := p
    obtain ⟨h1, h2⟩ := mrising_cons.mp h
    unfold mput
    split
    · rename_i hk
      exact mrising_cons.mpr ⟨ha, mrising_cons.mpr ⟨fun l hl => by injection hl with hl; omega, h2⟩⟩
    · split
      · rename_i _ hk
        subst hk
        exact mrising_cons.mpr ⟨ha, h2⟩
      · rename_i hk hk'
        exact mrising_cons.mpr ⟨h1, ih h2 (fun l hl => by injection hl with hl; omega)⟩

theorem mrising_filter {lo : Option Nat} (m : NMap β) (q : Nat × β → Bool) (h : mrising lo m = true) :
    mrising lo (m.filter q) = true := by
  induction m generalizing lo with
  | nil => rfl
  | cons p m ih =>
    obtain ⟨k, v⟩ := p
    simp only [mrising, Bool.and_eq_true] at h
    by_cases hq : q (k, v) = true
    · simp only [List.filter_cons, hq, if_true, mrising, Bool.and_eq_true]
      exact ⟨h.1, ih h.2⟩
    · simp only [List.filter_cons, hq]
      refine mrising_weaken (ih h.2) (fun l hl => ⟨k, rfl, ?_⟩)
      subst hl
      have := h.1
      simp at this
      omega

theorem mrising_mdrop {lo : Option Nat} (m : NMap β) (a : Nat) (h : mrising lo m = true) :
    mrising lo (mdrop m a) = true := by
  induction m generalizing lo with
  | nil => rfl
  | cons p m ih =>
    obtain ⟨k, v⟩ := p
    simp only [mrising, Bool.and_eq_true] at h
    unfold mdrop
    split
    · refine mrising_weaken h.2 (fun l hl => ⟨k, rfl, ?_⟩)
      subst hl
      have := h.1
      simp at this
      omega
    · simp only [mrising, Bool.and_eq_true]
      exact ⟨h.1, ih h.2⟩

theorem mfind_none_of_above {l a : Nat} {m : NMap β} (h : mrising (some l) m = true) (ha : a ≤ l) : mfind m a = none := by
  induction m generalizing l with
  | nil => rfl
  | cons p m ih =>
    obtain ⟨k, v⟩ := p
    simp only [mrising, Bool.and_eq_true, decide_eq_true_eq] at h
    have : k ≠ a := by omega
    simp only [mfind, this, if_false]
    exact ih h.2 (by omega)

theorem mfind_mdrop_self {lo : Option Nat} {m : NMap β} (a : Nat) (h : mrising lo m = true) : mfind (mdrop m a) a = none := by
  induction m generalizing lo with
  | nil => rfl
  | cons p m ih =>
    obtain ⟨k, v⟩ := p
    simp only [mrising, Bool.and_eq_true] at h
    unfold mdrop
    split
    · rename_i hk
      subst hk
      exact mfind_none_of_above h.2 (Nat.le_refl _)
    · rename_i hk
      simp only [mfind, hk, if_false]
      exact ih h.2

/-! ### The canonical form of memory -/

theorem all_mput {q : Nat × β → Bool} {m : NMap β} {a : Nat} {b : β} (h : m.all q = true) (hb : q (a, b) = true) :
    (mput m a b).all q = true := by
  induction m with
  | nil => simp [mput, hb]
  | cons p m ih =>
    obtain ⟨k, v⟩ := p
    simp only [List.all_cons, Bool.and_eq_true] at h
    unfold mput
    split
    · simp [hb, h.1, h.2]
    · split
      · simp [hb, h.2]
      · simp [h.1, ih h.2]

theorem all_mdrop {q : Nat × β → Bool} {m : NMap β} {a : Nat} (h : m.all q = true) : (mdrop m a).all q = true := by
  induction m with
  | nil => rfl
  | cons p m ih =>
    obtain ⟨k, v⟩ := p
    simp only [List.all_cons, Bool.and_eq_true] at h
    unfold mdrop
    split
    · exact h.2
    · simp [h.1, ih h.2]

theorem all_filter {q r : Nat × β → Bool} {m : NMap β} (h : m.all q = true) : (m.filter r).all q = true := by
  rw [List.all_eq_true] at h ⊢
  exact fun x hx => h x (List.mem_filter.mp hx).1

theorem wf_nil : Memory.wf [] = true := rfl

theorem wf_writeByte {m : Cells} (a : Nat) (b : Byte) (h : Memory.wf m = true) : Memory.wf (writeByte m a b) = true := by
  simp only [Memory.wf, Bool.and_eq_true] at h ⊢
  unfold writeByte
  split
  · exact ⟨mrising_mdrop m a h.1, all_mdrop h.2⟩
  · rename_i hb
    exact ⟨mrising_mput m a b h.1 (fun _ hl => by cases hl), all_mput h.2 (by simpa using hb)⟩

/-- Every write of bytes keeps the canonical form. -/
theorem wf_writeBytes {m : Cells} (a : Nat) (bs : List Byte) (h : Memory.wf m = true) :
    Memory.wf (writeBytes m a bs) = true := by
  induction bs generalizing m a with
  | nil => exact h
  | cons b bs ih => exact ih (a + 1) (wf_writeByte a b h)

/-- Clearing a range keeps the canonical form. -/
theorem wf_clearBytes {m : Cells} (lo n : Nat) (h : Memory.wf m = true) : Memory.wf (clearBytes m lo n) = true := by
  simp only [Memory.wf, Bool.and_eq_true] at h ⊢
  exact ⟨mrising_filter m _ h.1, all_filter h.2⟩

/-- Any selection of entries keeps the canonical form. -/
theorem wf_filter {m : Cells} (q : Nat × Byte → Bool) (h : Memory.wf m = true) : Memory.wf (m.filter q) = true := by
  simp only [Memory.wf, Bool.and_eq_true] at h ⊢
  exact ⟨mrising_filter m _ h.1, all_filter h.2⟩

/-! ### Reading after writing -/

theorem readByte_writeByte_self {m : Cells} (a : Nat) (b : Byte) (h : Memory.wf m = true) :
    readByte (writeByte m a b) a = b := by
  simp only [Memory.wf, Bool.and_eq_true] at h
  unfold writeByte
  split
  · rename_i hb
    simp [readByte, mfind_mdrop_self a h.1, hb]
  · simp [readByte]

theorem readByte_writeByte_ne (m : Cells) {a c : Nat} (b : Byte) (h : c ≠ a) :
    readByte (writeByte m a b) c = readByte m c := by
  unfold writeByte
  split
  · simp [readByte, mfind_mdrop_ne m h]
  · simp [readByte, mfind_mput_ne m b h]

/-- A write leaves every byte outside it alone. -/
theorem readByte_writeBytes_out (m : Cells) (a c : Nat) (bs : List Byte) (h : c < a ∨ a + bs.length ≤ c) :
    readByte (writeBytes m a bs) c = readByte m c := by
  induction bs generalizing m a with
  | nil => rfl
  | cons b bs ih =>
    simp only [List.length_cons] at h
    have h1 := ih (writeByte m a b) (a + 1) (by omega)
    simp only [writeBytes]
    rw [h1, readByte_writeByte_ne m b (by omega)]

/-- A read of what was written gives the bytes written. -/
theorem readBytes_writeBytes {m : Cells} (a : Nat) (bs : List Byte) (h : Memory.wf m = true) :
    readBytes (writeBytes m a bs) a bs.length = bs := by
  induction bs generalizing m a with
  | nil => rfl
  | cons b bs ih =>
    simp only [writeBytes, List.length_cons, readBytes]
    rw [ih (a + 1) (wf_writeByte a b h), readByte_writeBytes_out _ _ _ _ (by omega), readByte_writeByte_self a b h]

/-- The host memory of a function keeps the canonical form under a write to any function's. -/
theorem wf_hostWrite {s : State} (fn a : Nat) (bs : List Byte) (g : Nat)
    (h : ∀ f, Memory.wf (hostMem s f) = true) : Memory.wf (hostMem (hostWrite s fn a bs) g) = true := by
  by_cases hg : g = fn
  · subst hg
    simpa [hostMem, hostWrite] using wf_writeBytes a bs (h g)
  · simpa [hostMem, hostWrite, mfind_mput_ne _ _ hg] using h g

/-- Reset memory has the canonical form. -/
theorem wf_reset (fn : Nat) : Memory.wf (hostMem State.reset fn) = true := rfl

end Sys2Proof.Machine
end

