-- ==== Sys2Proof/Laws/State.lean ====
section
/-! SUPPORT. What each update of the state leaves alone, one lemma per field, and what each composed operation may change. -/

namespace Sys2Proof.Machine

variable (s : State)

/-! ### setFn -/

@[simp] theorem setFn_pins (fn : Nat) (f : Fn → Fn) : (setFn s fn f).pins = s.pins := rfl
@[simp] theorem setFn_bell (fn : Nat) (f : Fn → Fn) : (setFn s fn f).bell = s.bell := rfl
@[simp] theorem setFn_car (fn : Nat) (f : Fn → Fn) : (setFn s fn f).car = s.car := rfl
@[simp] theorem setFn_flt (fn : Nat) (f : Fn → Fn) : (setFn s fn f).flt = s.flt := rfl
@[simp] theorem setFn_keep (fn : Nat) (f : Fn → Fn) : (setFn s fn f).keep = s.keep := rfl
@[simp] theorem setFn_belfry (fn : Nat) (f : Fn → Fn) : (setFn s fn f).belfry = s.belfry := rfl
@[simp] theorem setFn_power (fn : Nat) (f : Fn → Fn) : (setFn s fn f).power = s.power := rfl
@[simp] theorem setFn_boot (fn : Nat) (f : Fn → Fn) : (setFn s fn f).boot = s.boot := rfl
@[simp] theorem setFn_flash (fn : Nat) (f : Fn → Fn) : (setFn s fn f).flash = s.flash := rfl
@[simp] theorem setFn_life (fn : Nat) (f : Fn → Fn) : (setFn s fn f).life = s.life := rfl
@[simp] theorem setFn_crc (fn : Nat) (f : Fn → Fn) : (setFn s fn f).crc = s.crc := rfl
@[simp] theorem setFn_xpt (fn : Nat) (f : Fn → Fn) : (setFn s fn f).xpt = s.xpt := rfl
@[simp] theorem setFn_vault (fn : Nat) (f : Fn → Fn) : (setFn s fn f).vault = s.vault := rfl
@[simp] theorem setFn_domes (fn : Nat) (f : Fn → Fn) : (setFn s fn f).domes = s.domes := rfl
@[simp] theorem setFn_faults (fn : Nat) (f : Fn → Fn) : (setFn s fn f).faults = s.faults := rfl
@[simp] theorem setFn_slots (fn : Nat) (f : Fn → Fn) : (setFn s fn f).slots = s.slots := rfl
@[simp] theorem setFn_defs (fn : Nat) (f : Fn → Fn) : (setFn s fn f).defs = s.defs := rfl
@[simp] theorem setFn_host (fn : Nat) (f : Fn → Fn) : (setFn s fn f).host = s.host := rfl
@[simp] theorem setFn_fetches (fn : Nat) (f : Fn → Fn) : (setFn s fn f).fetches = s.fetches := rfl
@[simp] theorem setFn_frags (fn : Nat) (f : Fn → Fn) : (setFn s fn f).frags = s.frags := rfl
@[simp] theorem setFn_epochAt (fn : Nat) (f : Fn → Fn) : (setFn s fn f).epochAt = s.epochAt := rfl
@[simp] theorem setFn_fabric (fn : Nat) (f : Fn → Fn) : (setFn s fn f).fabric = s.fabric := rfl
@[simp] theorem setFn_crc0 (fn : Nat) (f : Fn → Fn) : (setFn s fn f).crc0 = s.crc0 := rfl
@[simp] theorem setFn_clk (fn : Nat) (f : Fn → Fn) : (setFn s fn f).clk = s.clk := rfl
@[simp] theorem setFn_freeCtr (fn : Nat) (f : Fn → Fn) : (setFn s fn f).freeCtr = s.freeCtr := rfl
@[simp] theorem setFn_outs (fn : Nat) (f : Fn → Fn) : (setFn s fn f).outs = s.outs := rfl
@[simp] theorem setFn_pending (fn : Nat) (f : Fn → Fn) : (setFn s fn f).pending = s.pending := rfl

/-! ### setSlot -/

@[simp] theorem setSlot_pins (i : Nat) (f : Slot → Slot) : (setSlot s i f).pins = s.pins := rfl
@[simp] theorem setSlot_bell (i : Nat) (f : Slot → Slot) : (setSlot s i f).bell = s.bell := rfl
@[simp] theorem setSlot_car (i : Nat) (f : Slot → Slot) : (setSlot s i f).car = s.car := rfl
@[simp] theorem setSlot_flt (i : Nat) (f : Slot → Slot) : (setSlot s i f).flt = s.flt := rfl
@[simp] theorem setSlot_keep (i : Nat) (f : Slot → Slot) : (setSlot s i f).keep = s.keep := rfl
@[simp] theorem setSlot_belfry (i : Nat) (f : Slot → Slot) : (setSlot s i f).belfry = s.belfry := rfl
@[simp] theorem setSlot_power (i : Nat) (f : Slot → Slot) : (setSlot s i f).power = s.power := rfl
@[simp] theorem setSlot_boot (i : Nat) (f : Slot → Slot) : (setSlot s i f).boot = s.boot := rfl
@[simp] theorem setSlot_flash (i : Nat) (f : Slot → Slot) : (setSlot s i f).flash = s.flash := rfl
@[simp] theorem setSlot_life (i : Nat) (f : Slot → Slot) : (setSlot s i f).life = s.life := rfl
@[simp] theorem setSlot_crc (i : Nat) (f : Slot → Slot) : (setSlot s i f).crc = s.crc := rfl
@[simp] theorem setSlot_xpt (i : Nat) (f : Slot → Slot) : (setSlot s i f).xpt = s.xpt := rfl
@[simp] theorem setSlot_vault (i : Nat) (f : Slot → Slot) : (setSlot s i f).vault = s.vault := rfl
@[simp] theorem setSlot_domes (i : Nat) (f : Slot → Slot) : (setSlot s i f).domes = s.domes := rfl
@[simp] theorem setSlot_faults (i : Nat) (f : Slot → Slot) : (setSlot s i f).faults = s.faults := rfl
@[simp] theorem setSlot_defs (i : Nat) (f : Slot → Slot) : (setSlot s i f).defs = s.defs := rfl
@[simp] theorem setSlot_fns (i : Nat) (f : Slot → Slot) : (setSlot s i f).fns = s.fns := rfl
@[simp] theorem setSlot_host (i : Nat) (f : Slot → Slot) : (setSlot s i f).host = s.host := rfl
@[simp] theorem setSlot_fetches (i : Nat) (f : Slot → Slot) : (setSlot s i f).fetches = s.fetches := rfl
@[simp] theorem setSlot_frags (i : Nat) (f : Slot → Slot) : (setSlot s i f).frags = s.frags := rfl
@[simp] theorem setSlot_epochAt (i : Nat) (f : Slot → Slot) : (setSlot s i f).epochAt = s.epochAt := rfl
@[simp] theorem setSlot_fabric (i : Nat) (f : Slot → Slot) : (setSlot s i f).fabric = s.fabric := rfl
@[simp] theorem setSlot_crc0 (i : Nat) (f : Slot → Slot) : (setSlot s i f).crc0 = s.crc0 := rfl
@[simp] theorem setSlot_clk (i : Nat) (f : Slot → Slot) : (setSlot s i f).clk = s.clk := rfl
@[simp] theorem setSlot_freeCtr (i : Nat) (f : Slot → Slot) : (setSlot s i f).freeCtr = s.freeCtr := rfl
@[simp] theorem setSlot_outs (i : Nat) (f : Slot → Slot) : (setSlot s i f).outs = s.outs := rfl
@[simp] theorem setSlot_pending (i : Nat) (f : Slot → Slot) : (setSlot s i f).pending = s.pending := rfl

/-! ### setDef -/

@[simp] theorem setDef_pins (d : Nat) (f : Def → Def) : (setDef s d f).pins = s.pins := rfl
@[simp] theorem setDef_bell (d : Nat) (f : Def → Def) : (setDef s d f).bell = s.bell := rfl
@[simp] theorem setDef_car (d : Nat) (f : Def → Def) : (setDef s d f).car = s.car := rfl
@[simp] theorem setDef_flt (d : Nat) (f : Def → Def) : (setDef s d f).flt = s.flt := rfl
@[simp] theorem setDef_keep (d : Nat) (f : Def → Def) : (setDef s d f).keep = s.keep := rfl
@[simp] theorem setDef_belfry (d : Nat) (f : Def → Def) : (setDef s d f).belfry = s.belfry := rfl
@[simp] theorem setDef_power (d : Nat) (f : Def → Def) : (setDef s d f).power = s.power := rfl
@[simp] theorem setDef_boot (d : Nat) (f : Def → Def) : (setDef s d f).boot = s.boot := rfl
@[simp] theorem setDef_flash (d : Nat) (f : Def → Def) : (setDef s d f).flash = s.flash := rfl
@[simp] theorem setDef_life (d : Nat) (f : Def → Def) : (setDef s d f).life = s.life := rfl
@[simp] theorem setDef_crc (d : Nat) (f : Def → Def) : (setDef s d f).crc = s.crc := rfl
@[simp] theorem setDef_xpt (d : Nat) (f : Def → Def) : (setDef s d f).xpt = s.xpt := rfl
@[simp] theorem setDef_vault (d : Nat) (f : Def → Def) : (setDef s d f).vault = s.vault := rfl
@[simp] theorem setDef_domes (d : Nat) (f : Def → Def) : (setDef s d f).domes = s.domes := rfl
@[simp] theorem setDef_faults (d : Nat) (f : Def → Def) : (setDef s d f).faults = s.faults := rfl
@[simp] theorem setDef_slots (d : Nat) (f : Def → Def) : (setDef s d f).slots = s.slots := rfl
@[simp] theorem setDef_fns (d : Nat) (f : Def → Def) : (setDef s d f).fns = s.fns := rfl
@[simp] theorem setDef_host (d : Nat) (f : Def → Def) : (setDef s d f).host = s.host := rfl
@[simp] theorem setDef_fetches (d : Nat) (f : Def → Def) : (setDef s d f).fetches = s.fetches := rfl
@[simp] theorem setDef_frags (d : Nat) (f : Def → Def) : (setDef s d f).frags = s.frags := rfl
@[simp] theorem setDef_epochAt (d : Nat) (f : Def → Def) : (setDef s d f).epochAt = s.epochAt := rfl
@[simp] theorem setDef_fabric (d : Nat) (f : Def → Def) : (setDef s d f).fabric = s.fabric := rfl
@[simp] theorem setDef_crc0 (d : Nat) (f : Def → Def) : (setDef s d f).crc0 = s.crc0 := rfl
@[simp] theorem setDef_clk (d : Nat) (f : Def → Def) : (setDef s d f).clk = s.clk := rfl
@[simp] theorem setDef_freeCtr (d : Nat) (f : Def → Def) : (setDef s d f).freeCtr = s.freeCtr := rfl
@[simp] theorem setDef_outs (d : Nat) (f : Def → Def) : (setDef s d f).outs = s.outs := rfl
@[simp] theorem setDef_pending (d : Nat) (f : Def → Def) : (setDef s d f).pending = s.pending := rfl

/-! ### setBlock -/

@[simp] theorem setBlock_pins (u : Nat) (f : FaultBlock → FaultBlock) : (setBlock s u f).pins = s.pins := rfl
@[simp] theorem setBlock_bell (u : Nat) (f : FaultBlock → FaultBlock) : (setBlock s u f).bell = s.bell := rfl
@[simp] theorem setBlock_car (u : Nat) (f : FaultBlock → FaultBlock) : (setBlock s u f).car = s.car := rfl
@[simp] theorem setBlock_flt (u : Nat) (f : FaultBlock → FaultBlock) : (setBlock s u f).flt = s.flt := rfl
@[simp] theorem setBlock_keep (u : Nat) (f : FaultBlock → FaultBlock) : (setBlock s u f).keep = s.keep := rfl
@[simp] theorem setBlock_belfry (u : Nat) (f : FaultBlock → FaultBlock) : (setBlock s u f).belfry = s.belfry := rfl
@[simp] theorem setBlock_power (u : Nat) (f : FaultBlock → FaultBlock) : (setBlock s u f).power = s.power := rfl
@[simp] theorem setBlock_boot (u : Nat) (f : FaultBlock → FaultBlock) : (setBlock s u f).boot = s.boot := rfl
@[simp] theorem setBlock_flash (u : Nat) (f : FaultBlock → FaultBlock) : (setBlock s u f).flash = s.flash := rfl
@[simp] theorem setBlock_life (u : Nat) (f : FaultBlock → FaultBlock) : (setBlock s u f).life = s.life := rfl
@[simp] theorem setBlock_crc (u : Nat) (f : FaultBlock → FaultBlock) : (setBlock s u f).crc = s.crc := rfl
@[simp] theorem setBlock_xpt (u : Nat) (f : FaultBlock → FaultBlock) : (setBlock s u f).xpt = s.xpt := rfl
@[simp] theorem setBlock_vault (u : Nat) (f : FaultBlock → FaultBlock) : (setBlock s u f).vault = s.vault := rfl
@[simp] theorem setBlock_domes (u : Nat) (f : FaultBlock → FaultBlock) : (setBlock s u f).domes = s.domes := rfl
@[simp] theorem setBlock_slots (u : Nat) (f : FaultBlock → FaultBlock) : (setBlock s u f).slots = s.slots := rfl
@[simp] theorem setBlock_defs (u : Nat) (f : FaultBlock → FaultBlock) : (setBlock s u f).defs = s.defs := rfl
@[simp] theorem setBlock_fns (u : Nat) (f : FaultBlock → FaultBlock) : (setBlock s u f).fns = s.fns := rfl
@[simp] theorem setBlock_host (u : Nat) (f : FaultBlock → FaultBlock) : (setBlock s u f).host = s.host := rfl
@[simp] theorem setBlock_fetches (u : Nat) (f : FaultBlock → FaultBlock) : (setBlock s u f).fetches = s.fetches := rfl
@[simp] theorem setBlock_frags (u : Nat) (f : FaultBlock → FaultBlock) : (setBlock s u f).frags = s.frags := rfl
@[simp] theorem setBlock_epochAt (u : Nat) (f : FaultBlock → FaultBlock) : (setBlock s u f).epochAt = s.epochAt := rfl
@[simp] theorem setBlock_fabric (u : Nat) (f : FaultBlock → FaultBlock) : (setBlock s u f).fabric = s.fabric := rfl
@[simp] theorem setBlock_crc0 (u : Nat) (f : FaultBlock → FaultBlock) : (setBlock s u f).crc0 = s.crc0 := rfl
@[simp] theorem setBlock_clk (u : Nat) (f : FaultBlock → FaultBlock) : (setBlock s u f).clk = s.clk := rfl
@[simp] theorem setBlock_freeCtr (u : Nat) (f : FaultBlock → FaultBlock) : (setBlock s u f).freeCtr = s.freeCtr := rfl
@[simp] theorem setBlock_outs (u : Nat) (f : FaultBlock → FaultBlock) : (setBlock s u f).outs = s.outs := rfl
@[simp] theorem setBlock_pending (u : Nat) (f : FaultBlock → FaultBlock) : (setBlock s u f).pending = s.pending := rfl

/-! ### emit -/

@[simp] theorem emit_pins (o : Out) : (emit s o).pins = s.pins := rfl
@[simp] theorem emit_bell (o : Out) : (emit s o).bell = s.bell := rfl
@[simp] theorem emit_car (o : Out) : (emit s o).car = s.car := rfl
@[simp] theorem emit_flt (o : Out) : (emit s o).flt = s.flt := rfl
@[simp] theorem emit_keep (o : Out) : (emit s o).keep = s.keep := rfl
@[simp] theorem emit_belfry (o : Out) : (emit s o).belfry = s.belfry := rfl
@[simp] theorem emit_power (o : Out) : (emit s o).power = s.power := rfl
@[simp] theorem emit_boot (o : Out) : (emit s o).boot = s.boot := rfl
@[simp] theorem emit_flash (o : Out) : (emit s o).flash = s.flash := rfl
@[simp] theorem emit_life (o : Out) : (emit s o).life = s.life := rfl
@[simp] theorem emit_crc (o : Out) : (emit s o).crc = s.crc := rfl
@[simp] theorem emit_xpt (o : Out) : (emit s o).xpt = s.xpt := rfl
@[simp] theorem emit_vault (o : Out) : (emit s o).vault = s.vault := rfl
@[simp] theorem emit_domes (o : Out) : (emit s o).domes = s.domes := rfl
@[simp] theorem emit_faults (o : Out) : (emit s o).faults = s.faults := rfl
@[simp] theorem emit_slots (o : Out) : (emit s o).slots = s.slots := rfl
@[simp] theorem emit_defs (o : Out) : (emit s o).defs = s.defs := rfl
@[simp] theorem emit_fns (o : Out) : (emit s o).fns = s.fns := rfl
@[simp] theorem emit_host (o : Out) : (emit s o).host = s.host := rfl
@[simp] theorem emit_fetches (o : Out) : (emit s o).fetches = s.fetches := rfl
@[simp] theorem emit_frags (o : Out) : (emit s o).frags = s.frags := rfl
@[simp] theorem emit_epochAt (o : Out) : (emit s o).epochAt = s.epochAt := rfl
@[simp] theorem emit_fabric (o : Out) : (emit s o).fabric = s.fabric := rfl
@[simp] theorem emit_crc0 (o : Out) : (emit s o).crc0 = s.crc0 := rfl
@[simp] theorem emit_clk (o : Out) : (emit s o).clk = s.clk := rfl
@[simp] theorem emit_freeCtr (o : Out) : (emit s o).freeCtr = s.freeCtr := rfl
@[simp] theorem emit_pending (o : Out) : (emit s o).pending = s.pending := rfl

/-! ### hostWrite -/

@[simp] theorem hostWrite_pins (fn a : Nat) (bs : List Byte) : (hostWrite s fn a bs).pins = s.pins := rfl
@[simp] theorem hostWrite_bell (fn a : Nat) (bs : List Byte) : (hostWrite s fn a bs).bell = s.bell := rfl
@[simp] theorem hostWrite_car (fn a : Nat) (bs : List Byte) : (hostWrite s fn a bs).car = s.car := rfl
@[simp] theorem hostWrite_flt (fn a : Nat) (bs : List Byte) : (hostWrite s fn a bs).flt = s.flt := rfl
@[simp] theorem hostWrite_keep (fn a : Nat) (bs : List Byte) : (hostWrite s fn a bs).keep = s.keep := rfl
@[simp] theorem hostWrite_belfry (fn a : Nat) (bs : List Byte) : (hostWrite s fn a bs).belfry = s.belfry := rfl
@[simp] theorem hostWrite_power (fn a : Nat) (bs : List Byte) : (hostWrite s fn a bs).power = s.power := rfl
@[simp] theorem hostWrite_boot (fn a : Nat) (bs : List Byte) : (hostWrite s fn a bs).boot = s.boot := rfl
@[simp] theorem hostWrite_flash (fn a : Nat) (bs : List Byte) : (hostWrite s fn a bs).flash = s.flash := rfl
@[simp] theorem hostWrite_life (fn a : Nat) (bs : List Byte) : (hostWrite s fn a bs).life = s.life := rfl
@[simp] theorem hostWrite_crc (fn a : Nat) (bs : List Byte) : (hostWrite s fn a bs).crc = s.crc := rfl
@[simp] theorem hostWrite_xpt (fn a : Nat) (bs : List Byte) : (hostWrite s fn a bs).xpt = s.xpt := rfl
@[simp] theorem hostWrite_vault (fn a : Nat) (bs : List Byte) : (hostWrite s fn a bs).vault = s.vault := rfl
@[simp] theorem hostWrite_domes (fn a : Nat) (bs : List Byte) : (hostWrite s fn a bs).domes = s.domes := rfl
@[simp] theorem hostWrite_faults (fn a : Nat) (bs : List Byte) : (hostWrite s fn a bs).faults = s.faults := rfl
@[simp] theorem hostWrite_slots (fn a : Nat) (bs : List Byte) : (hostWrite s fn a bs).slots = s.slots := rfl
@[simp] theorem hostWrite_defs (fn a : Nat) (bs : List Byte) : (hostWrite s fn a bs).defs = s.defs := rfl
@[simp] theorem hostWrite_fns (fn a : Nat) (bs : List Byte) : (hostWrite s fn a bs).fns = s.fns := rfl
@[simp] theorem hostWrite_fetches (fn a : Nat) (bs : List Byte) : (hostWrite s fn a bs).fetches = s.fetches := rfl
@[simp] theorem hostWrite_frags (fn a : Nat) (bs : List Byte) : (hostWrite s fn a bs).frags = s.frags := rfl
@[simp] theorem hostWrite_epochAt (fn a : Nat) (bs : List Byte) : (hostWrite s fn a bs).epochAt = s.epochAt := rfl
@[simp] theorem hostWrite_fabric (fn a : Nat) (bs : List Byte) : (hostWrite s fn a bs).fabric = s.fabric := rfl
@[simp] theorem hostWrite_crc0 (fn a : Nat) (bs : List Byte) : (hostWrite s fn a bs).crc0 = s.crc0 := rfl
@[simp] theorem hostWrite_clk (fn a : Nat) (bs : List Byte) : (hostWrite s fn a bs).clk = s.clk := rfl
@[simp] theorem hostWrite_freeCtr (fn a : Nat) (bs : List Byte) : (hostWrite s fn a bs).freeCtr = s.freeCtr := rfl
@[simp] theorem hostWrite_outs (fn a : Nat) (bs : List Byte) : (hostWrite s fn a bs).outs = s.outs := rfl
@[simp] theorem hostWrite_pending (fn a : Nat) (bs : List Byte) : (hostWrite s fn a bs).pending = s.pending := rfl

/-! ### Reading after an update -/

@[simp] theorem getFn_setFn_self (fn : Nat) (f : Fn → Fn) : getFn (setFn s fn f) fn = f (getFn s fn) := by
  simp [getFn, setFn]

theorem getFn_setFn_ne {fn g : Nat} (f : Fn → Fn) (h : g ≠ fn) : getFn (setFn s fn f) g = getFn s g := by
  simp [getFn, setFn, mfind_mput_ne _ _ h]

@[simp] theorem getSlot_setSlot_self (i : Nat) (f : Slot → Slot) : getSlot (setSlot s i f) i = f (getSlot s i) := by
  simp [getSlot, setSlot]

theorem getSlot_setSlot_ne {i j : Nat} (f : Slot → Slot) (h : j ≠ i) : getSlot (setSlot s i f) j = getSlot s j := by
  simp [getSlot, setSlot, mfind_mput_ne _ _ h]

@[simp] theorem getDef_setDef_self (d : Nat) (f : Def → Def) : getDef (setDef s d f) d = (getDef s d).map f := by
  simp [getDef, setDef]

theorem getDef_setDef_ne {d e : Nat} (f : Def → Def) (h : e ≠ d) : getDef (setDef s d f) e = getDef s e := by
  simp [getDef, setDef, mfind_madj_ne _ _ h]

@[simp] theorem getBlock_setBlock_self (u : Nat) (f : FaultBlock → FaultBlock) :
    getBlock (setBlock s u f) u = f (getBlock s u) := by
  simp [getBlock, setBlock]

theorem getBlock_setBlock_ne {u v : Nat} (f : FaultBlock → FaultBlock) (h : v ≠ u) :
    getBlock (setBlock s u f) v = getBlock s v := by
  simp [getBlock, setBlock, mfind_mput_ne _ _ h]

@[simp] theorem getBox_setBox_self (b : Box) (f : Mbox → Mbox) : getBox (setBox s b f) b = f (getBox s b) := by
  cases b <;> simp [getBox, setBox]

/-! ### What a composed operation may change -/

/-- `raise` may only add an output. -/
theorem raise_frame (fn : Nat) (en : Bool) (v : BitVec 11) : ∃ l, raise fn en v s = { s with outs := l } := by
  unfold raise
  split
  · exact ⟨_, rfl⟩
  · exact ⟨s.outs, rfl⟩

/-- `ibi` may only add an output. -/
theorem ibi_frame (m : Nat) : ∃ l, ibi m s = { s with outs := l } := by
  unfold ibi
  split
  · exact ⟨_, rfl⟩
  · exact ⟨s.outs, rfl⟩

/-- A mailbox update changes a function's record or the belfry's. -/
theorem setBox_frame (b : Box) (f : Mbox → Mbox) :
    setBox s b f = { s with fns := (setBox s b f).fns, belfry := (setBox s b f).belfry } := by
  cases b <;> rfl

/-- One recording clock changes the fault blocks and may add an output. -/
theorem recordClock_frame (u : Nat) (new : List FEntry) :
    ∃ fb l, recordClock u new s = { s with faults := fb, outs := l } := by
  unfold recordClock
  dsimp only
  split
  · exact ⟨s.faults, s.outs, rfl⟩
  · split
    · exact ⟨_, s.outs, rfl⟩
    · obtain ⟨l, h⟩ := raise_frame (setBlock s u (fun _ => _)) 0 _ (getBlock s u).vec
      exact ⟨_, l, h⟩

/-- A bit of a fault view changes that function's record and may add an output. -/
theorem viewSet_frame (fn bitNo : Nat) : ∃ g l, viewSet fn bitNo s = { s with fns := g, outs := l } := by
  unfold viewSet
  dsimp only
  obtain ⟨l, h⟩ := raise_frame
    (setFn s fn (fun f => { f with fv := { f.fv with src := f.fv.src ||| BitVec.ofNat 16 (2 ^ bitNo) } }))
    fn _ (getFn s fn).fv.vec
  exact ⟨_, l, h⟩

/-- An entry in a fault view changes that function's record only. -/
theorem viewRecord_frame (fn : Nat) (e : FEntry) : ∃ g, viewRecord fn e s = { s with fns := g } := ⟨_, rfl⟩

/-- An answer's delivery changes its mailbox and may add an output. -/
theorem deliver_frame (b : Box) (msg : List Byte) : ∃ g be l, deliver b msg s = { s with fns := g, belfry := be, outs := l } := by
  cases b with
  | i3c =>
    obtain ⟨l, h⟩ := ibi_frame (setBox s .i3c (fun m => { m with
      ansBuf := answerBytes .i3c msg m.ansBuf, reqPending := false, answerValid := true })) 0xA1
    exact ⟨_, _, l, h⟩
  | pf =>
    obtain ⟨l, h⟩ := raise_frame (setBox s .pf (fun m => { m with
      ansBuf := answerBytes .pf msg m.ansBuf, reqPending := false, answerValid := true })) (boxFn .pf) (getBox s .pf).vecEn
      (getBox s .pf).vec
    exact ⟨_, _, l, h⟩
  | part fn =>
    obtain ⟨l, h⟩ := raise_frame (setBox s (.part fn) (fun m => { m with
      ansBuf := answerBytes (.part fn) msg m.ansBuf, reqPending := false, answerValid := true })) (boxFn (.part fn))
      (getBox s (.part fn)).vecEn (getBox s (.part fn)).vec
    exact ⟨_, _, l, h⟩

/-- A message's check of Amimet's own changes the belfry's lane alone. -/
theorem signedBy_frame (minor op seq defId fl st : Nat) (pay : List Byte) :
    ∃ c, signedBy minor op seq defId fl st pay s = { s with crc0 := c } := by
  unfold signedBy
  split
  · exact ⟨s.crc0, rfl⟩
  · exact ⟨_, rfl⟩

/-- An answer changes its mailbox and the belfry's lane, and may add an output. -/
theorem answer_frame (b : Box) (op seq defId st : Nat) (pay : List Byte) :
    ∃ g be l c, answer b op seq defId st pay s = { s with fns := g, belfry := be, outs := l, crc0 := c } := by
  unfold answer
  dsimp only
  obtain ⟨c, hc⟩ := signedBy_frame s (getBox s b).minor op seq defId 1 st pay
  rw [hc]
  split
  · obtain ⟨g, be, l, h⟩ := deliver_frame { s with crc0 := c } b (volmiMsg (getBox s b).minor op seq defId 1 st pay)
    exact ⟨g, be, l, c, h⟩
  · obtain ⟨g, be, l, h⟩ := deliver_frame
      (setBox { s with crc0 := c } b
        (fun m => { m with stored := some (seq, volmiMsg (getBox s b).minor op seq defId 1 st pay) })) b
      (volmiMsg (getBox s b).minor op seq defId 1 st pay)
    refine ⟨g, be, l, c, ?_⟩
    rw [h, setBox_frame]

/-! ### Gates -/

/-- A command of a block in operation has its effect there. -/
theorem whenOp_of {f : State → State} {s : State} (h : operating s = true) : whenOp f s = f s := by simp [whenOp, h]

theorem whenAlive_of {f : State → State} {s : State} (h : alive s = true) : whenAlive f s = f s := by simp [whenAlive, h]

/-- A block in operation is powered, out of reset, outside the safe state, and `READY`. -/
theorem operating_iff {s : State} :
    operating s = true ↔ alive s = true ∧ s.flt.safe = false ∧ s.boot.stage = .ready := by
  unfold operating
  cases alive s <;> cases s.flt.safe <;> simp

theorem alive_iff {s : State} : alive s = true ↔ s.pins.powered = true ∧ s.pins.resetN = true := by
  simp [alive]

end Sys2Proof.Machine
end

