-- ==== Sys2Proof/Laws/Causes.lean ====
section
/-! SUPPORT. What detecting one cause does: its record, its copy and its reaction. -/

namespace Sys2Proof.Machine

variable (s : State)

/-- A fault block after a recording clock that records `e` and leaves `rest` waiting. -/
def recordedBlock (b : FaultBlock) (clk : Nat) (e : FEntry) (rest : List FEntry) : FaultBlock :=
  (({ b.wait rest with recAt := some clk } : FaultBlock).record e (if e.stale then none else some (e.code % 256))).1

/-- What a recording clock does: the oldest cause of the unit goes into its history. -/
theorem recordClock_cons {u : Nat} {new : List FEntry} {e : FEntry} {rest : List FEntry}
    (hc : (getBlock s u).recAt ≠ some s.clk) (h : (getBlock s u).staging ++ new = e :: rest) :
    ∃ l, recordClock u new s = { setBlock s u (fun b => recordedBlock b s.clk e rest) with outs := l } := by
  unfold recordClock
  dsimp only
  rw [h]
  simp only [beq_iff_eq, hc, if_false]
  exact raise_frame _ 0 _ _

/-- The event count moves by one and the place it pointed to holds the entry (R466, R467). -/
theorem recordedBlock_head (b : FaultBlock) (clk : Nat) (e : FEntry) (rest : List FEntry) :
    (recordedBlock b clk e rest).head = b.head + 1 := rfl

theorem recordedBlock_hist (b : FaultBlock) (clk : Nat) (e : FEntry) (rest : List FEntry) :
    mfind (recordedBlock b clk e rest).hist (b.head.toNat % 8) = some { e with seq := b.head.truncate 16 } := by
  simp [recordedBlock, FaultBlock.record, FaultBlock.wait]

/-- With no cause waiting, a fabric clock with one new cause records that cause. -/
theorem getBlock_recordClock {u : Nat} (e : FEntry) (hc : (getBlock s u).recAt ≠ some s.clk)
    (h : (getBlock s u).staging = []) :
    getBlock (recordClock u [e] s) u = recordedBlock (getBlock s u) s.clk e [] := by
  obtain ⟨l, hl⟩ := recordClock_cons s (u := u) (new := [e]) (e := e) (rest := []) hc (by rw [h]; rfl)
  rw [hl]
  exact getBlock_setBlock_self s u (fun b => recordedBlock b s.clk e [])

/-- In a clock that has recorded an event, every cause of the unit waits. -/
theorem getBlock_recordClock_busy {u : Nat} (e : FEntry) (hc : (getBlock s u).recAt = some s.clk) :
    getBlock (recordClock u [e] s) u = (getBlock s u).wait ((getBlock s u).staging ++ [e]) := by
  unfold recordClock
  dsimp only
  cases h : (getBlock s u).staging ++ [e] with
  | nil => simp at h
  | cons x l =>
    simp only [hc, beq_self_eq_true, if_true]
    exact getBlock_setBlock_self s u (fun b => b.wait (x :: l))

/-- A recording clock of one unit leaves the others' blocks alone. -/
theorem getBlock_recordClock_ne {u v : Nat} (new : List FEntry) (h : v ≠ u) :
    getBlock (recordClock u new s) v = getBlock s v := by
  cases hl : (getBlock s u).staging ++ new with
  | nil =>
    unfold recordClock
    dsimp only
    rw [hl]
  | cons e rest =>
    by_cases hc : (getBlock s u).recAt = some s.clk
    · unfold recordClock
      dsimp only
      rw [hl]
      simp only [hc, beq_self_eq_true, if_true]
      exact getBlock_setBlock_ne s (fun b => b.wait (e :: rest)) h
    · obtain ⟨l, hr⟩ := recordClock_cons s hc hl
      rw [hr]
      exact getBlock_setBlock_ne s (fun b => recordedBlock b s.clk e rest) h

/-- The causes of one detection: the one given, with its class. -/
theorem findCauses_one (c : Cause) :
    findCauses s (c.code / 256) [c] =
      match classOf s c with
      | some k => [{ cls := k, cause := c, entry := entryOf s k c }]
      | none => [] := by
  unfold findCauses
  have h : sortBy (fun c => c.code) ([c].filter (fun d => d.code / 256 == c.code / 256)) = [c] := by
    simp [sortBy, insBy]
  rw [h]
  cases hc : classOf s c <;> simp [hc]

/-- A cause of class `CORRECTED` that is no slot's: its record, then its reaction. -/
theorem detect1_corrected {code : Nat} {d : Word} (h : classOf s (blockCause code d) = some .corrected)
    (h5 : code ≠ 0x0500) (hE : code / 256 ≠ 0x0E) (hC : code ≠ 0x0103) :
    detect1 (blockCause code d) s =
      react .corrected false (blockCause code d)
        (recordClock (code / 256) [entryOf s .corrected (blockCause code d)] s) := by
  have hr : redact s (blockCause code d) (entryOf s .corrected (blockCause code d)) =
      entryOf s .corrected (blockCause code d) := rfl
  have hl := findCauses_one s (blockCause code d)
  rw [h] at hl
  have hE' : code ≠ 0x0E00 := fun x => hE (by rw [x])
  unfold detect1 detect
  rw [hl]
  simp only [List.filter_cons, List.filter_nil, List.foldl_cons, List.foldl_nil]
  simp [blockCause, h5, hE, hE', hC, entryOf, isStale, redact, ownerOf]

end Sys2Proof.Machine
end

