-- ==== Sys2Proof/Laws/Log.lean ====
section
/-! SUPPORT. What the lifetime log's operations may change: the flash, but never the image in it, and the accounts. -/

namespace Sys2Proof.Machine

variable (s : State)

/-- The flash, the accounts and the belfry's check-value lane are all that an operation of the log may change, and the image
stays. -/
def LogOnly (s t : State) : Prop := ∃ f l c, t = { s with flash := f, life := l, crc0 := c } ∧ f.image = s.flash.image

variable {s}

theorem LogOnly.refl : LogOnly s s := ⟨s.flash, s.life, s.crc0, rfl, rfl⟩

theorem LogOnly.trans {t u : State} (h : LogOnly s t) (g : LogOnly t u) : LogOnly s u := by
  obtain ⟨f, l, c, rfl, hf⟩ := h
  obtain ⟨f', l', c', rfl, hf'⟩ := g
  exact ⟨f', l', c', rfl, hf'.trans hf⟩

variable (s)

theorem logOnly_putRec (k : Nat) (p : List Byte) : LogOnly s (putRec k p s) := ⟨_, _, _, rfl, rfl⟩

theorem logOnly_enterSector : LogOnly s (enterSector s) := by
  refine ⟨(enterSector s).flash, (enterSector s).life, (enterSector s).crc0, ?_, ?_⟩ <;>
    unfold enterSector <;> dsimp only <;> repeat' split
  all_goals rfl

/-- Appending a record changes the log, the accounts and the lane alone. -/
theorem logOnly_appendLog (k : Nat) (p : List Byte) : LogOnly s (appendLog k p s) := by
  unfold appendLog
  dsimp only
  split
  · exact LogOnly.refl
  · have h : LogOnly s (if s.flash.inSector == 0 || 1024 ≤ s.flash.inSector then enterSector s else s) := by
      split
      · exact logOnly_enterSector s
      · exact LogOnly.refl
    generalize (if s.flash.inSector == 0 || 1024 ≤ s.flash.inSector then enterSector s else s) = t at h
    split
    · exact h
    · exact h.trans (logOnly_putRec _ k p)

/-- A CHECKPOINT changes the log, the accounts and the lane alone. -/
theorem logOnly_checkpoint : LogOnly s (checkpoint s) := by
  unfold checkpoint
  dsimp only
  split
  · exact LogOnly.refl
  · split
    · exact ⟨_, _, _, rfl, rfl⟩
    · have h := logOnly_appendLog s 0x0002 (checkpointBytes (accNow s))
      split
      · exact h
      · exact h.trans ⟨_, _, _, rfl, rfl⟩

end Sys2Proof.Machine
end

