-- ==== Sys2Proof/Laws/Messages.lean ====
section
/-! SUPPORT. What a Volmi request does: the message's own effect and its answer once every test of R424 has passed. -/

namespace Sys2Proof.Machine

/-- The lane on which a request's check is computed decides none of R424's tests. -/
theorem accepted_checkedBy (op : Nat) (k : MsgKind) (b : Box) (r : Req) (s : State) :
    accepted op k b r (checkedBy op r s) = accepted op k b r s := by
  unfold checkedBy
  split <;> rfl

/-- A request taken from a free mailbox that passes every test of R424 is served. -/
theorem volmiTaken_accepted {op : Nat} {k : MsgKind} {body : Box → Req → State → Served} {b : Box} {r : Req} {s : State}
    (hop : op ≠ 0x0002) (h : accepted op k b r s = true) :
    volmiTaken op (some k) body b r s = served op b r (body b r s) := by
  simp only [accepted, whole, sessionHeld, Bool.and_eq_true, Bool.not_eq_true', decide_eq_true_eq, bne_iff_ne,
    ne_eq] at h
  obtain ⟨⟨⟨⟨⟨⟨⟨⟨hop', hw⟩, hs⟩, hh⟩, hr⟩, hb⟩, h5⟩, h6⟩, ho⟩ := h
  obtain ⟨⟨⟨⟨⟨⟨hp, hv⟩, hl⟩, hc⟩, hbd⟩, hmaj⟩, hmin⟩ := hw
  obtain ⟨ha, hsafe, hst⟩ := operating_iff.mp hop'
  have hst' : heldStop s = false := by simp [heldStop, hst]
  have hshown : belfryShown s ≠ .halted := by simp [belfryShown, hsafe, hst', hh]
  have hmaj' : r.major = 3 := by simpa using hmaj
  unfold volmiTaken
  dsimp only
  rw [if_neg (by simp [hc]; omega)]
  rw [if_neg (by
    cases b with
    | part fn => simpa [Option.isSome_iff_ne_none, Option.isNone_iff_eq_none] using hbd
    | pf => simp
    | i3c => simp)]
  rw [if_neg (by simp [hshown])]
  rw [if_neg (by simp [hmaj']; omega)]
  rw [if_neg (by
    rcases Bool.or_eq_true _ _ |>.mp hs with h | h
    · simp [beq_iff_eq.mp h]
    · have h2 := (Bool.and_eq_true _ _ |>.mp h).2
      cases hm : (getBox s b).stored <;> simp_all)]
  rw [if_neg (by simp [hst])]
  rw [if_neg (by
    rcases Bool.or_eq_true _ _ |>.mp hs with h | h
    · simp [beq_iff_eq.mp h]
    · have h1 := (Bool.and_eq_true _ _ |>.mp h).1
      rcases Bool.or_eq_true _ _ |>.mp h1 with h | h
      · obtain rfl : b = .i3c := by simpa using h
        simp
      · cases hm : (getBox s b).session <;> simp_all)]
  rw [if_neg (by simp [hop])]
  rw [if_neg (by simp [hst])]
  unfold serveTested
  rw [if_neg (by simp [hr]; omega)]
  rw [if_neg (by simp [h5])]
  dsimp only
  rw [if_neg (by simp [h6]), if_neg (by simpa using ho)]
  cases body b r s <;> rfl

/-- A request that passes every test of R424 has its message's effect and is answered as the message says; its check was
computed on the belfry's lane. -/
theorem volmi_accepted {op : Nat} {k : MsgKind} {body : Box → Req → State → Served} {b : Box} {r : Req} {s : State}
    (hop : op ≠ 0x0002) (h : accepted op k b r s = true) :
    volmi op (some k) body b r s = served op b r (body b r (checkedBy op r s)) := by
  rw [← volmiTaken_accepted hop ((accepted_checkedBy op k b r s).trans h)]
  simp only [accepted, whole, Bool.and_eq_true, Bool.not_eq_true'] at h
  obtain ⟨⟨⟨⟨⟨⟨⟨⟨hop', hw⟩, -⟩, -⟩, -⟩, -⟩, -⟩, -⟩, -⟩ := h
  obtain ⟨⟨⟨⟨⟨⟨hp, hv⟩, -⟩, -⟩, -⟩, -⟩, -⟩ := hw
  obtain ⟨ha, -, -⟩ := operating_iff.mp hop'
  unfold volmi
  rw [if_neg (by simp [ha])]
  rw [if_neg (by
    rcases Bool.or_eq_true _ _ |>.mp hv with h | h
    · obtain rfl : b = .i3c := by simpa using h
      simp [hp]
    · simp only [Bool.not_eq_true'] at h
      simp [hp, h])]

/-- The mailbox after an answer delivered to it: the message lies in the answer buffer, the request is over and the answer
is valid (R418, R419). -/
theorem getBox_deliver (b : Box) (msg : List Byte) (s : State) :
    getBox (deliver b msg s) b =
      { getBox s b with ansBuf := answerBytes b msg (getBox s b).ansBuf, reqPending := false, answerValid := true } := by
  cases b with
  | i3c =>
    unfold deliver
    obtain ⟨l, h⟩ := ibi_frame (setBox s .i3c (fun m => { m with
      ansBuf := answerBytes .i3c msg m.ansBuf, reqPending := false, answerValid := true })) 0xA1
    dsimp only
    rw [h]
    rfl
  | pf =>
    unfold deliver
    obtain ⟨l, h⟩ := raise_frame (setBox s .pf (fun m => { m with
      ansBuf := answerBytes .pf msg m.ansBuf, reqPending := false, answerValid := true })) (boxFn .pf) (getBox s .pf).vecEn
      (getBox s .pf).vec
    dsimp only
    rw [h]
    exact getBox_setBox_self s .pf (fun m => { m with
      ansBuf := answerBytes .pf msg m.ansBuf, reqPending := false, answerValid := true })
  | part fn =>
    unfold deliver
    obtain ⟨l, h⟩ := raise_frame (setBox s (.part fn) (fun m => { m with
      ansBuf := answerBytes (.part fn) msg m.ansBuf, reqPending := false, answerValid := true })) (boxFn (.part fn))
      (getBox s (.part fn)).vecEn (getBox s (.part fn)).vec
    dsimp only
    rw [h]
    exact getBox_setBox_self s (.part fn) (fun m => { m with
      ansBuf := answerBytes (.part fn) msg m.ansBuf, reqPending := false, answerValid := true })

end Sys2Proof.Machine
end

