-- ==== Sys2Proof/WellFormed.lean ====
section
/-! DEFINITION. Which operands a command can carry: the ranges the manual gives each of them. -/

namespace Sys2Proof

/-- A host function: the PF of port 0 or 1, or one of the 64 VFs of a port (R59). -/
def fnOk (fn : Nat) : Bool := fn < 130

/-- A VF (R59). -/
def vfOk (fn : Nat) : Bool := fn < 130 && fn % 65 != 0

/-- A partition slot (R105). -/
def slotOk (s : Nat) : Bool := s < 64

/-- A ring or QP handle, 12 bits (R135). -/
def handleOk (h : Nat) : Bool := h < 4096

/-- A definition (R105). -/
def defOk (d : Nat) : Bool := d < 4096

/-- A Volmi header's fields fit their bytes (R420), and the message fits its mailbox (R416). -/
def Req.wf (r : Req) (limit : Nat) : Bool :=
  r.major < 256 && r.minor < 256 && r.seq < 2 ^ 32 && r.defId < 65536 && r.flags < 65536 && r.status < 65536 &&
  r.reserved < 2 ^ 80 && r.payloadLen < 2 ^ 32 && r.payload.length + 32 ≤ limit

/-- The largest message of a mailbox (R416). -/
def Box.limit : Box → Nat
  | .pf => 8192
  | .part _ => 1024
  | .i3c => 1024

/-- A mailbox exists (R416): a partition mailbox belongs to a VF. -/
def Box.wf : Box → Bool
  | .part fn => vfOk fn
  | _ => true

/-- A mailbox with a message it can hold. -/
def boxReq (b : Box) (r : Req) : Bool := b.wf && r.wf b.limit

/-- A host write (R521). -/
def HostWrite.wf (w : HostWrite) : Bool := fnOk w.fn && w.off < 2 ^ 27 && w.data.length ≤ 512

/-- A host read (R521). -/
def HostRead.wf (r : HostRead) : Bool := fnOk r.fn && r.off < 2 ^ 27 && r.size ≤ 64

/-- A control operation is written by a VF, or by a PF through a slot's window (R149, R529). -/
def Ctl.wf (c : Ctl) : Bool :=
  fnOk c.fn && (match c.slot with | none => vfOk c.fn | some s => slotOk s && c.fn % 65 == 0)

/-- A frame arrives on one of eight ports (R43) with at most a 48-byte Maelic header (R304), 9,088 payload bytes (R306)
and a 16-byte tag (R307). -/
def Frame.wf (f : Frame) : Bool :=
  f.port < 8 && f.udpPort < 65536 && f.udpLen < 65536 && f.hdr.length ≤ 48 && f.body.length ≤ 9088 && f.tag.length ≤ 16

/-- A line's bytes, where the stack returns others than the vault stored (R367). -/
def Stored.wf : Stored → Bool
  | .other line _ => line.length == 256
  | _ => true

/-- What is found of a line: at most the symbols of a sector and its check bits in each of four sectors. -/
def LineFound.wf (f : LineFound) : Bool := f.errs.length ≤ 4 && f.stored.wf

/-- A label is 8 bits and a service class 2 (R11); a deadline is 32 bits (R81). -/
def MemReq.wf (m : MemReq) : Bool :=
  m.label < 256 && m.cls < 4 && m.deadline < 2 ^ 32 && m.addr < 2 ^ 48 && m.len < 2 ^ 32 && m.found.all LineFound.wf

/-- A request of a function's DOE (R63, R403). -/
def Doe.wf (q : Doe) : Bool := fnOk q.fn

/-- A TDISP request names a host port and one of its VFs (R406). -/
def TdiReq.wf (q : TdiReq) : Bool := q.port < 2 && 1 ≤ q.vf && q.vf ≤ 64

/-- An IDE_KM request names a host port, one of eight streams and a key set (R405). -/
def IdeReq.wf (q : IdeReq) : Bool := q.port < 2 && q.stream < 256 && q.keySet < 2

/-- A cause has a 16-bit fault code (R464), and a slot where it names one. -/
def Cause.wf (c : Cause) : Bool :=
  c.code < 65536 && (match c.slot with | none => true | some s => slotOk s) && c.loadGen < 2 ^ 32

/-- A routine on a lantern names its slot and ring (R234). -/
def LRef.wf (u : LRef) : Bool := slotOk u.slot && handleOk u.ring

/-- The operands of a command are ones the manual lets it carry. -/
def Instr.wf : Instr → Bool
  | .powerUp => true
  | .powerRemoval => true
  | .resetNAssert => true
  | .resetNDeassert _ => true
  | .throttleNAssert => true
  | .throttleNDeassert => true
  | .throttleChatterRelease => true
  | .tamperNAssert => true
  | .errInNAssert => true
  | .inputChatter i => i < 13
  | .ppsEdge _ => true
  | .timePortUnlock _ _ _ => true
  | .ppsTimeout => true
  | .holdoverTimeout => true
  | .bellNowRead r => r.wf
  | .carillonStage b r => boxReq b r
  | .carillonArm b r _ => boxReq b r
  | .carillonDisarm b r => boxReq b r
  | .carillonSwitchover => true
  | .egressHoldEnd => true
  | .guaranteeWindowEnd w => w.all (fun x => slotOk x.1 && [1, 2, 27, 28].contains x.2)
  | .powerBudgetExhausted s => slotOk s
  | .partDefine b r => boxReq b r
  | .partLoad b r _ => boxReq b r
  | .partUnload b r => boxReq b r
  | .partResize b r => boxReq b r
  | .partQuiesce b r => boxReq b r
  | .quiesceComplete d => defOk d
  | .drainLimitExpiry d => defOk d
  | .preemptWaitExpiry s g _ => slotOk s && handleOk g
  | .partResume b r => boxReq b r
  | .partReset b r => boxReq b r
  | .partScrub b r => boxReq b r
  | .scrubComplete d => defOk d
  | .partDestroy b r => boxReq b r
  | .containedReset c => c.wf
  | .dirtylogEnable b r => boxReq b r
  | .dirtylogHarvest b r => boxReq b r
  | .dbRing w => w.wf
  | .ringCreate c => c.wf
  | .ringDestroy c => c.wf
  | .ringAbort c => c.wf
  | .ringAbortDrained fn => vfOk fn
  | .ptSet c => c.wf
  | .invalidate c => c.wf
  | .fenceInit c => c.wf
  | .fenceAbandon c => c.wf
  | .fenceRead c => c.wf
  | .qpModifyReady c => c.wf
  | .qpModifyReset c => c.wf
  | .qpQuery c => c.wf
  | .nop s g => slotOk s && handleOk g
  | .fenceWait s g => slotOk s && handleOk g
  | .fenceSignal s g => slotOk s && handleOk g
  | .gemm s g => slotOk s && handleOk g
  | .attend s g => slotOk s && handleOk g
  | .merge s g => slotOk s && handleOk g
  | .reduce s g => slotOk s && handleOk g
  | .convert s g => slotOk s && handleOk g
  | .arrivalLimitExpiry s g => slotOk s && handleOk g
  | .kvAppend s g => slotOk s && handleOk g
  | .kvCommit s g => slotOk s && handleOk g
  | .kvRollback s g => slotOk s && handleOk g
  | .kvTrim s g => slotOk s && handleOk g
  | .batchStep s g => slotOk s && handleOk g
  | .lanternRun s g => slotOk s && handleOk g
  | .put s q => slotOk s && handleOk q
  | .get s q => slotOk s && handleOk q
  | .atomic s q => slotOk s && handleOk q
  | .send s q => slotOk s && handleOk q
  | .sendReceive s q => slotOk s && handleOk q
  | .tileIssue d l => d < 16 && l < 16
  | .tileLocalEnd s g _ _ => slotOk s && handleOk g
  | .completionWrite s g => slotOk s && handleOk g
  | .watchFetchIssue s g _ _ => slotOk s && handleOk g
  | .watchDataArrival _ => true
  | .watchReadAbandon _ => true
  | .loadGenAbandon s g => slotOk s && g < 2 ^ 32
  | .fragmentResendTimer _ => true
  | .remoteLimitExpiry _ => true
  | .qread u _ _ => u.wf
  | .qwrite u _ _ => u.wf
  | .qdrumLd u _ => u.wf
  | .qdrumSt u _ _ => u.wf
  | .qdrumAdd u _ _ => u.wf
  | .qexit u _ => u.wf
  | .qcrcInit u _ _ => u.wf
  | .qcrcFeed8 u _ _ => u.wf
  | .qcrcFeed16 u _ _ => u.wf
  | .qcrcFeed32 u _ _ => u.wf
  | .qcrcResult u _ _ => u.wf
  | .lanternClockLimit u => u.wf
  | .burstRelease s q _ => slotOk s && handleOk q
  | .putPacket f => f.wf
  | .getPacket f => f.wf
  | .atomicPacket f => f.wf
  | .sendPacket f => f.wf
  | .fragmentRequest f => f.wf
  | .getResp f => f.wf
  | .atomicResp f => f.wf
  | .fragmentResp f => f.wf
  | .ack f => f.wf
  | .abort f => f.wf
  | .nonMaelicFrame f => f.wf
  | .rxErrorFrame f => f.wf
  | .qpContextFetched s q => slotOk s && handleOk q
  | .ackDelayTimer s q => slotOk s && handleOk q
  | .rtoExpiry s q => slotOk s && handleOk q
  | .rnrResend s q => slotOk s && handleOk q
  | .rnrLimitExpiry s q => slotOk s && handleOk q
  | .pathSuspendEnd s q p => slotOk s && handleOk q && p < 8
  | .memoryRead m => m.wf
  | .memoryWrite m d => m.wf && d.length == m.len
  | .debugAccess m _ => m.wf
  | .patrolStart => true
  | .chunkInitDone d _ => defOk d
  | .rekeyPageDone s _ l => slotOk s && l.all LineFound.wf
  | .rekeyWalkComplete s => slotOk s
  | .hbmTempPoll t => t.length ≤ 8
  | .selfRefreshEntry p => p < 8
  | .keyRotate b r _ => boxReq b r
  | .weightBind b r _ => boxReq b r
  | .bindComplete s => slotOk s
  | .attestGet b r => boxReq b r
  | .hello b r => boxReq b r
  | .heartbeat b r => boxReq b r
  | .telemetryGetCapPage b r => boxReq b r
  | .telemetryGetMacTotals b r => boxReq b r
  | .telemetryGetPower b r => boxReq b r
  | .telemetryGetSlotCounts b r => boxReq b r
  | .lifetimeGet b r => boxReq b r
  | .fwRecoverBegin b r => boxReq b r
  | .fwRecoverData b r => boxReq b r
  | .fwRecoverCommit b r => boxReq b r
  | .fwRecoverStatus b r => boxReq b r
  | .fwImageVerified => true
  | .fwImageWritten _ => true
  | .faultInject b r => boxReq b r
  | .faultInjectFire => true
  | .noticeHeadWrite w => w.wf
  | .answerValidClear w => w.wf
  | .vfSessionLapse fn => vfOk fn
  | .pfHeartbeatTimeout => true
  | .watchdogExpiry => true
  | .firmwareSelfRestart => true
  | .belfryRestartComplete => true
  | .vfFlr fn => vfOk fn
  | .pf0Flr => true
  | .pf1Flr => true
  | .hostLinkDown p => p < 2
  | .hostDmaError s g _ => slotOk s && g < 2 ^ 32
  | .getVersion q => q.wf
  | .getCapabilities q => q.wf
  | .negotiateAlgorithms q => q.wf
  | .getDigests q => q.wf
  | .getCertificate q => q.wf
  | .challenge q => q.wf
  | .getMeasurements q => q.wf
  | .keyExchange q => q.wf
  | .finish q => q.wf
  | .spdmHeartbeat q => q.wf
  | .keyUpdate q => q.wf
  | .endSession q => q.wf
  | .query q => q.wf
  | .keyProg q => q.wf
  | .kSetGo q => q.wf
  | .kSetStop q => q.wf
  | .getTdispVersion q => q.wf
  | .getTdispCapabilities q => q.wf
  | .lockInterfaceRequest q => q.wf
  | .getDeviceInterfaceReport q => q.wf
  | .getDeviceInterfaceState q => q.wf
  | .startInterfaceRequest q => q.wf
  | .stopInterfaceRequest q => q.wf
  | .tdispConfigWrite fn => vfOk fn
  | .entdaa _ _ => true
  | .rstdaa => true
  | .getpid => true
  | .getbcr => true
  | .getdcr => true
  | .getstatus => true
  | .enec => true
  | .disec => true
  | .unlockChal => true
  | .unlockToken sig => sig.length == 96
  | .crcStart w => w.wf
  | .crcFeed8 w => w.wf
  | .crcFeed16 w => w.wf
  | .crcFeed32 w => w.wf
  | .pwrCtrlWrite w => w.wf
  | .pinHoldRelease w => w.wf
  | .rcFieldRead r => r.wf
  | .registerWrite w => w.wf
  | .powerSample _ _ e => e.all (fun p => slotOk p.1)
  | .peakCreditExhausted _ _ => true
  | .peakCreditFull => true
  | .envelopeRaise => true
  | .thermalSensorRead t => t.length == 24
  | .thermalLimitStep => true
  | .powerWindowEnd => true
  | .wearRated => true
  | .pmbusPoll l => l.length ≤ 4
  | .pmbAlert l => l.length ≤ 4
  | .macStatsPoll l => l.length == 8
  | .faultRecord u cs => u < 256 && cs.all Cause.wf
  | .safeStateEntry c => c.wf
  | .paritySweep _ => true
  | .engineFault d e u => d < 16 && e < 8 && u.wf
  | .faultNPulseEnd => true
  | .checkpointTimer => true
  | .sectorEraseDone => true
  | .timePortLock _ => true
  | .hostLinkUp p _ => p < 2
  | .startUpComplete o => o.stackGib.length == 8 && 64 ≤ o.pinRate && o.pinRate ≤ 100
  | .ideStreamIntegrityFailure p st => p < 2 && st < 256
  | .releasedChunkScrubDone _ => true
  | .entropyFail => true
  | .entropySourceRecovered => true
  | .belfryMemEcc _ => true
  | .tableEcc _ e => e < 1024

end Sys2Proof
end

