-- ==== Sys2Proof/Tests/Slice0.lean ====
section
/-! SUPPORT. Small tests: worked values of the manual, ill-formed commands, and for every statement a state and operands that
meet its hypotheses, clause by clause. -/

section
-- One theorem after another: a kernel evaluation waits for the ones before it, and each waiting thread holds a stack.
set_option Elab.async false

open Sys2Proof Sys2Proof.Machine Sys2Proof.Claims

namespace Sys2Proof.Tests

/-! ### Small states -/

/-- A PF session. -/
def session0 : Session := { driverId := 7, lapseQuiesce := false, beatAt := 0 }

/-- A block in service, with a session on the PF and on the first VF of port 0. -/
def up : State := { State.reset with
  pins := { Pins.reset with resetN := true, host1En := true, ptpTai := true, ptpLocked := true }
  bell := { Bell.reset with ns := 1000000001000, state := .locked, everLocked := true, ppsSeen := true }
  keep := { Keep.reset with root := some [1], chainOk := true }
  boot := { Boot.reset with stage := .ready, stackGib := 24 }
  belfry := { Belfry.reset with state := .attached }
  fns := [(0, { Fn.reset with mbox := { Mbox.reset with session := some session0 } }),
    (1, { Fn.reset with mbox := { Mbox.reset with session := some session0 } })] }

/-- The block with RESET_N low, and with no power. -/
def held : State := State.reset
def dark : State := { State.reset with pins := { Pins.reset with powered := false } }
/-- The safe state. -/
def stopped : State := { up with flt := { Flt.reset with safe := true, firstCode := 0x0601 } }

/-- A request with its check. -/
def req (op d : Nat) (p : List Byte) : Req :=
  { major := 3, minor := 0, seq := 9, defId := d, flags := 0, status := 0, reserved := 0, payloadLen := p.length
    check := volmiCheck (volmiHead 3 0 op 9 d 0 p.length 0 0) 9 p, payload := p }

/-- Every test of a request but its check. -/
def fits (op : Nat) (k : MsgKind) (b : Box) (r : Req) (s : State) : Bool :=
  operating s && (!(getBox s b).reqPending && (b == .i3c || !(getBox s b).answerValid) &&
    decide (32 + r.payloadLen ≤ boxLimit b) && (match b with | .part fn => (boundTo s fn).isSome | _ => true) &&
    r.major == 3 && decide (r.minor ≤ (getBox s b).minor)) && sessionHeld op b r s && s.belfry.state != .halted &&
  s.belfry.state != .restarting && decide (s.belfry.backlog.length < backlogLimit b) && !rowFive (some k) r &&
  !rowSix k b r s && !(s.belfry.state == .orphaned && op != 0x0001 && b != .i3c && (b == .pf || k.orphanRefused))

theorem reqCheckOk_req (op d : Nat) (p : List Byte) : reqCheckOk op (req op d p) = true := by
  unfold reqCheckOk
  exact beq_iff_eq.mpr rfl

theorem rowFive_check (k : Option MsgKind) (r : Req) : rowFive k { r with check := 0 } = rowFive k r := rfl
theorem rowSix_check (k : MsgKind) (b : Box) (r : Req) (s : State) : rowSix k b { r with check := 0 } s = rowSix k b r s :=
  rfl
theorem sessionHeld_check (op : Nat) (b : Box) (r : Req) (s : State) :
    sessionHeld op b { r with check := 0 } s = sessionHeld op b r s := rfl

/-- A request with its own check is accepted where every other test passes. -/
theorem accepted_req {op : Nat} {k : MsgKind} {b : Box} {d : Nat} {p : List Byte} {s : State}
    (h : fits op k b { req op d p with check := 0 } s = true) : accepted op k b (req op d p) s = true := by
  have hc := reqCheckOk_req op d p
  generalize req op d p = r at h hc
  unfold fits at h
  rw [rowFive_check, rowSix_check, sessionHeld_check] at h
  unfold accepted whole
  rw [hc]
  simp only [Bool.and_eq_true, Bool.and_true] at h ⊢
  exact h

def cause (code : Nat) (slot : Option Nat) (gen : Nat) : Cause :=
  { code := code, slot := slot, owner := none, loadGen := gen, detail := 0, injected := false }

/-- The fields of a grant of the first VF of port 0: one dome with some lanterns, some memory and a few objects. -/
def grantBytes (conf lan gib : Nat) : List Byte :=
  List.replicate 16 0 ++ leBytes 1 conf ++ leBytes 1 0 ++ leBytes 2 1 ++ leBytes 4 1 ++
    leBytes 16 lan ++ leBytes 16 32 ++ leBytes 4 64 ++ leBytes 4 gib ++ leBytes 4 2 ++ leBytes 4 2 ++ leBytes 4 2 ++
    leBytes 4 4 ++ leBytes 2 64 ++ leBytes 2 2 ++ leBytes 4 0 ++ leBytes 2 1 ++ List.replicate 70 0

def grant1 : Grant := parseGrant (grantBytes 0 1 1)

/-- A running definition in slot 3. -/
def def1 : Def := { newDef grant1 1 [0] [70, 71] with slot := some 3, state := .running }

/-- The block with one definition, number 5. -/
def one (d : Def) : State := { up with defs := [(5, d)] }

theorem clear_up (u : Nat) : Clear u up := ⟨rfl, nofun⟩

end Sys2Proof.Tests
open Sys2Proof.Tests

/-! ### Hypotheses that are met -/

theorem witness_PowerAndReset :
    (up.pins.powered = true ∧ up.life.writing = false ∧ up.pins.resetN = true) ∧ dark.pins.powered = false ∧
    held.pins.resetN = false ∧ (up.flt.safe = false ∧ up.flt.tampered = false) ∧
    (stopped.pins.powered = true ∧ stopped.pins.resetN = true ∧ stopped.flt.safe = true) := by decide +kernel

/-- Straps of a part with four memory ports, and what a good training finds. -/
def straps1 : Straps :=
  { testMode := false, instanceId := 0, hbmPop := 0, lsoEn := 0, host1En := true, sfdpOk := true, octal := false
    entropyOk := true, errInN := true, pmbAlertN := true, ptpPps := false }
def trained1 : StartUp := { stackGib := [some 24, some 24, some 24, some 24], pinRate := 80, selfTestFailed := 0 }

theorem witness_StartUpSequence :
    (held.pins.powered = true ∧ held.pins.resetN = false ∧ held.flt.safe = false ∧ held.flt.tampered = false ∧
      straps1.errInN = true ∧ straps1.entropyOk = true ∧ straps1.hbmPop ≠ 3 ∧ straps1.sfdpOk = true ∧
      ({ straps1 with hbmPop := 3 } : Straps).hbmPop = 3 ∧ ({ straps1 with sfdpOk := false } : Straps).sfdpOk = false) ∧
    (∃ s : State, s.pins.powered = true ∧ s.pins.resetN = false ∧ s.flt.tampered = true) ∧
    (∃ s : State, s.pins.powered = true ∧ s.pins.resetN = false ∧ s.flt.tampered = false ∧ s.flt.safe = true) ∧
    (∃ s : State, s.pins.powered = true ∧ s.pins.resetN = true ∧ s.flt.safe = false ∧ s.boot.stage = .training ∧
      stacksOk s trained1 = true ∧ stacksOk s { trained1 with stackGib := [some 24, none] } = false) ∧
    (up.pins.powered = true ∧ up.pins.resetN = true ∧ Clear 13 up ∧ up.keep.severity.getLsbD 0 = false ∧
      up.keep.waits = [] ∧ operating up = true) ∧
    (∃ s : State, s.pins.powered = true ∧ s.pins.resetN = true ∧ s.flt.safe = false ∧
      s.keep.severity.getLsbD 0 = true) ∧
    (∃ s : State, s.pins.powered = true ∧ s.pins.resetN = true ∧ operating s = false ∧ s.boot.stage = .keepRom ∧
      s.keep.entropyOk = false ∧ s.pins.hbmPop ≠ 3 ∧ s.boot.sfdpOk = true) :=
  ⟨by decide +kernel, ⟨{ held with flt := { Flt.reset with tampered := true } }, by decide +kernel⟩,
    ⟨{ held with flt := { Flt.reset with safe := true } }, by decide +kernel⟩,
    ⟨{ up with boot := { Boot.reset with stage := .training } }, by decide +kernel⟩,
    ⟨by decide +kernel, by decide +kernel, clear_up 13, by decide +kernel⟩,
    ⟨{ up with keep := { Keep.reset with severity := 1 } }, by decide +kernel⟩,
    ⟨{ up with boot := { Boot.reset with sfdpOk := true }, keep := { Keep.reset with entropyOk := false } },
      by decide +kernel⟩⟩

theorem witness_PinsFollow :
    (up.pins.powered = true ∧ alive up = true ∧ up.pins.faultPulse = false) ∧ Clear 1 up ∧
    (∃ s : State, alive s = true ∧ s.pins.faultPulse = true ∧ s.flt.tampered = false ∧ s.flt.safe = true) ∧
    (∃ s : State, alive s = true ∧ s.pins.faultPulse = true ∧ s.flt.tampered = false ∧ s.flt.safe = false) ∧
    (∃ (w : HostWrite) (s : State), operating s = true ∧ w.fn = 0 ∧ w.off = 0x20018 ∧ w.data = leBytes 8 0x100 ∧
      s.pins.containedHold = true) :=
  ⟨by decide +kernel, clear_up 1, ⟨{ stopped with pins := { up.pins with faultPulse := true } }, by decide +kernel⟩,
    ⟨{ up with pins := { up.pins with faultPulse := true } }, by decide +kernel⟩,
    ⟨{ fn := 0, off := 0x20018, data := leBytes 8 0x100, window := false },
      { up with pins := { up.pins with containedHold := true } }, by decide +kernel⟩⟩

theorem witness_SafeStateEntry :
    (alive up = true ∧ up.flt.safe = false ∧ classOf up (cause 0x0601 none 0) = some .fatal ∧
      isStale up (cause 0x0601 none 0) = false) ∧
    (alive stopped = true ∧ stopped.flt.safe = true ∧ classOf stopped (cause 0x0601 none 0) = some .fatal ∧
      isStale stopped (cause 0x0601 none 0) = false) ∧
    (edgeNow .resetNAssert up = false ∧ edgeNow .tamperNAssert up = false ∧ up.flt.tampered = false) ∧
    (∃ s : State, alive s = true ∧ s.flt.safe = false ∧ s.flt.tampered = false ∧ edgeNow .resetNAssert s = false ∧
      edgeNow .tamperNAssert s = true) ∧
    (∃ s : State, alive s = true ∧ edgeNow .resetNAssert s = true ∧ edgeNow .tamperNAssert s = false) ∧
    (held.pins.powered = true ∧ held.pins.resetN = false ∧ edgeNow .tamperNAssert held = false) :=
  ⟨by decide +kernel, by decide +kernel, by decide +kernel, ⟨{ up with pending := [.tamperNAssert] }, by decide +kernel⟩,
    ⟨{ up with pending := [.throttleNAssert, .resetNAssert] }, by decide +kernel⟩, by decide +kernel⟩

theorem witness_TamperDestroysKeys :
    (alive up = true ∧ up.flt.safe = false ∧ up.flt.tampered = false) ∧
    (alive stopped = true ∧ stopped.flt.safe = true ∧ stopped.flt.tampered = false) ∧
    (edgeNow .resetNAssert up = false ∧ edgeNow .resetNAssert stopped = false) ∧
    (∃ s : State, s.pins.powered = true ∧ s.flt.tampered = true ∧ edgeNow .resetNAssert s = false) ∧
    (held.pins.powered = true ∧ held.pins.resetN = false ∧ held.flt.tampered = false) :=
  ⟨by decide +kernel, by decide +kernel, by decide +kernel, ⟨{ up with flt := { Flt.reset with tampered := true } },
    by decide +kernel⟩, by decide +kernel⟩

theorem witness_RegisterReads :
    alive up = true ∧ operating up = true ∧ (∃ p ∈ blockBases, p.1 = 7) ∧
    up.vault.ports[7]? = some VltPort.reset ∧ 0xFFFC < 0x10000 ∧ 0xFFFC % 8 ≠ 0 := by decide +kernel

theorem witness_RegisterWrites :
    (operating up = true ∧ (2 ^ 64 - 1 : Nat) < 2 ^ 64 ∧ (2 ^ 64 - 1).testBit 1 = true ∧ (0 : Nat).testBit 1 = false) ∧
    ({ up with vault := { up.vault with lock := true } } : State).vault.lock = true ∧ up.vault.lock = false ∧
    (∃ p ∈ blockBases, p.1 = 7) ∧ (0x80000 ≤ 0x8EFFF ∧ 0x8EFFF < 0x8F000 ∧ 0x8EFFF % 8 ≠ 0) ∧
    (getBox up .pf).heldNotices = [] ∧
    (∃ (n : List Byte) (s : State), alive s = true ∧ (getBox s .pf).heldNotices = [n] ∧
      (getBox s .pf).session.isSome = true ∧ ((getBox s .pf).noticeTail - BitVec.ofNat 32 0).toNat < 16) :=
  ⟨by decide +kernel, by decide +kernel, by decide +kernel, by decide +kernel, by decide +kernel, by decide +kernel,
    ⟨[0], { up with fns := [(0, { Fn.reset with mbox := { Mbox.reset with
      session := some session0, heldNotices := [[0]], noticeTail := 15 } })] }, by decide +kernel⟩⟩

theorem witness_CrcLaneOne :
    operating up = true ∧ (0x107 : Nat) < 2 ^ 64 ∧ (0x107 : Nat).testBit 8 = true ∧ (7 : Nat).testBit 8 = false ∧
    up.crc.count + 4 < 2 ^ 32 := by decide +kernel

theorem witness_BellStates :
    (alive up = true ∧ up.pins.powered = true ∧ up.pins.ptpTai = true ∧ up.pins.ptpLocked = true ∧
      (1000 : BitVec 48).toNat ≤ todMax ∧ up.bell.state = .locked ∧ up.bell.bad = 0 ∧
      (phaseError up 1000).natAbs ≤ 64 ∧ 64 < (phaseError up 999).natAbs ∧ todMax < (18446744074 : BitVec 48).toNat) ∧
    (∀ b : BellState, ∀ g ∈ [0, 3], alive { up with bell := { up.bell with state := b, good := g, bad := 1 } } = true) ∧
    alive { up with bell := { up.bell with ppsSeen := false } } = true ∧
    (phaseError up 1000).natAbs ≤ 24 ∧ 24 < (phaseError up 1001).natAbs ∧ up.bell.ppsSeen = true ∧ Clear 3 up :=
  ⟨by decide +kernel, fun _ _ _ => rfl, by decide +kernel, by decide +kernel, by decide +kernel, by decide +kernel, clear_up 3⟩

/-- A staged chunk of 64 open entries, and an arm of generation 1 at the 7,629,404th frame. -/
def entry0 : List Byte := [0x80, 0] ++ List.replicate 26 0x80 ++ [0, 0, 0, 0]
def stage1 : Req := req 0x0200 0xFFFF ([1, 0, 15, 0, 0, 0, 0, 0] ++ (List.replicate 64 entry0).flatten)
def armAt : Nat := 131072 * 7629404
def arm1 : Req := req 0x0201 0xFFFF (leBytes 8 1 ++ leBytes 8 armAt)
def disarm1 : Req := req 0x0201 0xFFFF (leBytes 8 1 ++ leBytes 8 0)
def table1 : Table := { gen := 1, chunks := [], empties := [] }
def stagedUp : State := { up with car := { up.car with staged := some table1, complete := true } }
def armedUp (at_ : Nat) : State := { up with car := { up.car with
  staged := some table1, complete := true, armed := true, armTime := BitVec.ofNat 64 at_ } }

/-- The holder of slot 3 owns a slot of memory and has waited for it throughout the window. -/
def owning : Table := { gen := 1, empties := [], chunks := [(0, [{
  mem := 3, noLendMem := false, noLendHost := false, host := [], net := [], dome := [], reservedSet := false }])] }
def missed : State := { one def1 with
  boot := { up.boot with pinRate := 80 }, car := { up.car with live := owning }
  slots := [(3, { Slot.reset with slack := [] })] }

theorem witness_CarillonSchedule :
    (accepted 0x0200 kStage .pf stage1 up = true ∧ up.car.armed = false ∧ fld stage1.payload 0 2 ≠ 0 ∧
      fld stage1.payload 0 2 ≠ up.car.live.gen ∧ fld stage1.payload 2 1 ≤ 15 ∧
      (stageChunk up.car.staged 1 15 (stage1.payload.drop 8)).chunks.length < 16) ∧
    (accepted 0x0200 kStage .pf stage1 (armedUp armAt) = true ∧ (armedUp armAt).car.armed = true) ∧
    (accepted 0x0201 kArm .pf arm1 stagedUp = true ∧ fld arm1.payload 8 8 ≠ 0 ∧ tooClose stagedUp = false ∧
      timeLocked stagedUp = true ∧ stagedUp.car.complete = true ∧ stagedUp.car.staged = some table1 ∧
      table1.gen = fld arm1.payload 0 2 ∧ fld arm1.payload 8 8 % 131072 = 0 ∧
      fld arm1.payload 8 8 ≤ now stagedUp + 60000000000 ∧ now stagedUp + 1048576 ≤ fld arm1.payload 8 8 ∧
      stagedGivesAll stagedUp = true) ∧
    (∃ s : State, accepted 0x0201 kArm .pf arm1 s = true ∧ tooClose s = false ∧ timeLocked s = false) ∧
    (accepted 0x0201 kArm .pf disarm1 (armedUp armAt) = true ∧ fld disarm1.payload 8 8 = 0 ∧
      now (armedUp armAt) + 1048576 ≤ (armedUp armAt).car.armTime.toNat) ∧
    (accepted 0x0201 kArm .pf disarm1 (armedUp 1000000001000) = true ∧
      (armedUp 1000000001000).car.armTime.toNat < now (armedUp 1000000001000) + 1048576) ∧
    (operating (armedUp 1000000001000) = true ∧ (armedUp 1000000001000).car.armed = true ∧
      (armedUp 1000000001000).car.staged = some table1 ∧
      (armedUp 1000000001000).car.armTime.toNat ≤ now (armedUp 1000000001000)) ∧
    (operating (armedUp armAt) = true ∧ now (armedUp armAt) < (armedUp armAt).car.armTime.toNat) ∧
    (∃ s : State, operating s = true ∧ now s < s.car.holdUntil) ∧
    (up.car.holdUntil ≤ now up ∧ up.car.heldFrames = [] ∧ up.car.tableEcc = 0 ∧ windowDue up = true) ∧
    (∃ s : State, operating s = true ∧ windowDue s = false) ∧
    (operating missed = true ∧ windowDue missed = true ∧ missed.car.switchedIn ≠ some missed.car.window ∧
      inSlot missed 3 = some (5, def1) ∧ (wasBacklogged missed 3 0 || hostWaited [] missed 3 0) = true ∧
      isMiss missed def1 3 0 = true) ∧ Clear 4 up ∧
    (∃ s : State, alive s = true ∧ s.flt.safe = false ∧ s.car.tableEcc = 2) :=
  ⟨⟨accepted_req (by decide +kernel), by decide +kernel⟩, ⟨accepted_req (by decide +kernel), by decide +kernel⟩,
    ⟨accepted_req (by decide +kernel), by decide +kernel⟩,
    ⟨{ up with bell := { up.bell with state := .freerun } }, accepted_req (by decide +kernel), by decide +kernel⟩,
    ⟨accepted_req (by decide +kernel), by decide +kernel⟩, ⟨accepted_req (by decide +kernel), by decide +kernel⟩,
    by decide +kernel, by decide +kernel, ⟨{ up with car := { up.car with holdUntil := 1000000001001 } }, by decide +kernel⟩,
    by decide +kernel, ⟨{ up with car := { up.car with window := 1000000001000 / 1048576 } }, by decide +kernel⟩,
    by decide +kernel, clear_up 4, ⟨{ up with car := { up.car with tableEcc := 2 } }, by decide +kernel⟩⟩

theorem witness_ContainedCauses :
    (alive (one def1) = true ∧ (one def1).flt.safe = false ∧ inSlot (one def1) 3 = some (5, def1) ∧
      getDef (one def1) 5 = some def1 ∧ def1.state = .running) ∧
    (Clear 11 up ∧ 1 ≠ (getSlot up 3).loadGen.toNat) ∧
    (classOf (one def1) (cause 0x0800 (some 3) 0) = some .contained ∧
      isStale (one def1) (cause 0x0800 (some 3) 0) = false) ∧
    (∀ code ∈ [0x0100, 0x0602, 0x0603, 0x0604, 0x0605, 0x0700, 0x0707, 0x0D02], Clear (code / 256) up) :=
  ⟨by decide +kernel, ⟨clear_up 11, by decide +kernel⟩, by decide +kernel, fun _ _ => clear_up _⟩

theorem witness_CrcResults :
    (CrcCtx.init 0 false 0).rem.toNat < 2 ^ crcWidth (CrcCtx.init 0 false 0).alg ∧ operating up = true ∧
    up.crc.bad = false := by decide +kernel

/-- Definition 5 in a state other than `RUNNING`. -/
def inState (st : PState) (slot : Option Nat) : Def := { def1 with state := st, slot := slot }

def defineReq (conf lan gib : Nat) : Req := req 0x0100 5 (grantBytes conf lan gib)

theorem witness_DefineMessage :
    (accepted 0x0100 kPartDefine .pf (defineReq 0 1 1) up = true ∧ getDef up 5 = none ∧
      grantOk (parseGrant (grantBytes 0 1 1)) = true ∧
      sumGrants up (·.memGib) + (parseGrant (grantBytes 0 1 1)).memGib ≤ poolChunks up ∧
      (firstFree (chunkFree up) (poolChunks up) 0 (parseGrant (grantBytes 0 1 1)).memGib).length =
        (parseGrant (grantBytes 0 1 1)).memGib ∧
      objectsOk up none (some (parseGrant (grantBytes 0 1 1))) = true ∧ up.keep.defSerial ≠ 4294967295) ∧
    (accepted 0x0100 kPartDefine .pf (defineReq 0 1 1) (one def1) = true ∧ (getDef (one def1) 5).isSome = true) ∧
    (accepted 0x0100 kPartDefine .pf (defineReq 0 9 1) up = true ∧
      grantOk (parseGrant (grantBytes 0 9 1)) = false) ∧
    (accepted 0x0100 kPartDefine .pf (defineReq 0 1 999999) up = true ∧
      grantOk (parseGrant (grantBytes 0 1 999999)) = true ∧
      poolChunks up < sumGrants up (·.memGib) + (parseGrant (grantBytes 0 1 999999)).memGib) :=
  ⟨⟨accepted_req (by decide +kernel), by decide +kernel⟩, ⟨accepted_req (by decide +kernel), by decide +kernel⟩,
    ⟨accepted_req (by decide +kernel), by decide +kernel⟩, ⟨accepted_req (by decide +kernel), by decide +kernel⟩⟩

def away : State := one (inState .defined none)
def loadReq (slot : Nat) : Req := req 0x0101 5 (leBytes 8 slot)

/-- Definition 5 is not loaded and definition 6 stands in slot 0. -/
def slotTaken : State := { away with defs := [(5, inState .defined none), (6, inState .running (some 0))] }

theorem witness_LoadAndUnload :
    (accepted 0x0101 kPartLoad .pf (loadReq 0xFF) away = true ∧ getDef away 5 = some (inState .defined none) ∧
      fld (leBytes 8 0xFF) 0 1 = 0xFF ∧ loadSlot away 0xFF = some 0 ∧
      (∀ p ∈ residents away 5, boundFn p.2 ≠ boundFn def1) ∧ requestsAny grant1 = false ∧
      resourcesOk away 5 grant1 = true ∧ tablesGive away grant1 0 = true) ∧
    (accepted 0x0101 kPartLoad .pf (loadReq 63) away = true ∧ fld (leBytes 8 63) 0 1 < 64 ∧
      loadSlot away 63 = some 63) ∧
    (accepted 0x0101 kPartLoad .pf (loadReq 3) (one def1) = true ∧ def1.state ≠ .defined) ∧
    (accepted 0x0101 kPartLoad .pf (loadReq 64) away = true ∧ 64 ≤ fld (leBytes 8 64) 0 1 ∧
      fld (leBytes 8 64) 0 1 ≠ 0xFF) ∧
    (accepted 0x0101 kPartLoad .pf (loadReq 0) slotTaken = true ∧
      getDef slotTaken 5 = some (inState .defined none) ∧ (inSlot slotTaken 0).isSome = true) ∧
    (∀ st ∈ [PState.resident, .quiesced, .faulted, .running],
      accepted 0x0102 kPartUnload .pf (req 0x0102 5 []) (one (inState st (some 3))) = true ∧
      (getFn (one (inState st (some 3))) (boundFn def1)).busy = false) ∧
    (∃ s : State, accepted 0x0102 kPartUnload .pf (req 0x0102 5 []) s = true ∧
      getDef s 5 = some (inState .resident (some 3)) ∧ (getFn s (boundFn def1)).busy = true) :=
  ⟨⟨accepted_req (by decide +kernel), by decide +kernel⟩, ⟨accepted_req (by decide +kernel), by decide +kernel⟩,
    ⟨accepted_req (by decide +kernel), by decide +kernel⟩, ⟨accepted_req (by decide +kernel), by decide +kernel⟩,
    ⟨accepted_req (by decide +kernel), by decide +kernel⟩,
    fun st h => ⟨accepted_req (by revert st h; decide +kernel), by revert st h; decide +kernel⟩,
    ⟨setFn (one (inState .resident (some 3))) 1 (fun f => { f with busy := true }), accepted_req (by decide +kernel),
      by decide +kernel⟩⟩

def quiesceReq (mode limit : Nat) : Req := req 0x0104 5 (leBytes 4 mode ++ leBytes 4 limit)
def quiesce1 (flush reset : Bool) : Quiesce :=
  { flush := flush, drainLimit := 10000, tails := [], answer := some (.pf, quiesceReq 0 0), thenReset := reset
    lapse := false, flr := false }
def stopping (flush reset : Bool) : Def := { def1 with state := .quiescing, quiesce := some (quiesce1 flush reset) }

theorem witness_Quiescing :
    (∀ st ∈ [PState.resident, .running, .defined, .quiescing, .quiesced, .scrubbing, .faulted],
      accepted 0x0104 kPartQuiesce .pf (quiesceReq 1 100000) (one (inState st (some 3))) = true ∧
      getDef (one (inState st (some 3))) 5 = some (inState st (some 3))) ∧
    (def1.spent = false ∧ def1.bind = none ∧ def1.serving = [] ∧ fld (quiesceReq 1 100000).payload 0 1 ≤ 1 ∧
      fld (quiesceReq 1 100000).payload 4 4 ≤ 100000) ∧
    (accepted 0x0104 kPartQuiesce .pf (quiesceReq 2 0) (one def1) = true ∧
      1 < fld (quiesceReq 2 0).payload 0 1) ∧
    (accepted 0x0104 kPartQuiesce .pf (quiesceReq 0 100001) (one def1) = true ∧
      100000 < fld (quiesceReq 0 100001).payload 4 4) :=
  ⟨fun st h => ⟨accepted_req (by revert st h; decide +kernel), by revert st h; decide +kernel⟩, by decide +kernel,
    ⟨accepted_req (by decide +kernel), by decide +kernel⟩, ⟨accepted_req (by decide +kernel), by decide +kernel⟩⟩

/-- A GEMM command with one tile in a state given, on ring 0 of definition 5. -/
def tile1 (st : TileState) : Tile := { Tile.fresh 0 (.gemmSplit 0 0 0 64 64) 0 0 with state := st }
def cmd1 (st : TileState) : Cmd :=
  { Cmd.admitHead 0 (List.replicate 64 0) (List.replicate 128 0) with began := true, tiles := [tile1 st] }
def ring1 (st : TileState) : CmdRing :=
  { CmdRing.fresh 0 6 0 0 0 1 with head := 1, tail := 1, jobOpen := true, jobStarted := true, cur := some (cmd1 st) }
def busyDef (ds : PState) (st : TileState) : Def := { def1 with state := ds, rings := [(0, ring1 st)] }

theorem witness_Quiescing_ends :
    (∀ (fl rs : Bool), operating (one (stopping fl rs)) = true ∧ getDef (one (stopping fl rs)) 5 = some (stopping fl rs) ∧
      tilesStill (stopping fl rs) = true ∧
      (stopping fl rs).qps.all (fun p => !qpBusy (stopping fl rs) p.1 p.2 && p.2.inbound.isEmpty) = true ∧
      (getFn (one (stopping fl rs)) (boundFn def1)).waitOp = none) ∧
    (def1.state ≠ .quiescing ∧ tilesStill (busyDef .quiescing .issued) = false) ∧
    (operating (one (busyDef .quiescing .remoteWait)) = true ∧
      inSlot (one (busyDef .quiescing .remoteWait)) 3 = some (5, busyDef .quiescing .remoteWait) ∧
      (ring1 .remoteWait).state = .active ∧ (cmd1 .remoteWait).tile 0 = some (tile1 .remoteWait) ∧
      (one (busyDef .quiescing .remoteWait)).frags = []) := by
  refine ⟨?_, by decide +kernel, by decide +kernel⟩
  intro fl rs
  cases fl <;> cases rs <;> decide +kernel

def confDef (st : PState) : Def := { inState st (some 3) with grant := parseGrant (grantBytes 1 1 1) }
def runTdi (d : Def) : State := setFn (one d) 1 (fun f => { f with tdi := .run })

theorem witness_ResumeAndReset :
    (∀ st ∈ [PState.resident, .quiesced], accepted 0x0105 kPartResume .pf (req 0x0105 5 []) (runTdi (confDef st)) = true ∧
      accepted 0x0105 kPartResume .pf (req 0x0105 5 []) (one (confDef st)) = true ∧
      (confDef st).grant.confidential = true ∧ (getFn (runTdi (confDef st)) (boundFn (confDef st))).tdi = .run ∧
      (getFn (one (confDef st)) (boundFn (confDef st))).tdi ≠ .run ∧
      (∀ k, k < 16 → (runTdi (confDef st)).domes.fenced.getLsbD k = false)) ∧
    (accepted 0x0105 kPartResume .pf (req 0x0105 5 []) (one { busyDef .quiesced .dropped with saved := [0] }) = true ∧
      (busyDef .quiesced .dropped).rings.any (fun p => [0].contains p.1) = true) ∧
    (∀ st ∈ [PState.quiesced, .faulted, .resident, .running],
      accepted 0x0106 kPartReset .pf (req 0x0106 5 []) (one (inState st (some 3))) = true ∧
      getDef (one (inState st (some 3))) 5 = some (inState st (some 3))) ∧
    (∀ st ∈ [PState.quiesced, .faulted], accepted 0x0106 kPartReset .pf (req 0x0106 5 []) (one (busyDef st .waiting)) = true ∧
      (busyDef st .waiting).rings = [(0, ring1 .waiting)] ∧ (ring1 .waiting).jobStarted = true) :=
  ⟨fun st h => ⟨accepted_req (by revert st h; decide +kernel), accepted_req (by revert st h; decide +kernel),
      by revert st h; decide +kernel⟩, ⟨accepted_req (by decide +kernel), by decide +kernel⟩,
    fun st h => ⟨accepted_req (by revert st h; decide +kernel), by revert st h; decide +kernel⟩,
    fun st h => ⟨accepted_req (by revert st h; decide +kernel), by revert st h; decide +kernel⟩⟩

theorem witness_ScrubAndDestroy :
    (∀ d ∈ [inState .defined none, inState .quiesced (some 3), def1],
      accepted 0x0107 kPartScrub .pf (req 0x0107 5 []) (one d) = true ∧ getDef (one d) 5 = some d ∧ d.spent = false ∧
      d.keyVersion < 65535 ∧ d.rotation = none) ∧
    (operating (one (inState .scrubbing (some 3))) = true ∧ (inState .scrubbing (some 3)).state = .scrubbing) ∧
    (operating (one def1) = true ∧ 0 ∈ def1.uninit ∧ 1 ∉ def1.uninit) ∧
    (∀ d ∈ [inState .defined none, { inState .defined none with scrubbed := false }, def1],
      accepted 0x0108 kPartDestroy .pf (req 0x0108 5 []) (one d) = true ∧ getDef (one d) 5 = some d) :=
  ⟨fun d h => ⟨accepted_req (by revert d h; decide +kernel), by revert d h; decide +kernel⟩, by decide +kernel,
    by decide +kernel, fun d h => ⟨accepted_req (by revert d h; decide +kernel), by revert d h; decide +kernel⟩⟩

/-- Definition 5 with two GiB, and requests that grow it, keep it and shrink it, and one that binds it elsewhere. -/
def two : State := one { inState .quiesced (some 3) with grant := parseGrant (grantBytes 0 1 2), chunks := [0, 1] }
def resizeReq (gib : Nat) : Req := req 0x0103 5 (grantBytes 0 1 gib)

def logging : State :=
  let s := one { def1 with dirty := some { a := 0x100000, b := 0x200000, onB := false, bits := [3] } }
  { s with fns := mput s.fns 0 { Fn.reset with mbox := { Mbox.reset with session := some session0, minor := 1 } } }
def minorOne (d : Def) : State :=
  { one d with fns := [(0, { Fn.reset with mbox := { Mbox.reset with session := some session0, minor := 1 } })] }

theorem witness_ResizeAndDirtyLog :
    (∀ gib ∈ [1, 2, 3], accepted 0x0103 kPartResize .pf (resizeReq gib) two = true ∧
      (∀ d, getDef two 5 = some d → resizeStateOk d (parseGrant (grantBytes 0 1 gib)) = true ∧
        resizeFixedOk d.grant (parseGrant (grantBytes 0 1 gib)) = true ∧
        grantOk (parseGrant (grantBytes 0 1 gib)) = true ∧
        resizeRule two 5 d (parseGrant (grantBytes 0 1 gib))
          (firstFree (chunkFree two) (poolChunks two) 0 ((parseGrant (grantBytes 0 1 gib)).memGib - d.grant.memGib)) =
          none)) ∧
    (accepted 0x0103 kPartResize .pf (resizeReq 1) (one (inState .scrubbing (some 3))) = true ∧
      accepted 0x0103 kPartResize .pf (req 0x0103 5 (grantBytes 1 1 1)) (one (inState .quiesced (some 3))) = true ∧
      resizeStateOk (inState .quiesced (some 3)) (parseGrant (grantBytes 1 1 1)) = true ∧
      resizeFixedOk grant1 (parseGrant (grantBytes 1 1 1)) = false) ∧
    (∀ d ∈ [def1, confDef .running],
      accepted 0x0400 kDirtyEnable .pf (req 0x0400 5 (leBytes 8 0x100000 ++ leBytes 8 0x200000)) (minorOne d) = true ∧
      getDef (minorOne d) 5 = some d ∧ (getBox (minorOne d) .pf).minor ≠ 0) ∧
    (accepted 0x0401 kDirtyHarvest .pf (req 0x0401 5 []) logging = true ∧
      (getBox logging .pf).minor ≠ 0 ∧ (∃ d l, getDef logging 5 = some d ∧ d.spent = false ∧ d.dirty = some l)) ∧
    (accepted 0x0401 kDirtyHarvest .pf (req 0x0401 5 []) (minorOne def1) = true ∧ def1.dirty = none) :=
  ⟨fun g h => ⟨accepted_req (by revert g h; decide +kernel), fun d hd => by
      cases hd; revert g h; decide +kernel⟩,
    ⟨accepted_req (by decide +kernel), accepted_req (by decide +kernel), by decide +kernel⟩,
    fun d h => ⟨accepted_req (by revert d h; decide +kernel), by revert d h; decide +kernel⟩,
    ⟨accepted_req (by decide +kernel), by decide +kernel, _, _, rfl, rfl, rfl⟩,
    ⟨accepted_req (by decide +kernel), by decide +kernel⟩⟩

/-! ### A partition with objects

Definition 5 has a command ring, a completion ring, and a QP with both queues. Pages 0 and 1 of its addresses are in its
memory, page 2 is the same page of its host. The command ring's first entry stands at host address 0x20000, the send queue's
at 0x21000, the receive queue's at 0x22000, and a descriptor or record at 0x28000. -/

def cpl0 : CplRing :=
  { group := 1, log2 := 8, base := 0x10000, vector := 0, head := 0, wcount := 0, reserved := 0, waiting := [] }
def cring (tail : BitVec 32) : CmdRing := { CmdRing.fresh 1 6 0x20000 0 0 1 with tail := tail }
def queue (base : Nat) (tail : BitVec 32) : Queue :=
  { state := .active, group := 1, log2 := 6, base := base, cpl := 0, head := 0, tail := tail }

/-- A connection record: IPv4, one path, link key 0, every access, peer QP number 99, windows from address 0. -/
def conn1 : List Byte :=
  [4, 0, 1, 0, 0, 0] ++ leBytes 2 49152 ++ List.replicate 12 0 ++ [0, 15, 0, 0] ++ List.replicate 12 0 ++ [10, 0, 0, 1] ++
    List.replicate 12 0 ++ [10, 0, 0, 2] ++ [99, 0, 0, 0] ++ leBytes 2 1 ++ leBytes 2 0 ++ leBytes 4 100 ++ leBytes 4 200 ++
    leBytes 8 0 ++ leBytes 8 0x20000 ++ List.replicate 40 0

def qp0 (st : QpState) (tail : BitVec 32) : Qp :=
  { Qp.start { Qp.fresh 70 with sq := some (queue 0x21000 tail), rq := some (queue 0x22000 0) } conn1 0 with state := st }

def obj (tail qtail : BitVec 32) (st : QpState) : Def :=
  { def1 with
    ptBase := some 0x40000, uninit := [], cpls := [(0, cpl0)], rings := [(0, cring tail)]
    qps := [(0, qp0 st qtail), (1, Qp.fresh 71)], linkKeys := [(0, (7, List.replicate 32 1))] }

/-- Bytes at addresses, in ascending order. -/
def cellsAt (l : List (Nat × List Byte)) : Cells :=
  l.flatMap (fun p => (p.2.zipIdx.filter (fun q => q.1 != 0)).map (fun q => (p.1 + q.2, q.1)))

/-- The host's memory with the page tables, and more below them. -/
def hostOf (l : List (Nat × List Byte)) : NMap Cells :=
  [(1, cellsAt (l ++ [(0x40000, leBytes 8 0x50001), (0x50000, leBytes 8 7 ++ leBytes 8 0x10007 ++ leBytes 8 0x2000F)]))]
def roomWith (l : List (Nat × List Byte)) (d : Def) : State := { one d with host := hostOf l }
def room (d : Def) : State := roomWith [] d

def bell (off v : Nat) : HostWrite := { fn := 1, off := 65536 + off, data := leBytes 8 v, window := false }
def ctl (a0 a1 : Word) : Ctl :=
  { fn := 1, slot := none, arg0 := a0, arg1 := a1, arg2 := 0, arg3 := 0, window := false }

theorem witness_Doorbells :
    (operating (room (obj 0 0 .ready)) = true ∧ doorbellAt 1 (65536 + 4096) = some (none, 4096) ∧
      pageTarget (room (obj 0 0 .ready)) 1 none false = some (1, 5, obj 0 0 .ready) ∧
      getDef (room (obj 0 0 .ready)) 5 = some (obj 0 0 .ready)) ∧
    ((cring 0).state = .active ∧ (cring 0).group = 4096 / 4096 ∧ (64#32 - (cring 0).tail).toNat ≤ 2 ^ (cring 0).log2 ∧
      2 ^ (cring 0).log2 < (65#32 - (cring 0).tail).toNat ∧ (64#32 - (cring 0).head).toNat ≤ 2 ^ (cring 0).log2 ∧
      (leBytes 4 0).length ≠ 8) ∧
    (cpl0.group = 1 ∧ (0#32 - cpl0.head).toNat ≤ (cpl0.wcount - cpl0.head).toNat) ∧
    (∀ send : Bool, ∃ q, queueOf (qp0 .ready 0) send = some q ∧ q.state = .active ∧ q.group = 1 ∧
      (64#32 - q.tail).toNat ≤ 2 ^ q.log2 ∧ (64#32 - q.head).toNat ≤ 2 ^ q.log2) := by
  refine ⟨by decide +kernel, by decide +kernel, by decide +kernel, fun send => ?_⟩
  cases send <;> exact ⟨_, rfl, by decide +kernel⟩

/-- RING_CREATE of ring 1 of a kind. -/
def create (kind : Nat) : Ctl :=
  if kind = 0 then { ctl (BitVec.ofNat 64 (1 + 2 ^ 24 + 6 * 2 ^ 32 + 2 ^ 48)) 0x30000 with arg2 := 0 }
  else { ctl (BitVec.ofNat 64 (kind * 65536 + 1 + 2 ^ 24 + 6 * 2 ^ 32)) 0x30000 with arg2 := 0 }

def ctlOn (s : State) (d : Def) : Prop := CtlRuns s (ctl 0 0) 1 5 d
theorem ctlOn_of {s : State} {d : Def} (h : operating s = true ∧ pageTarget s 1 none false = some (1, 5, d) ∧
    getDef s 5 = some d ∧ (getFn s 1).busy = false ∧ d.state ≠ .quiescing ∧ d.state ≠ .faulted ∧
    (getFn s 1).unload = none) (c : Ctl) (h1 : c.fn = 1 ∧ c.slot = none ∧ c.window = false) : CtlRuns s c 1 5 d := by
  unfold CtlRuns
  rw [h1.1, h1.2.1, h1.2.2]
  exact h

def openObj : Def := obj 0 0 .ready
theorem ctlRuns (c : Ctl) (h : c.fn = 1 ∧ c.slot = none ∧ c.window = false) : CtlRuns (room openObj) c 1 5 openObj :=
  ctlOn_of (by decide +kernel) c h

def posted1 : Def := obj 1 1 .ready

theorem witness_RingObjects :
    (∀ k, k < 4 → CtlRuns (room openObj) (create k) 1 5 openObj ∧ createOk openObj (create k) = true ∧
      handleHeld openObj.grant (k * 65536 + 1) = true ∧ objState openObj (k * 65536 + 1) = none ∧
      bits (create k).arg0.toNat 17 0 = k * 65536 + 1) ∧
    (CtlRuns (room openObj) (ctl 0 0) 1 5 openObj ∧ createOk openObj (ctl 0 0) = false) ∧
    (createOk openObj { create 0 with arg0 := (create 0).arg0 + 1 } = true ∧
      handleHeld openObj.grant (bits ((create 0).arg0 + 1).toNat 17 0) = false ∧
      createOk openObj { create 0 with arg0 := (create 0).arg0 - 1 } = true ∧
      (objState openObj (bits ((create 0).arg0 - 1).toNat 17 0)).isSome = true) ∧
    (handleHeld openObj.grant 2 = false ∧ destroyBusy openObj 0x10000 = true ∧ destroyBusy openObj 0 = false ∧
      destroyBusy { openObj with rings := [] } 0x10000 = true ∧ destroyBusy openObj 0x20001 = false ∧
      destroyBusy { openObj with rings := [], qps := [] } 0x10000 = false) ∧
    (∃ s : State, operating s = true ∧ pageTarget s 1 none false = some (1, 5, openObj) ∧ (getFn s 1).busy = true) ∧
    (CtlRuns (room posted1) (ctl 0 0) 1 5 posted1 ∧ posted1.rings = [(0, cring 1)] ∧ (room posted1).frags = [] ∧
      boundFn posted1 = 1 ∧ (cring 1).state = .active) ∧
    (handleHeld openObj.grant 1 = true ∧ objState openObj 1 ≠ some .active) ∧
    (∃ a : AbortOp, ∀ d ∈ [openObj, posted1], ∃ s : State, operating s = true ∧ (getFn s 1).abort = some a ∧
      boundTo s 1 = some (5, d) ∧ a.handles = [0] ∧ (getFn s 1).unload = none ∧
      hasEntries openObj 0 = false ∧ hasEntries posted1 0 = true) := by
  refine ⟨?_, ⟨ctlRuns _ (by decide), by decide +kernel⟩, by decide +kernel, by decide +kernel,
    ⟨setFn (room openObj) 1 (fun f => { f with busy := true }), by decide +kernel⟩,
    ⟨ctlOn_of (by decide +kernel) _ (by decide), by decide +kernel⟩, by decide +kernel,
    ⟨{ handles := [0], count := 0, reset := false }, fun d h =>
      ⟨setFn (room d) 1 (fun f => { f with busy := true, abort := some { handles := [0], count := 0, reset := false } }), by
        revert d h; decide +kernel⟩⟩⟩
  intro k hk
  exact ⟨ctlRuns _ (by revert k hk; decide +kernel), by revert k hk; decide +kernel⟩

/-- A NOP in execution on the ring. -/
def working : Def := { openObj with rings := [(0, { cring 1 with head := 1, cur := some (cmd1 .waiting) })] }

theorem witness_PageTablesAndFences :
    (CtlRuns (room openObj) (ctl 0x40000 0) 1 5 openObj ∧ anyAdmitted openObj = false ∧
      (0x40000#64).toNat % 4096 = 0) ∧
    (CtlRuns (room working) (ctl 0x40000 0) 1 5 working ∧ anyAdmitted working = true) ∧
    (CtlRuns (room openObj) (ctl 0x40001 0) 1 5 openObj ∧ (0x40001#64).toNat % 4096 ≠ 0) ∧
    (CtlRuns (room openObj) (ctl 0x20000 1) 1 5 openObj ∧ (0x20000#64).toNat % 65536 = 0 ∧ 1 ≤ (1#64).toNat ∧
      referencedPages (usedRanges (room openObj) openObj) 2 1 = 0) ∧
    (CtlRuns (room openObj) (ctl 3 0x1234) 1 5 openObj ∧ (3#64).toNat < openObj.grant.fences ∧
      openObj.grant.fences ≤ (4#64).toNat) := by
  refine ⟨⟨ctlRuns _ (by decide), by decide +kernel⟩, ⟨ctlOn_of (by decide +kernel) _ (by decide), by decide +kernel⟩,
    ⟨ctlRuns _ (by decide), by decide +kernel⟩, ⟨ctlRuns _ (by decide), by decide +kernel⟩,
    ⟨ctlRuns _ (by decide), by decide +kernel⟩⟩

def recordAt (d : Def) : State := roomWith [(0x28000, conn1)] d
def still (st : QpState) : Def := obj 0 0 st

theorem witness_QpOperations :
    (∀ st ∈ [QpState.reset, .ready], (CtlRuns (recordAt (still st)) (ctl 0x10000 0x28000) 1 5 (still st)) ∧
      modifyArgsOk (ctl 0x10000 0x28000) = true ∧ mfind (still st).qps 0 = some (qp0 st 0) ∧
      readVa (recordAt (still st)) (still st) 0x28000 128 = .ok conn1 ∧
      connOk (still st).grant (still st).linkKeys conn1 = true ∧ queuesActive (qp0 st 0) = true) ∧
    (modifyArgsOk (ctl 0x10000 0x28001) = false ∧ bits (0x10000#64).toNat 17 16 ≠ 0 ∧
      modifyArgsOk (ctl 0 0x28001) = false ∧ bits (0#64).toNat 17 16 ≠ 1) ∧
    (∀ st ∈ [QpState.error, .ready], (CtlRuns (room (still st)) (ctl 0 0) 1 5 (still st)) ∧
      modifyArgsOk (ctl 0 0) = true ∧ mfind (still st).qps 0 = some (qp0 st 0) ∧
      hasEntries (still st) (hSend 0) = false ∧ hasEntries (still st) (hRecv 0) = false ∧ (qp0 st 0).sent = [] ∧
      (qp0 st 0).msgs = []) ∧
    (CtlRuns (room openObj) (ctl 0 0x1040) 1 5 openObj ∧
      translate (room openObj) openObj 0x1040 true = some (.mem 0x1040) ∧
      translate (room openObj) openObj 0x28040 true = some (.host 0x28040) ∧ openObj.dirty = none) := by
  refine ⟨fun st h => ⟨ctlOn_of (by revert st h; decide +kernel) _ (by decide), by decide +kernel, ?_⟩, by decide +kernel,
    fun st h => ⟨ctlOn_of (by revert st h; decide +kernel) _ (by decide), by decide +kernel, ?_⟩,
    ctlRuns _ (by decide), by decide +kernel⟩
  · revert st h
    decide +kernel
  · revert st h
    decide +kernel

/-! ### Entries of the command ring -/

/-- An entry: opcode, the 32 bytes of its body, its wait and its signal. -/
def entry (op : Nat) (body : List Byte) (wait signal : Nat) (wv sv : Nat) : List Byte :=
  leBytes 2 op ++ leBytes 2 0x77 ++ leBytes 4 0 ++ leBytes 4 wait ++ leBytes 4 signal ++ body.take 32 ++
    List.replicate (32 - body.length) 0 ++ leBytes 8 wv ++ leBytes 8 sv
def plain (op : Nat) (body : List Byte) : List Byte := entry op body 0 0 0 0

def fenced (v : Word) (ab : Bool) : Def := { obj 1 0 .ready with fences := [(2, { value := v, abandoned := ab })] }
/-- The partition with an entry at its head and data in page 2. -/
def posted_ (d : Def) (e desc : List Byte) : State := roomWith [(0x20000, e), (0x28000, desc)] d

theorem headEntry_of {s : State} {op : Nat} {d : Def} {r : CmdRing} {c : CplRing} {e : List Byte}
    (h : operating s = true ∧ inSlot s 3 = some (5, d) ∧ getDef s 5 = some d ∧ d.state = .running ∧
      (∀ p ∈ d.rings, p.2.state = .active ∧ p.2.cur = none ∧ p.2.nxt = none ∧ p.2.fall = none) ∧
      (∀ f ∈ s.frags, f.2.slot ≠ 3) ∧ mfind d.rings 0 = some r ∧ r.head ≠ r.tail ∧
      e = entryAt s (boundFn d) r.base r.log2 r.head ∧ eOp e = op ∧ r.cancelRest = false ∧
      entryFault s d (!r.jobOpen) e = none ∧
      (fMode (eWaitFence e) ≠ 1 ∨ r.waitSat = true ∨ ((getFence d (fIndex (eWaitFence e))).abandoned = false ∧
        reaches (getFence d (fIndex (eWaitFence e))).value (eWaitValue e) = true)) ∧
      mfind d.cpls r.cpl = some c ∧ 1 ≤ cplRoom c) : HeadEntry s 3 0 op 5 d r e :=
  ⟨h.1, h.2.1, h.2.2.1, h.2.2.2.1, h.2.2.2.2.1, h.2.2.2.2.2.1, h.2.2.2.2.2.2.1, h.2.2.2.2.2.2.2.1, h.2.2.2.2.2.2.2.2.1,
    h.2.2.2.2.2.2.2.2.2.1, h.2.2.2.2.2.2.2.2.2.2.1, h.2.2.2.2.2.2.2.2.2.2.2.1, h.2.2.2.2.2.2.2.2.2.2.2.2.1,
    c, h.2.2.2.2.2.2.2.2.2.2.2.2.2⟩

/-- A FENCE_WAIT for 9 on fence 2, and FENCE_SIGNALs on it. -/
def waitFor9 : List Byte := entry 2 [] (2 + 2 ^ 18) 0 9 0
def signal9 : List Byte := entry 3 [] 0 (2 + 2 ^ 18) 0 9
def increment : List Byte := entry 3 [] 0 (2 + 2 ^ 19) 0 0

theorem witness_FenceEntries :
    HeadEntry (posted_ (fenced 0 false) (plain 1 []) []) 3 0 0x01 5 (fenced 0 false) (cring 1) (plain 1 []) ∧
    HeadEntry (posted_ (fenced 9 false) waitFor9 []) 3 0 0x02 5 (fenced 9 false) (cring 1) waitFor9 ∧
    HeadEntry (posted_ (fenced 9 false) signal9 []) 3 0 0x03 5 (fenced 9 false) (cring 1) signal9 ∧
    HeadEntry (posted_ (fenced 10 false) signal9 []) 3 0 0x03 5 (fenced 10 false) (cring 1) signal9 ∧
    HeadEntry (posted_ (fenced 3 true) increment []) 3 0 0x03 5 (fenced 3 true) (cring 1) increment ∧
    HeadEntry (posted_ (fenced 3 false) increment []) 3 0 0x03 5 (fenced 3 false) (cring 1) increment ∧
    fMode (eSignalFence increment) = 2 ∧ fMode (eSignalFence signal9) = 1 ∧
    (eSignalValue signal9 - 9#64).toNat < 2 ^ 63 ∧ 2 ^ 63 ≤ (eSignalValue signal9 - 10#64).toNat ∧
    (entryFault (posted_ (fenced 8 false) waitFor9 []) (fenced 8 false) true waitFor9 = none ∧ fMode (eWaitFence waitFor9) = 1 ∧
      reaches 8#64 (eWaitValue waitFor9) = false) := by
  exact ⟨headEntry_of (c := cpl0) (by decide +kernel), headEntry_of (c := cpl0) (by decide +kernel),
    headEntry_of (c := cpl0) (by decide +kernel), headEntry_of (c := cpl0) (by decide +kernel),
    headEntry_of (c := cpl0) (by decide +kernel), headEntry_of (c := cpl0) (by decide +kernel), by decide +kernel⟩

theorem descriptor_of {s : State} {d : Def} {r : CmdRing} {e p : List Byte}
    (h : (readDesc s d e).1.isNone = true ∧ (readDesc s d e).2 = p ∧ fld e 40 8 = 0 ∧
      (∀ sl ∈ d.slot, (getSlot s sl).held = false)) : Descriptor s d r e p :=
  ⟨Prod.ext (Option.isNone_iff_eq_none.mp h.1) h.2.1, fun _ hs => h.2.2.2 _ hs, .inl h.2.2.1⟩

def objD : Def := obj 1 0 .ready
/-- A compute entry whose descriptor is at 0x28000. -/
def compute (op : Nat) : List Byte := plain op (leBytes 8 0x28000 ++ (if op == 0x30 then leBytes 2 1 else []))

def gemmDesc : List Byte :=
  leBytes 8 0 ++ leBytes 8 0x4000 ++ leBytes 8 0 ++ leBytes 8 0x8000 ++ leBytes 24 0 ++ leBytes 4 64 ++ leBytes 4 64 ++
    leBytes 4 64 ++ leBytes 4 128 ++ leBytes 4 128 ++ leBytes 4 128 ++ leBytes 4 128 ++ leBytes 4 0x3F800000 ++
    leBytes 4 0 ++ [2, 2, 2, 2] ++ List.replicate 32 0
def mergeDesc : List Byte :=
  leBytes 8 0x28040 ++ leBytes 8 0x1000 ++ leBytes 8 0 ++ leBytes 4 1 ++ [1, 0] ++ leBytes 2 64 ++ List.replicate 32 0
def kvBody (op : Nat) : List Byte :=
  leBytes 8 0x28000 ++ (if op == 0x48 then leBytes 8 0 ++ leBytes 2 1 else [])

def begins (op : Nat) : Prop :=
  HeadEntry (posted_ objD (plain op (kvBody op)) []) 3 0 op 5 objD (cring 1) (plain op (kvBody op)) ∧
  Descriptor (posted_ objD (plain op (kvBody op)) []) objD (cring 1) (plain op (kvBody op)) []
/-- A LANTERN_RUN of a routine of 4 bytes, once. -/
def runEntry : List Byte := plain 0x60 (leBytes 8 0x28000 ++ leBytes 8 0 ++ leBytes 2 4 ++ leBytes 2 1 ++ leBytes 2 0)

theorem witness_CommandsBegin :
    (HeadEntry (posted_ objD (compute 0x30) gemmDesc) 3 0 0x30 5 objD (cring 1) (compute 0x30) ∧
      Descriptor (posted_ objD (compute 0x30) gemmDesc) objD (cring 1) (compute 0x30) gemmDesc ∧
      (parseGemm gemmDesc (compute 0x30)).check gemmDesc objD.grant = none ∧
      gemmTiles (parseGemm gemmDesc (compute 0x30)) objD.grant ≠ []) ∧
    (HeadEntry (posted_ objD (compute 0x41) (mergeDesc ++ leBytes 8 0x2000)) 3 0 0x41 5 objD (cring 1) (compute 0x41) ∧
      Descriptor (posted_ objD (compute 0x41) (mergeDesc ++ leBytes 8 0x2000)) objD (cring 1) (compute 0x41)
        (mergeDesc ++ leBytes 8 0x2000) ∧
      (parseMerge (mergeDesc ++ leBytes 8 0x2000)).ok (mergeDesc ++ leBytes 8 0x2000) = true) ∧
    begins 0x48 ∧ begins 0x49 ∧ begins 0x4A ∧ begins 0x4B ∧
    (HeadEntry (posted_ objD runEntry []) 3 0 0x60 5 objD (cring 1) runEntry ∧
      Descriptor (posted_ objD runEntry []) objD (cring 1) runEntry []) :=
  ⟨⟨headEntry_of (c := cpl0) (by decide +kernel), descriptor_of (by decide +kernel), by decide +kernel⟩,
    ⟨headEntry_of (c := cpl0) (by decide +kernel), descriptor_of (by decide +kernel), by decide +kernel⟩,
    ⟨headEntry_of (c := cpl0) (by decide +kernel), descriptor_of (by decide +kernel)⟩,
    ⟨headEntry_of (c := cpl0) (by decide +kernel), descriptor_of (by decide +kernel)⟩,
    ⟨headEntry_of (c := cpl0) (by decide +kernel), descriptor_of (by decide +kernel)⟩,
    ⟨headEntry_of (c := cpl0) (by decide +kernel), descriptor_of (by decide +kernel)⟩,
    ⟨headEntry_of (c := cpl0) (by decide +kernel), descriptor_of (by decide +kernel)⟩⟩

/-- A chain of one token of dimension 64 at 0x28400, its entry list behind it, a list of heads, and a row of zeros. -/
def chain1 (fmt : Nat) : Chain :=
  { va := 0x28400, fmt := fmt, isShadow := false, dim := 64, n := 1, tn := 0, epoch := 0, cap := 1, list := 0x28440, spare := 0
    shadow := 0, pool := 0
    ents := [{ addr := 0, qp := 0, first := 0, count := 1, remote := false, fmt := fmt, skip := 0 }] }
/-- An ATTEND of one head and one row, with a binary32 output alone, or with one in bfloat16 as well. -/
def attendDesc : List Byte :=
  leBytes 8 0x29000 ++ leBytes 8 0x28480 ++ leBytes 8 0x284C0 ++ leBytes 8 0x1000 ++ leBytes 8 0 ++ leBytes 4 0x3F800000 ++
    leBytes 12 0 ++ leBytes 2 64 ++ leBytes 2 1 ++ [1, 1, 0, 2] ++ List.replicate 64 0
def batchDesc : List Byte :=
  leBytes 8 0x28080 ++ leBytes 8 0x29000 ++ leBytes 8 0x1000 ++ leBytes 8 0 ++ leBytes 8 0x2000 ++ leBytes 8 0x3000 ++
    leBytes 4 0x3F800000 ++ leBytes 12 0 ++ leBytes 2 64 ++ leBytes 2 1 ++ [1, 1, 0, 0] ++ List.replicate 56 0
/-- A lane that takes part, on the chain. -/
def lane1 : List Byte := leBytes 8 0x28400 ++ leBytes 8 0x284C0 ++ List.replicate 48 0
def reduceDesc : List Byte :=
  leBytes 8 0x28040 ++ leBytes 8 0x1000 ++ leBytes 16 0 ++ leBytes 4 1024 ++ leBytes 4 1024 ++ [2, 0, 1, 0] ++
    List.replicate 20 0
def reduceInputs : List Byte :=
  leBytes 8 0x2000 ++ List.replicate 20 0 ++ [1, 0, 0, 0] ++ leBytes 8 0x4000 ++ List.replicate 20 0 ++ [1, 0, 0, 0]
def convertDesc : List Byte :=
  leBytes 8 0x2000 ++ leBytes 8 0x4000 ++ List.replicate 32 0 ++ leBytes 4 1024 ++ leBytes 4 1024 ++ [1, 2] ++
    List.replicate 70 0

def kvRoom (op fmt : Nat) (desc : List Byte) : State :=
  roomWith [(0x20000, compute op), (0x28000, desc), (0x28080, lane1), (0x28400, objBytes (chain1 fmt)),
    (0x28440, listBytes (chain1 fmt)), (0x28480, leBytes 8 0x28400)] objD

def snapIs (l : List Chain) (x : Snap) : Bool :=
  match x with
  | .ok k => k == l
  | .fails _ => false
theorem snap_of {l : List Chain} {x : Snap} (h : snapIs l x = true) : x = .ok l := by
  cases x with
  | ok k => rw [beq_iff_eq.mp h]
  | fails f => cases h

theorem witness_LargeCommandsBegin_attend :
    HeadEntry (kvRoom 0x40 1 attendDesc) 3 0 0x40 5 objD (cring 1) (compute 0x40) ∧
    Descriptor (kvRoom 0x40 1 attendDesc) objD (cring 1) (compute 0x40) attendDesc ∧
    attendDescOk attendDesc (parseAttend attendDesc) = true ∧
    readsFail (kvRoom 0x40 1 attendDesc) objD [(fld attendDesc 8 8, (parseAttend attendDesc).heads * 8),
      (nth (parseAttend attendDesc).metas 0 0, (parseAttend attendDesc).rows * 16)] = none ∧
    snapshot (kvRoom 0x40 1 attendDesc) objD (parseAttend attendDesc) 0
      ((List.range (parseAttend attendDesc).heads).map
        (fun h => peekNat (kvRoom 0x40 1 attendDesc) objD (fld attendDesc 8 8 + h * 8) 8)) none = .ok [chain1 1] ∧
    attPages (parseAttend attendDesc) 1 objD.grant = some 15 ∧ closes (parseAttend attendDesc) = true :=
  ⟨headEntry_of (c := cpl0) (by decide +kernel), descriptor_of (by decide +kernel), by decide +kernel,
    Option.isNone_iff_eq_none.mp (by decide +kernel), snap_of (by decide +kernel), by decide +kernel⟩

theorem batchBegin_of {s : State} {d : Def} {p e : List Byte} {l : List Lane}
    (h : batchDescOk s p e = true ∧ (readsFail s d [((parseBatch p).lanes, (parseBatch p).count * 64)]).isNone = true ∧
      (List.range (parseBatch p).count).map (fun i => laneOf (peek s d ((parseBatch p).lanes + i * 64) 64)) = l ∧
      (checkLanes s d (batchAtt p []).dim 0 none ((List.range (parseBatch p).count).map
        (fun i => peek s d ((parseBatch p).lanes + i * 64) 64))).isNone = true ∧ seqFault 0 [] l = none ∧
      (l.filter (fun x => x.op == 2)).length ≤ (parseBatch p).releaseCap ∧
      (attPages (batchAtt p []) 0x10 d.grant).isNone = false ∧
      number 0 (phaseTiles 1 l ++ phaseTiles 2 l ++ phaseTiles 3 l) ≠ []) :
    ∃ u, batchBegin s d p e = .ok [] u (fun x => x) ∧ ∀ c, (u c).tiles ≠ [] := by
  obtain ⟨h1, h2, h3, h4, h5, h6, h7, h8⟩ := h
  refine ⟨fun c => { c with
      lanes := l, tiles := number 0 (phaseTiles 1 l ++ phaseTiles 2 l ++ phaseTiles 3 l)
      uses := c.uses ++ batchUses p l }, ?_, fun _ => h8⟩
  unfold batchBegin
  simp only [h1, Option.isNone_iff_eq_none.mp h2, Option.isNone_iff_eq_none.mp h4, List.map_map, Function.comp_def, h3, h5,
    h7, Nat.not_lt.mpr h6, Bool.not_true, Bool.false_eq_true, if_false]

theorem witness_LargeCommandsBegin_batch :
    HeadEntry (kvRoom 0x50 0x10 batchDesc) 3 0 0x50 5 objD (cring 1) (compute 0x50) ∧
    Descriptor (kvRoom 0x50 0x10 batchDesc) objD (cring 1) (compute 0x50) batchDesc ∧
    ∃ u, batchBegin (kvRoom 0x50 0x10 batchDesc) objD batchDesc (compute 0x50) = .ok [] u (fun x => x) ∧
      ∀ c, (u c).tiles ≠ [] :=
  ⟨headEntry_of (c := cpl0) (by decide +kernel), descriptor_of (by decide +kernel),
    batchBegin_of (l := [laneOf lane1]) (by decide +kernel)⟩

def xRoom (op : Nat) (desc : List Byte) : State := posted_ objD (compute op) desc

theorem witness_LargeCommandsBegin_transforms :
    (HeadEntry (xRoom 0x20 (reduceDesc ++ reduceInputs)) 3 0 0x20 5 objD (cring 1) (compute 0x20) ∧
      Descriptor (xRoom 0x20 (reduceDesc ++ reduceInputs)) objD (cring 1) (compute 0x20) (reduceDesc ++ reduceInputs) ∧
      (parseXform (compute 0x20) (reduceDesc ++ reduceInputs)).fits objD.grant 1024 = true ∧
      (∀ i ∈ (parseXform (compute 0x20) (reduceDesc ++ reduceInputs)).inputs, (getFence objD i.fence).abandoned = false) ∧
      (parseXform (compute 0x20) (reduceDesc ++ reduceInputs)).tiles objD.grant ≠ [] ∧
      reduceFieldsOk (reduceDesc ++ reduceInputs) objD.grant.fences = true ∧
      badInput (reduceDesc ++ reduceInputs) objD.grant.fences = none) ∧
    (HeadEntry (xRoom 0x21 convertDesc) 3 0 0x21 5 objD (cring 1) (compute 0x21) ∧
      Descriptor (xRoom 0x21 convertDesc) objD (cring 1) (compute 0x21) convertDesc ∧
      (parseXform (compute 0x21) convertDesc).fits objD.grant 1024 = true ∧
      (∀ i ∈ (parseXform (compute 0x21) convertDesc).inputs, (getFence objD i.fence).abandoned = false) ∧
      (parseXform (compute 0x21) convertDesc).tiles objD.grant ≠ [] ∧
      convertFieldsOk convertDesc objD.grant.fences = true) :=
  ⟨⟨headEntry_of (c := cpl0) (by decide +kernel), descriptor_of (by decide +kernel), by decide +kernel⟩,
    ⟨headEntry_of (c := cpl0) (by decide +kernel), descriptor_of (by decide +kernel), by decide +kernel⟩⟩

/-! ### Queue pairs -/

/-- The partition with an entry at the head of the send queue, of the receive queue, or of none. -/
def sendRoom (d : Def) (e : List Byte) : State := roomWith [(0x21000, e)] d
def recvRoom (d : Def) (e : List Byte) : State := roomWith [(0x22000, e)] d
def transfer (op : Nat) : List Byte :=
  plain op (leBytes 8 0x1000 ++ leBytes 8 (if op = 0x13 then 0 else 0x2000) ++ (if op = 0x12 then leBytes 8 5 else leBytes 4 4))

theorem postReady_of {s : State} {op : Nat} {d : Def} {q : Qp} {sq : Queue} {c : CplRing} {e : List Byte}
    (h : operating s = true ∧ inSlot s 3 = some (5, d) ∧ getDef s 5 = some d ∧ headRuns d (hSend 0) sq.head = true ∧
      mfind d.qps 0 = some q ∧
      q.sq = some sq ∧ sq.state = .active ∧ sq.head ≠ sq.tail ∧ q.state = .ready ∧
      e = entryAt s (boundFn d) sq.base sq.log2 sq.head ∧ eOp e = op ∧ sendFault s d e = none ∧
      (fMode (eWaitFence e) ≠ 1 ∨ ((getFence d (fIndex (eWaitFence e))).abandoned = false ∧
        reaches (getFence d (fIndex (eWaitFence e))).value (eWaitValue e) = true)) ∧ psnsLeft q = true ∧
      mfind d.cpls sq.cpl = some c ∧ 1 ≤ cplRoom c) : PostReady s 3 0 op 5 d q sq e :=
  let ⟨h1, h2, h3, h4, h5, h6, h7, h8, h9, h10, h11, h12, h13, h14, h15⟩ := h
  ⟨h1, h2, h3, h4, h5, h6, h7, h8, h9, h10, h11, h12, h13, ⟨c, h15⟩, h14⟩

def sendD : Def := obj 0 1 .ready
def recvD (st : QpState) : Def :=
  { obj 0 0 st with qps := [(0, { qp0 st 1 with rq := some (queue 0x22000 1) }), (1, Qp.fresh 71)] }

theorem witness_PostedEntries :
    PostReady (sendRoom sendD (transfer 0x10)) 3 0 0x10 5 sendD (qp0 .ready 1) (queue 0x21000 1) (transfer 0x10) ∧
    PostReady (sendRoom sendD (transfer 0x11)) 3 0 0x11 5 sendD (qp0 .ready 1) (queue 0x21000 1) (transfer 0x11) ∧
    PostReady (sendRoom sendD (transfer 0x12)) 3 0 0x12 5 sendD (qp0 .ready 1) (queue 0x21000 1) (transfer 0x12) ∧
    PostReady (sendRoom sendD (transfer 0x13)) 3 0 0x13 5 sendD (qp0 .ready 1) (queue 0x21000 1) (transfer 0x13) ∧
    readVa (sendRoom sendD (transfer 0x10)) sendD 0x1000 4 = .ok [0, 0, 0, 0] ∧
    (∀ x, x = recvRoom (recvD .ready) (transfer 0x13) → operating x = true ∧ inSlot x 3 = some (5, recvD .ready) ∧
      headRuns (recvD .ready) (hRecv 0) (queue 0x22000 1).head = true ∧
      transfer 0x13 = entryAt x (boundFn (recvD .ready)) (queue 0x22000 1).base (queue 0x22000 1).log2 (queue 0x22000 1).head ∧
      recvFault x (recvD .ready) (transfer 0x13) = none ∧ mfind (recvD .ready).cpls 0 = some cpl0 ∧ 1 ≤ cplRoom cpl0) ∧
    (headRuns (obj 0 1 .error) (hSend 0) (queue 0x21000 1).head = true ∧
      inSlot (sendRoom (obj 0 1 .error) (transfer 0x10)) 3 = some (5, obj 0 1 .error) ∧
      (qp0 .error 1).sq = some (queue 0x21000 1) ∧
      eOp (entryAt (sendRoom (obj 0 1 .error) (transfer 0x10)) (boundFn (obj 0 1 .error)) 0x21000 6 0) = 0x10) :=
  ⟨postReady_of (c := cpl0) (by decide +kernel), postReady_of (c := cpl0) (by decide +kernel),
    postReady_of (c := cpl0) (by decide +kernel), postReady_of (c := cpl0) (by decide +kernel), by decide +kernel,
    fun x h => by subst h; decide +kernel, by decide +kernel⟩

/-- A message of one packet, sent or not, and the packet sent. -/
def msg1 (op released : Nat) : Msg :=
  { op := op, pos := some 0, entry := transfer op, firstPsn := 100, pkts := 1, len := 4, data := [1, 2, 3, 4]
    remoteVa := 0x2000, reqPsn := 0, sendSeq := 0, released := released, answered := false, result := 0, failed := none }
def sent1 (tries : Nat) : Sent := { psn := 100, path := 0, tries := tries, at_ := 0, bytes := 4, idx := 0, firstPsn := 100 }
def withQp (q : Qp) : Def := { obj 0 0 .ready with qps := [(0, q), (1, Qp.fresh 71)] }
def ready0 : Qp := qp0 .ready 0
def toSend : Qp := { ready0 with msgs := [msg1 0x10 0], sndNxt := 101 }
def flying (op tries : Nat) : Qp :=
  { ready0 with msgs := [msg1 op 1], sndNxt := 101, sent := [sent1 tries], cong := { ready0.cong with timer := some 0 } }

theorem witness_BurstReleased :
    (operating (room (withQp toSend)) = true ∧ inSlot (room (withQp toSend)) 3 = some (5, withQp toSend) ∧
      getDef (room (withQp toSend)) 5 = some (withQp toSend) ∧ toSend.state = .ready ∧ (withQp toSend).state ≠ .scrubbing ∧
      unreleased toSend = some (msg1 0x10 0) ∧ burstSize toSend (now (room (withQp toSend))) (msg1 0x10 0) = some 1 ∧
      burstPermitted (takeReady (cnPort conn1) (BitVec.allOnes 256) (room (withQp toSend))) (withQp toSend) 3 toSend
        (msg1 0x10 0) = true) ∧
    (burstOf (room (withQp toSend)) toSend = some (msg1 0x10 0, 1) ∧
      burstPermitted (takeReady (cnPort conn1) 0 (room (withQp toSend))) (withQp toSend) 3 toSend (msg1 0x10 0) = false ∧
      burstOf (room (withQp toSend)) ready0 = none ∧ (room (withQp toSend)).car.heldFrames = []) ∧
    unreleased ready0 = none ∧ (qp0 .reset 0).state ≠ .ready := by decide +kernel

def inRoom (q : Qp) : Prop :=
  operating (room (withQp q)) = true ∧ inSlot (room (withQp q)) 3 = some (5, withQp q) ∧
  getDef (room (withQp q)) 5 = some (withQp q) ∧ mfind (withQp q).qps 0 = some q ∧
  (∀ p ∈ (withQp q).rings, p.2.state = .active ∧ p.2.cur = none ∧ p.2.nxt = none ∧ p.2.fall = none) ∧
  (room (withQp q)).frags = []

theorem witness_TransportTimers :
    (inRoom { ready0 with ack := { ready0.ack with oldest := some 0 } } ∧ inRoom ready0 ∧ ready0.ack.oldest = none) ∧
    (∀ n ∈ [6, 7], inRoom (flying 0x10 n) ∧ heldByRnr (flying 0x10 n) 100 = false ∧
      (flying 0x10 n).msgs.find? (fun m => m.firstPsn == 100) = some (msg1 0x10 1)) ∧
    (inRoom { flying 0x13 0 with rnrFrom := some 100 } ∧ 100 ≤ (sent1 0).psn) ∧
    (inRoom { flying 0x13 0 with rnrs := [(100, 0)] } ∧ ready0.rnrs = []) ∧
    (room (withQp ready0)).xpt.waitingFrames = [] ∧ (getSlot (room (withQp ready0)) 3).windows.contains 70 = false ∧
    (∃ s : State, inSlot s 3 = some (5, withQp ready0) ∧ (getSlot s 3).windows.contains ready0.phys = true) := by
  refine ⟨⟨by unfold inRoom; decide +kernel, by unfold inRoom; decide +kernel, rfl⟩, ?_,
    ⟨by unfold inRoom; decide +kernel, by decide⟩, ⟨by unfold inRoom; decide +kernel, rfl⟩, by decide +kernel,
    by decide +kernel, ⟨setSlot (room (withQp ready0)) 3 (fun x => { x with windows := [70] }), by decide +kernel⟩⟩
  unfold inRoom
  decide +kernel

/-! ### Frames -/

theorem leBytes_two (n : Nat) (h : n < 65536) : beNat (beBytes 2 n) = n := by
  simp only [beNat, beBytes, leBytes, List.reverse_reverse, leNat, BitVec.toNat_ofNat]
  omega

theorem gcmCrypt_twice (k n : List Byte) : ∀ (l : List Byte) (i : Nat), gcmCrypt k n i (gcmCrypt k n i l) = l
  | [], _ => rfl
  | b :: l, i => by
    simp only [gcmCrypt, gcmCrypt_twice k n l (i + 1), BitVec.xor_assoc, BitVec.xor_self, BitVec.xor_zero]

/-- What is sealed opens. -/
theorem gcmOpen_seal (k n a l : List Byte) : gcmOpen k n a (gcmSeal k n a l).1 (gcmSeal k n a l).2 = some l := by
  unfold gcmOpen gcmSeal
  rw [if_pos rfl, gcmCrypt_twice]

theorem gcmOpen_empty (k n a : List Byte) : gcmOpen k n a [] (gcmSeal k n a []).2 = some [] := gcmOpen_seal k n a []

def node1 : Nat := (Config.peerNode conn1).toNat

/-- A frame of the peer for QP number 70, with nothing protected yet. -/
def bare (op psn : Nat) (mid : List Byte) (len n : Nat) : Frame :=
  { port := 0, rxErr := false, rxTrunc := false, ipExtra := false, srcIp := 0x0A000002, ecn := 0, udpPort := 51804
    udpLen := 76 + n
    hdr := [0x10, BitVec.ofNat 8 op, 0, 0] ++ beBytes 4 psn ++ [0, 0, 70, 0, 0, 0, 99, 0] ++ beBytes 2 node1 ++ beBytes 2 7 ++
      beBytes 4 0 ++ mid ++ beBytes 4 0 ++ beBytes 4 len ++ beBytes 8 0
    body := [], tag := [], check := 0 }
def withCheck (f : Frame) (c : BitVec 32) : Frame := { f with check := c }
def signed (f : Frame) : Frame := withCheck f (crc32c (fDst f * 2 ^ 32 + fEpsn f % 2 ^ 32) (f.hdr ++ f.body ++ f.tag))
def key1 : List Byte := List.replicate 32 1
/-- A data packet with its payload sealed, and a control packet with its body in the clear. -/
def dataFrame (f : Frame) (payload : List Byte) : Frame :=
  let c := gcmSeal key1 (maelicNonce (fNode f) (fSrcQpn f) false (fTry f) 200) f.hdr payload
  signed { f with body := c.1, tag := c.2 }
def controlFrame (f : Frame) (p : Nat) (body : List Byte) : Frame :=
  signed { f with
    body := body, tag := (gcmSeal key1 (maelicNonce (fNode f) (fSrcQpn f) true (fTry f) p) (f.hdr ++ body) []).2 }

theorem maelicCheck_withCheck (f : Frame) (c : BitVec 32) :
    maelicCheck (fDst (withCheck f c)) (fEpsn (withCheck f c))
      ((withCheck f c).hdr ++ (withCheck f c).body ++ (withCheck f c).tag) =
    maelicCheck (fDst f) (fEpsn f) (f.hdr ++ f.body ++ f.tag) := rfl
theorem withCheck_check (f : Frame) (c : BitVec 32) : (withCheck f c).check = c := rfl
theorem signed_check (f : Frame) : maelicCheck (fDst (signed f)) (fEpsn (signed f))
    ((signed f).hdr ++ (signed f).body ++ (signed f).tag) = beBytes 4 (signed f).check.toNat := by
  unfold signed
  rw [maelicCheck_withCheck, withCheck_check, maelicCheck]

theorem bare_node (op psn : Nat) (mid : List Byte) (len n : Nat) : fNode (bare op psn mid len n) = node1 :=
  leBytes_two node1 (Config.peerNode conn1).isLt

/-- The partition with a QP whose context is cached. -/
def cached (s : State) : State := { s with slots := [(3, { Slot.reset with qpCached := [0] })] }
def netRoom (q : Qp) : State := cached (room (withQp q))

theorem framePasses_of {s : State} {f : Frame} {d : Def} {q : Qp} (hn : fNode f = node1) (hc : maelicCheck (fDst f)
    (fEpsn f) (f.hdr ++ f.body ++ f.tag) = beBytes 4 f.check.toNat)
    (h : operating s = true ∧ s.crcBad.contains (0x100 + (2 * f.port + 1)) = false ∧
      f.rxErr = false ∧ f.rxTrunc = false ∧ f.udpPort = 51804 ∧
      qpByNumber s (fDst f) = some (3, 5, d, 0, q) ∧ getDef s 5 = some d ∧ mfind d.qps 0 = some q ∧ d.slot = some 3 ∧
      d.state ≠ .scrubbing ∧ q.state = .ready ∧ (getSlot s 3).qpCached.contains 0 = true ∧ q.conn = conn1 ∧
      packetFormOk q.conn f = true ∧ f.srcIp.toNat = peerIp q.conn ∧ fSrcQpn f = cnPeerQpn q.conn ∧
      fKeyId f = (linkKeyOf d q).1) : FramePasses s f 3 5 0 d q :=
  let ⟨h1, g, h2, h3, h4, h5, h6, h7, h8, h9, h10, h11, h12, h13, h14, h15, h16⟩ := h
  ⟨h1, g, h2, h3, h4, h5, h6, h7, h8, h9, h10, h11, hc, h13, h14, h15, by rw [hn, h12]; rfl, h16⟩

theorem nextPacket_of {s : State} {f : Frame} {op : Nat} {d : Def} {q : Qp} {payload : List Byte} (hn : fNode f = node1)
    (h : operating s = true ∧ s.crcBad.contains (0x100 + (2 * (dataFrame f payload).port + 1)) = false ∧
      (dataFrame f payload).rxErr = false ∧ (dataFrame f payload).rxTrunc = false ∧
      (dataFrame f payload).udpPort = 51804 ∧ qpByNumber s (fDst (dataFrame f payload)) = some (3, 5, d, 0, q) ∧
      getDef s 5 = some d ∧ mfind d.qps 0 = some q ∧ d.slot = some 3 ∧ d.state ≠ .scrubbing ∧ q.state = .ready ∧
      (getSlot s 3).qpCached.contains 0 = true ∧ q.conn = conn1 ∧ packetFormOk q.conn (dataFrame f payload) = true ∧
      (dataFrame f payload).srcIp.toNat = peerIp q.conn ∧ fSrcQpn (dataFrame f payload) = cnPeerQpn q.conn ∧
      fKeyId (dataFrame f payload) = (linkKeyOf d q).1)
    (g : fOp (dataFrame f payload) = op ∧ fEpsn (dataFrame f payload) = q.rcvNxt % 2 ^ 32 ∧ q.rcvNxt = 200 ∧ q.got = [] ∧
      q.inbound = [] ∧ (linkKeyOf d q).2 = key1 ∧ atomicOk (dataFrame f payload) payload = true) :
    NextPacket s (dataFrame f payload) 3 5 0 op d q payload := by
  obtain ⟨g1, g2, g3, g4, g5, g6, g7⟩ := g
  refine ⟨framePasses_of hn (signed_check _) h, g1, g2, by rw [g3]; decide, g4, g5, ?_, g7⟩
  rw [g6, g3]
  exact gcmOpen_seal _ _ _ _

def zeros8 : List Byte := List.replicate 8 0
/-- A request to address 0x1000, and one to an address outside the window. -/
def reqFrame (op va n : Nat) : Frame := bare op 200 (beBytes 8 va) (if op = 0x12 then 8 else 4) n
def swapBody : List Byte := [0, 0, 0, 0, 0, 0, 0, 0] ++ beBytes 8 5 ++ zeros8

/-- The partition with a fragment of the QP in service. -/
def serving1 : Def :=
  { withQp ready0 with
    serving := [{ qp := 0, firstPsn := 199, body := [], chain := 0, ents := [], recs := [], parts := [], tile := none }] }

theorem witness_InboundRequests :
    NextPacket (netRoom ready0) (dataFrame (reqFrame 0x10 0x1000 4) [1, 2, 3, 4]) 3 5 0 0x10 (withQp ready0) ready0
      [1, 2, 3, 4] ∧
    (remoteOk (netRoom ready0) (withQp ready0) ready0 1 0x1000 4 false true = true ∧
      remoteOk (netRoom ready0) (withQp ready0) ready0 1 0x1FFFD 4 false true = false) ∧
    NextPacket (netRoom ready0) (dataFrame (reqFrame 0x10 0x1FFFD 4) [1, 2, 3, 4]) 3 5 0 0x10 (withQp ready0) ready0
      [1, 2, 3, 4] ∧
    (fVa (dataFrame (reqFrame 0x10 0x1FFFD 4) [1, 2, 3, 4]) = 0x1FFFD ∧
      fMsgLen (dataFrame (reqFrame 0x10 0x1FFFD 4) [1, 2, 3, 4]) = 4) ∧
    NextPacket (netRoom ready0) (dataFrame (reqFrame 0x11 0x1000 0) []) 3 5 0 0x11 (withQp ready0) ready0 [] ∧
    (remoteOk (netRoom ready0) (withQp ready0) ready0 0 0x1000 4 true false = true ∧
      readVa (netRoom ready0) (withQp ready0) 0x1000 4 = .ok [0, 0, 0, 0] ∧ psnsLeft ready0 = true ∧
      (withQp ready0).serving = []) ∧
    NextPacket (cached (room serving1)) (dataFrame (reqFrame 0x11 0x1000 0) []) 3 5 0 0x11 serving1 ready0 [] ∧
    (∃ x ∈ serving1.serving, x.qp = 0) ∧
    NextPacket (netRoom ready0) (dataFrame (reqFrame 0x12 0x1000 24) swapBody) 3 5 0 0x12 (withQp ready0) ready0 swapBody ∧
    (remoteOk (netRoom ready0) (withQp ready0) ready0 2 0x1000 8 true true = true ∧
      readVa (netRoom ready0) (withQp ready0) 0x1000 8 = .ok zeros8 ∧
      fVa (dataFrame (reqFrame 0x12 0x1000 24) swapBody) % 8 = 0) :=
  ⟨nextPacket_of (bare_node ..) (by decide +kernel) (by decide +kernel), by decide +kernel,
    nextPacket_of (bare_node ..) (by decide +kernel) (by decide +kernel), by decide +kernel,
    nextPacket_of (bare_node ..) (by decide +kernel) (by decide +kernel), by decide +kernel,
    nextPacket_of (bare_node ..) (by decide +kernel) (by decide +kernel), by decide +kernel,
    nextPacket_of (bare_node ..) (by decide +kernel) (by decide +kernel), by decide +kernel⟩

/-- A receive entry of 4 bytes at 0x1000, admitted. -/
def recv1 : Recv := { pos := 0, entry := plain 0x13 (leBytes 8 0x1000 ++ zeros8 ++ leBytes 4 4), fin := none }
def oneRecv : Qp := { ready0 with recvs := [recv1], recvNext := 1, rq := some (queue 0x22000 0) }
def fragBody : List Byte := List.replicate 64 0
/-- A request for one row against the chain. -/
def rowBody : List Byte :=
  zeros8 ++ [0, 1, 2, 0] ++ beBytes 2 64 ++ [0, 0] ++ beBytes 8 0x28400 ++ beBytes 4 0 ++ beBytes 4 1 ++ beBytes 4 0x3F800000 ++
    beBytes 4 0 ++ List.replicate 24 0 ++ List.replicate 132 0
def rowRoom : State := cached (roomWith [(0x28400, objBytes (chain1 1)), (0x28440, listBytes (chain1 1))] (withQp ready0))

theorem fst_eq {x : Nat × List Byte} {a : Nat} (h : x.1 = a) : ∃ l, x = (a, l) := ⟨x.2, by rw [← h]⟩
theorem readChain_of {s : State} {d : Def} {va : Nat} {c : Chain}
    (h : (match readChain s d va with | .ok k => k == c | _ => false) = true) : readChain s d va = .ok c := by
  split at h <;> simp_all

theorem witness_InboundMessages :
    (NextPacket (netRoom ready0) (dataFrame (bare 0x13 200 zeros8 4 4) [1, 2, 3, 4]) 3 5 0 0x13 (withQp ready0) ready0
      [1, 2, 3, 4] ∧ recvPlace ready0 (fSendSeq (dataFrame (bare 0x13 200 zeros8 4 4) [1, 2, 3, 4])) = none ∧
      queueLeft ready0.rq = 0) ∧
    NextPacket (netRoom oneRecv) (dataFrame (bare 0x13 200 zeros8 4 4) [1, 2, 3, 4]) 3 5 0 0x13 (withQp oneRecv) oneRecv
      [1, 2, 3, 4] ∧
    (recvPlace oneRecv (fSendSeq (dataFrame (bare 0x13 200 zeros8 4 4) [1, 2, 3, 4])) = some 0 ∧
      fIndex' (dataFrame (bare 0x13 200 zeros8 4 4) [1, 2, 3, 4]) = 0 ∧
      fMsgLen (dataFrame (bare 0x13 200 zeros8 4 4) [1, 2, 3, 4]) = 4 ∧ 4 ≤ fullPayload conn1 ∧
      fld recv1.entry 32 4 = 4 ∧ firstDenied (netRoom oneRecv) (withQp oneRecv) (fld recv1.entry 16 6) 4 true = none ∧
      mfind (withQp oneRecv).cpls 0 = some cpl0 ∧ (netRoom oneRecv).frags = []) ∧
    NextPacket (netRoom ready0) (dataFrame (bare 0x14 200 zeros8 64 64) fragBody) 3 5 0 0x14 (withQp ready0) ready0
      fragBody ∧
    (fIndex' (dataFrame (bare 0x14 200 zeros8 64 64) fragBody) = 0 ∧
      fMsgLen (dataFrame (bare 0x14 200 zeros8 64 64) fragBody) ≤ fullPayload ready0.conn ∧
      serveBody (netRoom ready0) (withQp ready0) fragBody = (0x16, []) ∧ psnsLeft ready0 = true ∧
      (withQp ready0).serving = [] ∧ (withQp ready0).state = .running ∧ bit (cnAccess ready0.conn) 3 = true) ∧
    NextPacket rowRoom (dataFrame (bare 0x14 200 zeros8 196 196) rowBody) 3 5 0 0x14 (withQp ready0) ready0 rowBody ∧
    (∃ recs, serveBody rowRoom (withQp ready0) rowBody = (0, recs)) ∧
    readChain rowRoom (withQp ready0) (fqChain rowBody) = .ok (chain1 1) ∧
    (servedParts (withQp ready0) rowBody (chain1 1)).isSome = true :=
  ⟨⟨nextPacket_of (bare_node ..) (by decide +kernel) (by decide +kernel), by decide +kernel⟩,
    nextPacket_of (bare_node ..) (by decide +kernel) (by decide +kernel), by decide +kernel,
    nextPacket_of (bare_node ..) (by decide +kernel) (by decide +kernel), by decide +kernel,
    nextPacket_of (bare_node ..) (by decide +kernel) (by decide +kernel), fst_eq (by decide +kernel),
    readChain_of (by decide +kernel), by decide +kernel⟩

/-- A QP that waits for the response to a request. -/
def asked (op : Nat) : Qp := flying op 0
def asked0 : Qp :=
  { asked 0x12 with msgs := [{ msg1 0x12 1 with entry := plain 0x12 (leBytes 8 0 ++ leBytes 8 0x2000) }] }

/-- An ATTEND of one remote entry in execution, and its fragment. -/
def attCmd : Cmd :=
  { Cmd.admitHead 0 (compute 0x40) attendDesc with
    began := true, chains := [chain1 1], tiles := [{ Tile.fresh 0 (.attend 0 0 1) 0 0 with state := .remoteWait }] }
def frag1 : Frag :=
  { slot := 3, ring := 0, pos := 0, head := 0, entry := 0, qp := 0, cls := 0, epoch := 0, fragEpoch := 0, loadGen := 0
    issuedAt := 0, sentAt := 0, retryAt := none, body := [] }
def attRing : CmdRing := { cring 1 with head := 1, jobOpen := true, jobStarted := true, cur := some attCmd }
def attD : Def := { withQp ready0 with rings := [(0, attRing)] }
def attRoom : State :=
  { cached (roomWith [(0x28400, objBytes (chain1 1)), (0x28440, listBytes (chain1 1))] attD) with frags := [(0, frag1)] }
/-- A RETRY for the fragment. -/
def retryBody : List Byte := [0, 0, 0, 0, 0, 0, 0, 0, 0, 1, 0x80] ++ List.replicate 21 0

theorem witness_InboundResponses :
    NextPacket (netRoom (asked 0x11)) (dataFrame (bare 0x21 200 (beBytes 4 0 ++ beBytes 4 100) 4 4) [1, 2, 3, 4]) 3 5 0 0x21
      (withQp (asked 0x11)) (asked 0x11) [1, 2, 3, 4] ∧
    (answered (asked 0x11) 0x11 100 = some (msg1 0x11 1) ∧
      firstDenied (netRoom (asked 0x11)) (withQp (asked 0x11)) (fld (msg1 0x11 1).entry 16 6) 4 true = none ∧
      (netRoom (asked 0x11)).frags = []) ∧
    NextPacket (netRoom (asked 0x12)) (dataFrame (bare 0x22 200 (beBytes 4 0 ++ beBytes 4 100) 8 8) zeros8) 3 5 0 0x22
      (withQp (asked 0x12)) (asked 0x12) zeros8 ∧
    (answered (asked 0x12) 0x12 100 = some (msg1 0x12 1) ∧ fld (msg1 0x12 1).entry 16 6 ≠ 0 ∧
      firstDenied (netRoom (asked 0x12)) (withQp (asked 0x12)) (fld (msg1 0x12 1).entry 16 6) 8 true = none) ∧
    NextPacket (netRoom asked0) (dataFrame (bare 0x22 200 (beBytes 4 0 ++ beBytes 4 100) 8 8) zeros8) 3 5 0 0x22
      (withQp asked0) asked0 zeros8 ∧
    (∀ m, answered asked0 0x12 100 = some m → fld m.entry 16 6 = 0) ∧ (answered asked0 0x12 100).isSome = true ∧
    NextPacket (netRoom ready0) (dataFrame (bare 0x24 200 zeros8 32 32) retryBody) 3 5 0 0x24 (withQp ready0) ready0
      retryBody ∧
    matchReply (netRoom ready0) 5 (withQp ready0) 3 0 retryBody = none ∧
    NextPacket attRoom (dataFrame (bare 0x24 200 zeros8 32 32) retryBody) 3 5 0 0x24 attD ready0 retryBody ∧
    matchReply attRoom 5 attD 3 0 retryBody = some (frag1, attCmd) ∧ fldBe retryBody 10 1 = 0x80 :=
  ⟨nextPacket_of (bare_node ..) (by decide +kernel) (by decide +kernel), by decide +kernel,
    nextPacket_of (bare_node ..) (by decide +kernel) (by decide +kernel), by decide +kernel,
    nextPacket_of (bare_node ..) (by decide +kernel) (by decide +kernel), by
      intro m h; cases h; decide +kernel, by decide +kernel,
    nextPacket_of (bare_node ..) (by decide +kernel) (by decide +kernel), by decide +kernel,
    nextPacket_of (bare_node ..) (by decide +kernel) (by decide +kernel), by decide +kernel⟩

/-- An ACK up to PSN 101, with control count n. -/
def ackBody : List Byte := beBytes 4 101 ++ beBytes 4 101 ++ List.replicate 56 0
def ackFrame (p : Nat) : Frame := controlFrame (bare 0x30 p zeros8 64 64) p ackBody
def abortFrame : Frame := controlFrame (bare 0x31 1 zeros8 8 8) 1 (1 :: List.replicate 7 0)

theorem controlFrame_opens (f : Frame) (p : Nat) (b : List Byte) : gcmOpen key1
    (maelicNonce (fNode (controlFrame f p b)) (fSrcQpn (controlFrame f p b)) true (fTry (controlFrame f p b)) p)
    ((controlFrame f p b).hdr ++ (controlFrame f p b).body) [] (controlFrame f p b).tag = some [] :=
  gcmOpen_empty _ _ _

theorem witness_ControlPackets :
    (FramePasses (netRoom (flying 0x10 0)) (ackFrame 1) 3 5 0 (withQp (flying 0x10 0)) (flying 0x10 0) ∧
      extendPsn (flying 0x10 0).ctlSeen (fEpsn (ackFrame 1)) = 1 ∧ (flying 0x10 0).ctlSeen < 1 ∧ fOp (ackFrame 1) = 0x30 ∧
      akFlags (ackFrame 1).body = 0 ∧ lostBy (flying 0x10 0) (akCovers (flying 0x10 0) (ackFrame 1).body) = [] ∧
      psnsLeft (flying 0x10 0) = true ∧ (∀ m ∈ (flying 0x10 0).msgs, m.firstPsn + m.released + 1024 < 2 ^ 48) ∧
      (linkKeyOf (withQp (flying 0x10 0)) (flying 0x10 0)).2 = key1) ∧
    (FramePasses (netRoom (flying 0x10 0)) abortFrame 3 5 0 (withQp (flying 0x10 0)) (flying 0x10 0) ∧
      extendPsn (flying 0x10 0).ctlSeen (fEpsn abortFrame) = 1 ∧ fOp abortFrame = 0x31) ∧
    (FramePasses (netRoom { flying 0x10 0 with ctlSeen := 5 }) (ackFrame 5) 3 5 0 (withQp { flying 0x10 0 with ctlSeen := 5 })
        { flying 0x10 0 with ctlSeen := 5 } ∧
      extendPsn 5 (fEpsn (ackFrame 5)) = 5 ∧ fOp (ackFrame 5) = 0x30) ∧
    (ackFrame 1).udpPort = 51804 ∧ ({ bare 0x10 0 zeros8 4 4 with udpPort := 1 } : Frame).udpPort ≠ 51804 ∧
    (qpByNumber up (fDst (bare 0x10 0 zeros8 4 4)) = none ∧ fOp (bare 0x10 0 zeros8 4 4) = 0x10) :=
  ⟨⟨framePasses_of (bare_node 0x30 1 zeros8 64 64) (signed_check _) (by decide +kernel), by decide +kernel⟩,
    ⟨framePasses_of (bare_node 0x31 1 zeros8 8 8) (signed_check _) (by decide +kernel), by decide +kernel⟩,
    ⟨framePasses_of (bare_node 0x30 5 zeros8 64 64) (signed_check _) (by decide +kernel), by decide +kernel⟩,
    by decide +kernel⟩

theorem witness_DroppedFrames :
    operating up = true ∧ qpByNumber up (fDst (bare 0x10 0 zeros8 4 4)) = none ∧
    qpByNumber (netRoom ready0) (fDst (bare 0x10 0 zeros8 4 4)) = some (3, 5, withQp ready0, 0, ready0) := by decide +kernel

/-! ### Tiles -/

/-- The ring with a command that executes. -/
def execRing (c : Cmd) : CmdRing := { cring 1 with head := 1, jobOpen := true, jobStarted := true, cur := some c }
def execD (c : Cmd) : Def := { obj 0 0 .ready with rings := [(0, execRing c)] }
def execRoom (c : Cmd) : State :=
  roomWith [(0x28000, [1, 2, 3, 4]), (0x28400, objBytes (chain1 1)), (0x28440, listBytes (chain1 1))] (execD c)
def begun (op : Nat) (desc : List Byte) (tiles : List Tile) : Cmd :=
  { Cmd.admitHead 0 (if op = 0x60 then runEntry else compute op) desc with began := true, tiles := tiles }
def gemmCmd (st : TileState) : Cmd := begun 0x30 gemmDesc [tile1 st]
def routineTile (i : Nat) (st : TileState) (l : Option Lantern) : Tile :=
  { Tile.fresh i (.routine i) 131072 0 with state := st, lane := 8, lantern := l }
def runCmd (st : TileState) (l : Option Lantern) : Cmd := begun 0x60 [] [routineTile 0 st l, routineTile 1 .waiting none]

theorem noRequests (c : Cmd) : NoRequests (execD c) := by
  have h : ∀ p ∈ (obj 0 0 .ready).qps, p.2.inbound = [] := by decide +kernel
  exact ⟨rfl, h⟩

theorem oneCommand_of {c : Cmd}
    (h : operating (execRoom c) = true ∧ c.began = true ∧ c.failed = none ∧ c.listed = false ∧
      isXform c = false) : OneCommand (execRoom c) 3 0 5 (execD c) (execRing c) c :=
  let ⟨h1, h2, h3, h4, h5⟩ := h
  ⟨h1, rfl, rfl, rfl, rfl, rfl, rfl, rfl, rfl, rfl, h2, h3, h4, h5, noRequests c⟩

theorem noFragments (c : Cmd) : NoFragments (execRoom c) 3 := by
  intro f h
  cases h

/-- The same with lantern 0 of dome 0 granted to the slot. -/
def laneRoom (c : Cmd) : State := { execRoom c with slots := [(3, { Slot.reset with lanes := [0] })] }
theorem oneCommand_lane {c : Cmd} (h : OneCommand (execRoom c) 3 0 5 (execD c) (execRing c) c) :
    OneCommand (laneRoom c) 3 0 5 (execD c) (execRing c) c := h

/-- A fragment in service with a tile or two to run, one of them running or none. -/
def servedTile1 : Tile := { Tile.fresh 0 (.attend 0 0 1) 65536 7 with state := .issued }
def inService (n : Nat) (x : Option Tile) : Serving :=
  { qp := 0, firstPsn := 199, body := List.replicate 64 0, chain := 0x28400, ents := [], recs := [1]
    parts := List.replicate n (.attend 0 0 1, 65536, 7), tile := x }
def servesD (n : Nat) (x : Option Tile) : Def := { obj 0 0 .ready with serving := [inService n x] }

theorem witness_TileIssued :
    OneCommand (execRoom (gemmCmd .waiting)) 3 0 5 (execD (gemmCmd .waiting)) (execRing (gemmCmd .waiting))
      (gemmCmd .waiting) ∧
    ((execRoom (gemmCmd .waiting)).domes.fenced.getLsbD 0 = false ∧ laneBusy (execRoom (gemmCmd .waiting)) 0 7 = false ∧
      bit (execD (gemmCmd .waiting)).grant.domeMask 0 = true ∧ (getSlot (execRoom (gemmCmd .waiting)) 3).held = false ∧
      0 < share12 (execRoom (gemmCmd .waiting)) 3 0 ∧ ownerNow (execRoom (gemmCmd .waiting)) 11 ≠ ownerEmpty ∧
      nextTile (execRoom (gemmCmd .waiting)) (execD (gemmCmd .waiting)) 0 (decide (8 ≤ 7)) (execRing (gemmCmd .waiting)) =
        some (gemmCmd .waiting, tile1 .waiting) ∧ isRoutine (tile1 .waiting).kind = false) ∧
    OneCommand (laneRoom (runCmd .waiting none)) 3 0 5 (execD (runCmd .waiting none)) (execRing (runCmd .waiting none))
      (runCmd .waiting none) ∧
    (laneBusy (laneRoom (runCmd .waiting none)) 0 8 = false ∧
      (getSlot (laneRoom (runCmd .waiting none)) 3).lanes.contains (8 * 0 + (8 - 8)) = true ∧
      0 < share12 (laneRoom (runCmd .waiting none)) 3 0 ∧ ownerNow (laneRoom (runCmd .waiting none)) 11 ≠ ownerEmpty ∧
      nextTile (laneRoom (runCmd .waiting none)) (execD (runCmd .waiting none)) 0 (decide (8 ≤ 8))
          (execRing (runCmd .waiting none)) =
        some (runCmd .waiting none, routineTile 0 .waiting none) ∧
      (routineLoad (laneRoom (runCmd .waiting none)) (execD (runCmd .waiting none)) runEntry 0).1.isNone = true) ∧
    OneCommand (execRoom (gemmCmd .remoteWait)) 3 0 5 (execD (gemmCmd .remoteWait)) (execRing (gemmCmd .remoteWait))
      (gemmCmd .remoteWait) ∧
    ((∃ x ∈ (gemmCmd .remoteWait).tiles, x.state ≠ .ended) ∧
      (nextTile (execRoom (gemmCmd .remoteWait)) (execD (gemmCmd .remoteWait)) 0 false
        (execRing (gemmCmd .remoteWait))).isNone = true) ∧
    laneBusy (execRoom (gemmCmd .issued)) 0 0 = true ∧
    (operating (room (servesD 1 none)) = true ∧ (room (servesD 1 none)).defs = [(5, servesD 1 none)] ∧
      (∀ p ∈ (servesD 1 none).rings, p.2.state = .active ∧ p.2.cur = none ∧ p.2.nxt = none ∧ p.2.fall = none ∧
        p.2.head = p.2.tail) ∧ (room (servesD 1 none)).frags = [] ∧
      (room (servesD 1 none)).domes.fenced.getLsbD 0 = false ∧ laneBusy (room (servesD 1 none)) 0 7 = false ∧
      bit (servesD 1 none).grant.domeMask 0 = true ∧ (getSlot (room (servesD 1 none)) 3).held = false ∧
      0 < share12 (room (servesD 1 none)) 3 0 ∧ ownerNow (room (servesD 1 none)) 11 ≠ ownerEmpty ∧
      servingTile (inService 1 none) = some { servedTile1 with state := .waiting } ∧
      drumHeld (servesD 1 none) 0 + servedTile1.drum ≤ drumOn (servesD 1 none).grant 0) :=
  ⟨oneCommand_of (by decide +kernel), by decide +kernel, oneCommand_lane (oneCommand_of (by decide +kernel)),
    by decide +kernel, oneCommand_of (by decide +kernel), by decide +kernel, by decide +kernel, by decide +kernel⟩

/-- A lantern with a window of 4 KiB at 0x1000, with or without a result. -/
def lantern1 (r : Option Word) : Lantern :=
  { mode := .user, resv := none, x := List.replicate 32 0, f := List.replicate 32 0, pc := 0, fcsr := 0, pmp := []
    mem := cellsAt [(0x24000, leBytes 8 0x1000 ++ leBytes 8 0x1000)]
    staged := [{ kind := 0, addr := 0x1000, data := zeros8 }], stagedBytes := 8, clocks := 0, crcU := CrcCtx.reset
    rd := 0, result := r }
/-- A chain whose one entry is remote. -/
def farChain : Chain :=
  { chain1 1 with ents := [{ addr := 0, qp := 0, first := 0, count := 1, remote := true, fmt := 1, skip := 0 }] }
def attTile (st : TileState) (drum : Nat) : Tile := { Tile.fresh 0 (.attend 0 0 1) drum 0 with state := st }
def attCmd1 (ch : Chain) (st : TileState) (drum : Nat) : Cmd :=
  { begun 0x40 attendDesc [attTile st drum] with chains := [ch] }
def pend1 : Pend :=
  { source := 0, pos := 0, status := 0, opcode := 1, result := 0, detail := 0, bellAt := 0, entry := some (plain 1 [])
    base := 0x20000, log2 := 6, held := false }
def cplD : Def := { obj 0 0 .ready with cpls := [(0, { cpl0 with waiting := [pend1] })] }

theorem witness_TileEndsAndCompletions :
    OneCommand (execRoom (runCmd .issued (some (lantern1 (some 1))))) 3 0 5 (execD (runCmd .issued (some (lantern1 (some 1)))))
      (execRing (runCmd .issued (some (lantern1 (some 1))))) (runCmd .issued (some (lantern1 (some 1)))) ∧
    (eOp runEntry = 0x60 ∧ (runCmd .issued (some (lantern1 (some 1)))).tile 0 =
        some (routineTile 0 .issued (some (lantern1 (some 1)))) ∧ (lantern1 (some 1)).result.isSome = true ∧
      (∃ y ∈ (runCmd .issued (some (lantern1 (some 1)))).tiles, y.idx ≠ 0 ∧ y.state ≠ .ended) ∧
      (writesFail (execRoom (runCmd .issued (some (lantern1 (some 1)))))
        (execD (runCmd .issued (some (lantern1 (some 1))))) [(0x1000, 8)]).isNone = true) ∧
    OneCommand (execRoom (attCmd1 farChain .issued 0)) 3 0 5 (execD (attCmd1 farChain .issued 0))
      (execRing (attCmd1 farChain .issued 0)) (attCmd1 farChain .issued 0) ∧
    ((attCmd1 farChain .issued 0).tile 0 = some (attTile .issued 0) ∧
      (attLocal (execRoom (attCmd1 farChain .issued 0)) 5 (execD (attCmd1 farChain .issued 0))
        (attOf (attCmd1 farChain .issued 0)) (attCmd1 farChain .issued 0) (attTile .issued 0).bad
        (headChain (attCmd1 farChain .issued 0) 0) 0 0 1).2.isNone = true ∧
      (attTile .issued 0).replies ≠
        ((tileEnts (headChain (attCmd1 farChain .issued 0) 0) 0 1).filter (fun e => e.remote)).length) ∧
    ((gemmCmd .waiting).tile 0 = some (tile1 .waiting) ∧ (tile1 .waiting).state ≠ .issued) ∧
    (operating (room cplD) = true ∧ inSlot (room cplD) 3 = some (5, cplD) ∧
      mfind cplD.cpls 0 = some { cpl0 with waiting := [pend1] } ∧ (cpl0.wcount - cpl0.head).toNat < 2 ^ cpl0.log2 ∧
      cplD.grant.confidential = false ∧ cplD.state ≠ .scrubbing ∧ hostMay (room cplD) 3 (portOf (boundFn cplD)) 32 = true) ∧
    (inSlot (room (obj 0 0 .ready)) 3 = some (5, obj 0 0 .ready) ∧ cpl0.waiting = []) ∧
    (0 ≠ servedRing (execD (gemmCmd .waiting)) ∧
      ∀ n ∈ [1, 2], inSlot (room (servesD n (some servedTile1))) 3 = some (5, servesD n (some servedTile1)) ∧
        mfind (servesD n (some servedTile1)).qps 0 = some ready0 ∧
        (∀ p ∈ (servesD n (some servedTile1)).qps, p.2.inbound = []) ∧ psnsLeft ready0 = true ∧
        (inService n (some servedTile1)).parts.length = n ∧ 10 ≤ (inService n (some servedTile1)).body.length) :=
  ⟨oneCommand_of (by decide +kernel), by decide +kernel, oneCommand_of (by decide +kernel), by decide +kernel,
    by decide +kernel, by decide +kernel, by decide +kernel, by decide +kernel⟩

/-- A page read of the chain. -/
def fetch1 (arrived : Bool) (gen : BitVec 32) : Fetch :=
  { slot := 3, ring := 0, pos := 0, head := 0, entry := 0, chainVa := some 0x28400, page := 0, dome := 0, len := 65536, cls := 0
    epoch := 0, fragEpoch := 0, loadGen := gen, issuedAt := 0, arrived := arrived, poisoned := false }
def fetching (arrived : Bool) (gen : BitVec 32) : State :=
  { execRoom (attCmd1 (chain1 1) .waiting 0) with fetches := [(0, fetch1 arrived gen)] }
/-- Two tiles: one waits, the other holds all of the drum. -/
def fullCmd : Cmd :=
  { attCmd1 (chain1 1) .waiting 0 with
    tiles := [attTile .waiting 0, { Tile.fresh 1 .attendClose 0x800000 0 with state := .issued }] }

def watches (ch : Chain) (c : Cmd) : Prop :=
  OneCommand (execRoom c) 3 0 5 (execD c) (execRing c) c ∧ eOp c.entry = 0x40 ∧ (execRoom c).fetches = [] ∧
  (execRoom c).frags = [] ∧ (tileOfEntry c 0 0) = some (attTile .waiting 0) ∧
  watched (execRoom c) (execD c) 3 0 (execRing c) c.pos 0 0 = true ∧ c.early = [] ∧
  (headChain c 0).ents[0]? = ch.ents.head?

theorem witness_WatchFetches :
    watches (chain1 1) (attCmd1 (chain1 1) .waiting 0) ∧
    ((firstDenied (execRoom (attCmd1 (chain1 1) .waiting 0)) (execD (attCmd1 (chain1 1) .waiting 0))
        0 (pageUsed 1 64) false).isNone = true ∧
      (grantedDomes grant1).find? (fun k => 65536 ≤ drumSpare (execRoom (attCmd1 (chain1 1) .waiting 0))
        (execD (attCmd1 (chain1 1) .waiting 0)) 3 k) = some 0) ∧
    watches (chain1 1) fullCmd ∧ (∀ k ∈ grantedDomes grant1, drumSpare (execRoom fullCmd) (execD fullCmd) 3 k < 65536) ∧
    OneCommand (execRoom (gemmCmd .waiting)) 3 0 5 (execD (gemmCmd .waiting)) (execRing (gemmCmd .waiting))
      (gemmCmd .waiting) ∧
    (((tensorAhead (execRoom (gemmCmd .waiting)) (execD (gemmCmd .waiting)) (gemmCmd .waiting)).take 32).find?
        (fun x => x.1 == 0 && x.2.1 == 0) = some (0, 0, 0) ∧
      (grantedDomes grant1).find? (fun k => 65536 ≤ drumSpare (execRoom (gemmCmd .waiting)) (execD (gemmCmd .waiting)) 3 k) =
        some 0) ∧
    watches farChain (attCmd1 farChain .waiting 0) ∧
    (mfind (execD (attCmd1 farChain .waiting 0)).qps 0 = some ready0 ∧ ready0.state = .ready ∧ psnsLeft ready0 = true ∧
      (readsFail (execRoom (attCmd1 farChain .waiting 0)) (execD (attCmd1 farChain .waiting 0))
        [(qAt (attOf (attCmd1 farChain .waiting 0)) 0 0, 64 * 4), (metaAt (attOf (attCmd1 farChain .waiting 0)) 0 0, 16)]).isNone =
        true) ∧
    (operating (fetching false 0) = true ∧ inSlot (fetching false 0) 3 = some (5, execD (attCmd1 (chain1 1) .waiting 0)) ∧
      stampsHold (fetching false 0) (execD (attCmd1 (chain1 1) .waiting 0)) 3 0 (some 0x28400) 0 0 0 = true ∧
      stampsHold (fetching false 9) (execD (attCmd1 (chain1 1) .waiting 0)) 3 0 (some 0x28400) 0 0 9 = false ∧
      (inSlot { fetching false 0 with defs := [] } 3).isNone = true ∧
      mfind (fetching true 0).fetches 0 = some (fetch1 true 0)) := by
  refine ⟨⟨oneCommand_of (by decide +kernel), by decide +kernel⟩, by decide +kernel,
    ⟨oneCommand_of (by decide +kernel), by decide +kernel⟩, by decide +kernel, oneCommand_of (by decide +kernel),
    by decide +kernel, ⟨oneCommand_of (by decide +kernel), by decide +kernel⟩, by decide +kernel, by decide +kernel⟩

def fragState (c : Cmd) (retry : Option Nat) : State :=
  { execRoom c with frags := [(0, { frag1 with retryAt := retry })] }
/-- A CONVERT that waits for fence 2. -/
def waitDesc : List Byte :=
  leBytes 8 0x2000 ++ leBytes 8 0x4000 ++ List.replicate 32 0 ++ leBytes 4 1024 ++ leBytes 4 1024 ++ [1, 2] ++
    List.replicate 6 0 ++ leBytes 4 (2 + 2 ^ 18) ++ List.replicate 60 0
def waitCmd : Cmd := begun 0x21 waitDesc [{ Tile.fresh 0 (.convert 0 1024) 0 0 with state := .issued }]

theorem witness_RemoteLimits :
    (∀ r ∈ [none, some 7], operating (fragState (attCmd1 farChain .remoteWait 0) r) = true ∧
      mfind (fragState (attCmd1 farChain .remoteWait 0) r).frags 0 = some { frag1 with retryAt := r } ∧
      inSlot (fragState (attCmd1 farChain .remoteWait 0) r) 3 = some (5, execD (attCmd1 farChain .remoteWait 0)) ∧
      getCur (fragState (attCmd1 farChain .remoteWait 0) r) 5 0 = some (attCmd1 farChain .remoteWait 0) ∧
      mfind (execD (attCmd1 farChain .remoteWait 0)).qps 0 = some ready0) ∧
    (∀ st ∈ [TileState.issued, .remoteWait],
      OneCommand (fragState (attCmd1 farChain st 0) none) 3 0 5 (execD (attCmd1 farChain st 0))
        (execRing (attCmd1 farChain st 0)) (attCmd1 farChain st 0) ∧
      frag1.loadGen = (getSlot (fragState (attCmd1 farChain st 0) none) 3).loadGen ∧
      mfind (execD (attCmd1 farChain st 0)).cpls 0 = some cpl0 ∧ (attCmd1 farChain st 0).tiles = [attTile st 0]) ∧
    (operating (execRoom waitCmd) = true ∧ (execRoom waitCmd).defs = [(5, execD waitCmd)] ∧ isXform waitCmd = true ∧
      (execRoom waitCmd).frags = [] ∧ (∃ y ∈ waitCmd.tiles, y.state = .issued) ∧
      (parseXform waitCmd.entry waitCmd.desc).chunks = 1 ∧
      ((parseXform waitCmd.entry waitCmd.desc).blocker (execD waitCmd) 0).isSome = true ∧
      (parseXform waitCmd.entry waitCmd.desc).abandoned (execD waitCmd) waitCmd.ready = none ∧
      (arrivalFail (execD waitCmd) waitCmd).isSome = true) := by
  refine ⟨by decide +kernel, fun st h => ⟨?_, by revert st h; decide +kernel⟩, by decide +kernel⟩
  have h1 := oneCommand_of (c := attCmd1 farChain st 0) (by revert st h; decide +kernel)
  exact h1

/-! ### Lanterns -/

theorem running_of {s : State} {d : Def} {r : CmdRing} {c : Cmd} {t : Tile} {l : Lantern}
    (h : inSlot s 3 = some (5, d) ∧ mfind d.rings 0 = some r ∧ r.cur = some c ∧ c.tile 0 = some t ∧ t.state = .issued ∧
      t.lantern = some l ∧ l.result = none) :
    running s { slot := 3, ring := 0, tile := 0 } = some { id := 5, d := d, c := c, t := t, l := l } := by
  obtain ⟨h1, h2, h3, h4, h5, h6, h7⟩ := h
  unfold running
  simp [h1, h2, h3, h4, h5, h6, h7]

def lit : Lantern := { lantern1 none with clocks := 99991 }
def litRun : Running :=
  { id := 5, d := execD (runCmd .issued (some lit)), c := runCmd .issued (some lit), t := routineTile 0 .issued (some lit)
    l := lit }
/-- 16 bytes from local address 0x30000. -/
def span : Word := BitVec.ofNat 64 (0x30000 + 16 * 2 ^ 32)

theorem witness_LanternRoutines :
    Runs (execRoom (runCmd .issued (some lit))) { slot := 3, ring := 0, tile := 0 } litRun ∧
    (copyOk lit 0x1000 span = true ∧ localOk dataBase span = true ∧ localOk argsBase span = true ∧
      copyOk lit 0x1FF8 span = false ∧ lit.stagedBytes + copyLen span ≤ 131072) ∧
    readsFail (execRoom (runCmd .issued (some lit))) litRun.d [((0x1000 : Word).toNat, copyLen span)] = none ∧
    (((0xFFF8 : Word).toNat % 8 = 0 ∧ (0xFFF8 : Word).toNat < litRun.d.grant.persistKib * 1024) ∧
      litRun.d.grant.persistKib * 1024 ≤ (0x10000 : Word).toNat ∧ litRun.d.state = .running) ∧
    ((0x70 : Word).toNat < 128 ∧ (0x70 : Word).toNat % 16 = 0 ∧ lit.clocks + 9 ≤ 100000) ∧
    (running up { slot := 3, ring := 0, tile := 0 }).isNone = true :=
  ⟨⟨by decide +kernel, running_of (r := execRing (runCmd .issued (some lit))) (by decide +kernel), by decide +kernel⟩,
    by decide +kernel, Option.isNone_iff_eq_none.mp (by decide +kernel), by decide +kernel, by decide +kernel,
    by decide +kernel⟩

/-! ### The vault, power and heat -/

def memReq (label addr : Nat) (found : List LineFound) : MemReq :=
  { label := label, cls := 0, deadline := 0, addr := addr, len := 64, window := false, found := found }
/-- A line with two symbols in error in its first sector, and one that is read well. -/
def twoErrs : LineFound := { line := 0, errs := [2, 0, 0, 0], stored := .same }
def noErrs : LineFound := { line := 0, errs := [0, 0, 0, 0], stored := .same }
def poisoned1 : Def := { def1 with poison := [4], uninit := [] }
/-- A line of a confidential partition that comes back changed with the tag of what it has become. -/
def confDef1 : Def := confDef .running
def changed1 : List Byte := List.replicate 256 7
def changedTag : BitVec 64 := lineTag (lineKey (one confDef1) confDef1 0x200) (lineIndex confDef1 0x200) changed1 false
def changedLine : LineFound := { line := 0, errs := [], stored := .other changed1 changedTag }
/-- An open slot in which label 3 has had its turn. -/
def turnTaken : State :=
  { one def1 with fabric := { (one def1).fabric with slotNo := now (one def1) / 128, turns := [3] } }
def locked1 : State := { up with keep := { up.keep with confLock := true } }
/-- Slot 3 reaches the shared window of QP number 70. -/
def shared1 : State := { one def1 with slots := [(3, { Slot.reset with windows := [70] })] }
def windowReq (addr : Nat) : MemReq := { memReq 3 addr [noErrs] with len := 0, window := true }

theorem witness_VaultAccess :
    (operating (one poisoned1) = true ∧ inSlot (one poisoned1) 3 = some (5, poisoned1) ∧
      getDef (one poisoned1) 5 = some poisoned1 ∧ inOffsets poisoned1 0x200 64 = true ∧
      linePoisoned poisoned1 0x200 = false ∧ rangePoisoned poisoned1 0x200 64 = false ∧
      inOffsets poisoned1 0x100 64 = true ∧ linePoisoned poisoned1 0x100 = true ∧
      rangePoisoned poisoned1 0x100 64 = true ∧ poisoned1.state = .running ∧ poisoned1.uninit = [] ∧
      (∀ p ∈ poisoned1.rings, p.2.state = .active ∧ p.2.cur = none ∧ p.2.nxt = none ∧ p.2.fall = none) ∧
      (one poisoned1).flt.safe = false ∧ (one poisoned1).vault.eccUnc ≠ 2 ∧ poisoned1.dirty = none) ∧
    (CarriedNow (one poisoned1) (waitOf (one poisoned1) .read (memReq 3 0x200 [noErrs])) ∧
      CarriedNow (one poisoned1) (waitOf (one poisoned1) .read (memReq 3 0x100 [])) ∧
      CarriedNow (one poisoned1) (waitOf (one poisoned1) .read (memReq 3 0x200 [twoErrs])) ∧
      CarriedNow (one poisoned1) (waitOf (one poisoned1) (.write changed1) (memReq 3 0x100 [noErrs]))) ∧
    (CleanLines [noErrs] ∧ twoErrs.line < lineCount 0x200 64 ∧ 2 ∈ twoErrs.errs ∧
      CleanMerges false 0x120 64 [noErrs] ∧ needsMerge false 0x120 64 0x100 = true ∧ CleanMerges false 0x100 256 [twoErrs]) ∧
    (CarriedNow (one confDef1) (waitOf (one confDef1) .read (memReq 3 0x200 [changedLine])) ∧
      (inOffsets confDef1 0x200 64 = true ∧ rangePoisoned confDef1 0x200 64 = false ∧ confDef1.grant.confidential = true) ∧
      checkTag (lineKey (one confDef1) confDef1 0x200) (lineIndex confDef1 0x200) changed1 changedTag = .ok) ∧
    (turnTaken.fabric.waiting = [] ∧ inOffsets def1 0x200 64 = true ∧
      mayServe (rollSlot turnTaken) (waitOf turnTaken .read (memReq 3 0x200 [])) = false ∧
      mayServe (rollSlot turnTaken) (waitOf turnTaken (.write changed1) (memReq 3 0x200 [])) = false) ∧
    (inSharedWindow shared1 3 (Config.contextAddr 70) 0 = true ∧
      CarriedNow shared1 (waitOf shared1 .read (windowReq 0x2000)) ∧
      CarriedNow shared1 (waitOf shared1 (.write []) (windowReq 0x2000)) ∧ (getSlot up 3).windows = []) ∧
    (CarriedNow up (waitOf up .read (memReq 0x40 0x200 [])) ∧ inReserve 0x200 64 = true ∧
      CarriedNow up (waitOf up (.write changed1) (memReq 0x40 0x200 [])) ∧ inReserve 0x200 256 = true) ∧
    (CarriedNow (one poisoned1) (waitOf (one poisoned1) .debugRead (memReq 0x42 (blockAddr poisoned1 0x200) [])) ∧
      CarriedNow (one poisoned1)
        (waitOf (one poisoned1) (.debugWrite changed1) (memReq 0x42 (blockAddr poisoned1 0x200) [])) ∧
      poisoned1.slot = some 3 ∧ debugTarget (one poisoned1) (blockAddr poisoned1 0x200) 256 = some (5, 0x200)) ∧
    (inOffsets def1 (memUsable grant1 + 4194304 - 64) 64 = true ∧ inOffsets def1 (memUsable grant1 + 4194304 - 63) 64 = false) ∧
    (inSlot up 3 = none ∧ Clear 12 up) ∧ (operating locked1 = true ∧ locked1.keep.confLock = true ∧ Clear 7 locked1) ∧
    (debugTarget (one poisoned1) (blockAddr poisoned1 0x200) 64 = some (5, 0x200) ∧ poisoned1.grant.confidential = false) ∧
    (populated up 0x1800000000 64 = false ∧ populated up (0x1800000000 - 64) 64 = true) :=
  ⟨by decide +kernel, by unfold CarriedNow; decide +kernel, by unfold CleanLines CleanMerges; decide +kernel,
    ⟨by unfold CarriedNow; decide +kernel, by decide +kernel, by unfold checkTag changedTag; exact if_pos rfl⟩,
    by decide +kernel, ⟨by simp [inSharedWindow, shared1, getSlot, mfind], by unfold CarriedNow; decide +kernel⟩,
    by unfold CarriedNow; decide +kernel, by unfold CarriedNow; decide +kernel, by decide +kernel,
    ⟨by decide +kernel, clear_up 12⟩, ⟨by decide +kernel, by decide +kernel, rfl, nofun⟩, by decide +kernel, by decide +kernel⟩

def rotating (b : Nat) : Def :=
  { def1 with rotation := some { toVersion := 2, walking := true, boundary := b, pages := 3, doneInFlight := [], box := .pf
                                 seq := 0 } }

theorem witness_RekeyAndPatrol :
    (operating up = true ∧ up.vault.ports.length = 8) ∧
    (∀ b ∈ [0, 1, 3], operating (one (rotating b)) = true ∧ inSlot (one (rotating b)) 3 = some (5, rotating b) ∧
      getDef (one (rotating b)) 5 = some (rotating b) ∧ (rotating b).rotation.isSome = true) ∧
    (inSlot (one def1) 3 = some (5, def1) ∧ def1.rotation = none) := by decide +kernel

def powered (p : Power) : State := { up with power := p }
def envelope0 : Power :=
  { up.power with envelope := true, credit := 399999872, roomSince := some 0, lastRaise := 0, ftarget := 400 }
def budgeted (e : Nat) : State := { one def1 with slots := [(3, { Slot.reset with energy := e })] }

theorem witness_PowerLoop :
    (alive (powered { up.power with wearExceeded := true }) = true ∧ up.flt.safe = false ∧ up.boot.stage ≠ .stopped) ∧
    (up.power.envelope = false ∧ up.power.credit ≠ 0 ∧ (powered { up.power with credit := 1280 }).power.credit ≤ 1280 ∧
      420000 < 420001) ∧
    (envelope0.envelope = true ∧ envelope0.peakDisable = false ∧ 400000000 ≤ envelope0.credit + 128 ∧
      envelope0.roomSince = some 0 ∧ 0 + 100000 ≤ now (powered envelope0) ∧
      envelope0.lastRaise + 100000 ≤ now (powered envelope0)) ∧
    (up.power.roomSince = none ∧ operating up = true ∧ up.defs = []) ∧
    (up.power.wearExceeded = false ∧ up.life.acc.peakNs < 18000000 * 10 ^ 9 ∧ up.life.acc.hotNs < 3600000 * 10 ^ 9 ∧
      Clear 6 up) ∧
    (∃ s : State, alive s = true ∧ s.power.wearExceeded = false ∧ 18000000 * 10 ^ 9 ≤ s.life.acc.peakNs ∧
      s.faults = up.faults) ∧
    (∀ e ∈ [5242879999, 5242880000], operating (budgeted e) = true ∧ inSlot (budgeted e) 3 = some (5, def1) ∧
      def1.grant.powerBudget = 1 ∧ (getSlot (budgeted e) 3).held = false ∧ (getSlot (budgeted e) 3).energy = e) :=
  ⟨by decide +kernel, by decide +kernel, by decide +kernel, by decide +kernel, ⟨by decide +kernel, by decide +kernel,
    by decide +kernel, rfl, nofun⟩,
    ⟨{ up with life := { up.life with acc := { up.life.acc with peakNs := 18000000 * 10 ^ 9 } } }, by decide +kernel⟩,
    by decide +kernel⟩

def heated (temps : List Nat) (hot : Bool) (n : Nat) : State :=
  powered { up.power with temps := temps, thermalHot := hot, hotReadings := n, wearExceeded := true }
def oneConv : State := { up with boot := { up.boot with convs := 1 } }

theorem witness_HeatAndModule :
    (alive (heated [] false 0) = true ∧ hottest [100] ≤ 100 ∧ 100 < hottest [114, 3] ∧ hottest [114, 3] < 115 ∧
      hottest (heated [] false 0).power.temps ≤ 100) ∧ Clear 6 (heated [] false 0) ∧
    (115 ≤ hottest [115] ∧ 1 ≤ (heated [115] true 1).power.hotReadings ∧ alive (heated [115] true 1) = true) ∧
    (∀ t ∈ [98, 100, 101], alive (heated [t] true 0) = true ∧ (heated [t] true 0).flt.safe = false ∧
      (heated [t] true 0).power.thermalHot = true ∧ hottest (heated [t] true 0).power.temps = t) ∧
    (operating up = true ∧ (∀ p, p < ports up → nth [95, 95, 95, 95] p 0 ≤ 95) ∧ 3 < ports up ∧ 95 < nth [95, 0, 0, 96] 3 0 ∧
      (∀ k, k < 3 → nth [95, 0, 0, 96] k 0 ≤ 95) ∧ up.power.hbmHot = [] ∧ alive up = true ∧
      up.boot.stage = .ready) ∧
    (memoryIdle up = true ∧ memoryIdle (one def1) = false ∧ operating (one def1) = true) ∧
    (alive oneConv = true ∧ oneConv.boot.convs = 1 ∧ oneConv.power.rangeOut = [] ∧ vinOut 0xE320 = false ∧
      vinOut 0 = true) ∧ Clear 6 oneConv :=
  ⟨by decide +kernel, ⟨rfl, nofun⟩, by decide +kernel, by decide +kernel, by decide +kernel, by decide +kernel, by decide +kernel,
    ⟨rfl, nofun⟩⟩

/-! ### The keep -/

def rotReq : Req := req 0x0300 5 []
def atKey (v : Nat) (st : PState) (slot : Option Nat) : Def := { inState st slot with keyVersion := v }
def attestReq (va len : Nat) : Req := req 0x0302 5 (List.replicate 32 7 ++ leBytes 8 va ++ leBytes 4 len ++ [0, 0, 0, 0])
def attestRoom (st : PState) (chain : Bool) : State :=
  let s := room { openObj with state := st }
  { s with keep := { s.keep with chainOk := chain, entropyOk := true } }
def entropic (d : Def) : State := { one d with keep := { up.keep with entropyOk := true } }

theorem witness_RotateAndAttest :
    (∀ d ∈ [inState .defined none, def1, inState .scrubbing (some 3), atKey 65535 .running (some 3), rotating 0],
      accepted 0x0300 kKeyRotate .pf rotReq (entropic d) = true ∧ getDef (entropic d) 5 = some d ∧
      (entropic d).keep.entropyOk = true) ∧
    (def1.keyVersion ≠ 65535 ∧ def1.spent = false ∧ def1.rotation = none ∧ (rotating 0).rotation.isSome = true) ∧
    (∀ st ∈ [PState.resident, .running, .quiescing, .quiesced], ∀ c : Bool,
      accepted 0x0302 kAttestGet .pf (attestReq 0x1000 8192) (attestRoom st c) = true ∧
      getDef (attestRoom st c) 5 = some { openObj with state := st } ∧ (attestRoom st c).keep.chainOk = c) ∧
    (fld (attestReq 0x1000 8192).payload 32 8 % 64 = 0 ∧ 8192 ≤ fld (attestReq 0x1000 8192).payload 40 4) ∧
    (accepted 0x0302 kAttestGet .pf (attestReq 0x1001 8191) (attestRoom .running true) = true ∧
      fld (attestReq 0x1001 8191).payload 32 8 % 64 ≠ 0 ∧ fld (attestReq 0x1001 8191).payload 40 4 < 8192) ∧
    (∀ st ∈ [PState.faulted, .scrubbing],
      accepted 0x0302 kAttestGet .pf (attestReq 0x1000 8192) (attestRoom st true) = true) :=
  ⟨fun d h => ⟨accepted_req (by revert d h; decide +kernel), by revert d h; decide +kernel⟩, by decide +kernel,
    fun st h c => ⟨accepted_req (by revert st h c; decide +kernel), by revert st h c; decide +kernel⟩, by decide +kernel,
    ⟨accepted_req (by decide +kernel), by decide +kernel⟩, fun st h => accepted_req (by revert st h; decide +kernel)⟩

/-- A link package and a weight package of 64 bytes, at 0x28000 and bound to 0x1000. -/
def linkHeader : List Byte := [1, 1, 1, 0] ++ leBytes 4 1048576 ++ List.replicate 24 0 ++ [9, 0] ++ List.replicate 222 0
def weightHeader : List Byte := [1, 0, 1, 0] ++ leBytes 4 1048576 ++ leBytes 8 64 ++ List.replicate 240 0
/-- WEIGHT_BIND to link slot 1, of a key sealed or not. -/
def bindReq (dst sealed : Nat) : Req :=
  req 0x0301 5 (leBytes 8 0x28000 ++ leBytes 8 dst ++ leBytes 2 1 ++ leBytes 6 sealed ++ List.replicate 40 0)
def bindRoom (h : List Byte) (d : Def) : State :=
  let s := roomWith [(0x28000, h)] d
  { s with keep := { s.keep with entropyOk := true } }
def binding : Bind :=
  { pkgVa := 0x28000, dstVa := 0x1000, payloadLen := 64, records := 1, linkSlot := 1, cek := key1, hash := [], box := .pf
    seq := 0, began := 0, written := 0 }
def bindD : Def := { openObj with bind := some binding }

theorem witness_WeightBinds :
    (∀ x ∈ [(linkHeader, 0), (weightHeader, 0x1000)],
      (∀ k ∈ [0, 1], accepted 0x0301 kWeightBind .pf (bindReq x.2 k) (bindRoom x.1 openObj) = true) ∧
      getDef (bindRoom x.1 openObj) 5 = some openObj ∧ openObj.state = .running ∧
      bindFieldBad openObj (bindReq x.2 0).payload = false ∧ readVa (bindRoom x.1 openObj) openObj 0x28000 256 = .ok x.1 ∧
      bindHeaderBad (bindReq x.2 0).payload x.1 = false ∧ bindInUse openObj (bindReq x.2 0).payload (some x.1) = false ∧
      readVa (bindRoom x.1 openObj) openObj (0x28000 + 256) (96 * fld x.1 2 2) = .ok (List.replicate 96 0)) ∧
    (firstDenied (bindRoom weightHeader openObj) openObj 0x28000 (packageLen 1 64) false = none ∧
      firstDenied (bindRoom weightHeader openObj) openObj 0x1000 64 true = none) ∧
    (∀ st ∈ [PState.quiescing, .faulted, .scrubbing, .resident],
      accepted 0x0301 kWeightBind .pf (bindReq 0 0) (bindRoom linkHeader { openObj with state := st }) = true) ∧
    (bindFieldBad { openObj with grant := { openObj.grant with linkKeys := 1 } } (bindReq 0 0).payload = true ∧
      bindHeaderBad (bindReq 0x1000 0).payload linkHeader = true ∧
      bindInUse bindD (bindReq 0 0).payload (some linkHeader) = true) ∧
    (operating (room bindD) = true ∧ inSlot (room bindD) 3 = some (5, bindD) ∧
      (∃ bs, readVa (room bindD) bindD (0x28000 + payloadOff 1) (64 + 16) = .ok bs) ∧
      firstDenied (room bindD) bindD 0x1000 64 true = none) ∧
    segCount 64 ≤ { binding with written := 1 }.written ∧ openObj.bind = none := by
  refine ⟨fun x hx => ⟨fun k hk => accepted_req ?_, by revert x hx; decide +kernel⟩, by decide +kernel,
    fun st h => accepted_req ?_, by decide +kernel, ⟨by decide +kernel, by decide +kernel, ⟨List.replicate 80 0, by
      decide +kernel⟩, by decide +kernel⟩, by decide +kernel, by decide +kernel⟩
  · revert x hx k hk
    decide +kernel
  · revert st h
    decide +kernel

theorem mfind_all {β : Type} {P : β → Prop} : ∀ (m : NMap β) (a : Nat), (∀ p ∈ m, P p.2) → ∀ v, mfind m a = some v → P v
  | [], _, _, _, h => by cases h
  | (k, w) :: m, a, h, v, e => by
    unfold mfind at e
    split at e
    · cases e
      exact h _ List.mem_cons_self
    · exact mfind_all m a (fun p hp => h p (List.mem_cons_of_mem _ hp)) v e

/-- What holds of every function listed and of a fresh one holds of all. -/
theorem fns_all {s : State} {P : Fn → Prop} (h : (∀ p ∈ s.fns, P p.2) ∧ P Fn.reset) (fn : Nat) : P (getFn s fn) := by
  unfold getFn
  cases e : mfind s.fns fn with
  | none => exact h.2
  | some v => exact mfind_all s.fns fn h.1 v e

def doe (fn : Nat) (ses : Option Nat) (slot : Nat := 0) : Doe := { fn := fn, session := ses, body := [BitVec.ofNat 8 slot] }
/-- The block with an SPDM stage, sessions established and sessions opening on port 0. -/
def spdmAt (stage : Nat) (ses op : List Nat) (chain : Bool) : State :=
  let s := setSpdm 0 (fun x => { x with stage := stage, sessions := ses, opening := op }) up
  { s with keep := { s.keep with chainOk := chain } }

theorem witness_SpdmRequests :
    (∀ st ∈ [0, 1, 2, 3], operating (spdmAt st [] [] true) = true ∧ portExists (spdmAt st [] [] true) (portOf 0) = true ∧
      vfOf 0 = 0 ∧ (getSpdm (spdmAt st [] [] true) (portOf 0)).stage = st) ∧
    (∀ c : Bool, (spdmAt 3 [] [] c).keep.chainOk = c) ∧
    (4 ≤ (getSpdm (spdmAt 3 [1, 2, 3, 4] [] true) 0).sessions.length ∧
      (getSpdm (spdmAt 3 [1, 2] [3] true) 0).sessions.length + (getSpdm (spdmAt 3 [1, 2] [3] true) 0).opening.length < 4) ∧
    ((getSpdm (spdmAt 3 [1, 2] [3] true) 0).opening.contains 3 = true ∧
      (getSpdm (spdmAt 3 [1, 2] [3] true) 0).sessions.contains 2 = true ∧ (doe 0 none).session = none ∧
      fld (doe 0 none).body 0 1 % 16 = 0 ∧ fld (doe 0 none 0x13).body 0 1 % 16 ≠ 0) ∧
    (∀ fn, (getFn (spdmAt 3 [1, 2] [3] true) fn).tdiSession ≠ some (portOf 0, 2)) ∧
    (vfOf 1 ≠ 0 ∧ portExists up (portOf 1) = true ∧ alive stopped = true ∧ stopped.flt.safe = true) := by
  refine ⟨by decide +kernel, fun c => rfl, by decide +kernel, by decide +kernel, fun fn => ?_, by decide +kernel⟩
  exact fns_all (P := fun f => f.tdiSession ≠ some (portOf 0, 2)) (by decide +kernel) fn

def ideReq (ses : Option Nat) (stream keySet sub : Nat) : IdeReq :=
  { port := 0, session := ses, stream := stream, keySet := keySet, sub := sub, tx := true, key := 0, iv := 0, covers := [1]
    agree := decide (sub < 2) }
/-- Port 0 with session 1, and streams that hold a key of key set 0. -/
def streamed (streams : List Nat) : State :=
  let s := spdmAt 3 [1] [] true
  { s with keep := { s.keep with
    streams := streams.map (fun k => (k, { keys := [(0, 0, true)], go := some 0, covers := [1] })) } }
/-- Stream 2 with its key set in use or not. -/
def withGo (g : Option Nat) : State :=
  { streamed [] with keep := { (streamed []).keep with
    streams := [(streamKey 0 2, { keys := [(0, 0, true)], go := g, covers := [1] })] } }
def tdiState (t : Tdi) (d : Def) (ses : Option (Nat × Nat)) : State :=
  setFn { streamed [2] with defs := [(5, d)] } 1 (fun f => { f with tdi := t, tdiSession := ses, tdiNonce := 9, tdiStream := 2 })

theorem witness_IdeStreams :
    (operating (streamed [0, 1, 2, 3, 4, 5, 6, 7]) = true ∧ portExists (streamed [0, 1, 2, 3, 4, 5, 6, 7]) 0 = true ∧
      inSession (streamed [0, 1, 2, 3, 4, 5, 6, 7]) 0 (some 1) = some 1 ∧
      mfind (streamed [0, 1, 2, 3, 4, 5, 6, 7]).keep.streams (streamKey 0 8) = none ∧
      8 ≤ streamsOf (streamed [0, 1, 2, 3, 4, 5, 6, 7]) 0 ∧ streamsOf (streamed [2]) 0 < 8 ∧ 2 < (ideReq (some 1) 2 0 3).sub) ∧
    (∃ st, mfind (streamed [2]).keep.streams (streamKey 0 2) = some st ∧ st.keys ≠ [] ∧
      st.keys.any (fun x => x.1 == 0) = true ∧ st.keys.any (fun x => x.1 == 1) = false) ∧
    ((ideReq (some 1) 2 0 1).agree = true ∧ (ideReq (some 1) 2 0 3).agree = false ∧ (streamed [2]).vault.keyCheck = 0 ∧
      (streamed [2]).faults = [] ∧ mfind (withGo none).keep.streams (streamKey 0 2) =
        some { keys := [(0, 0, true)], go := none, covers := [1] } ∧ (withGo none).faults = []) ∧
    (∀ fn, (getFn (streamed [2]) fn).tdi ≠ .locked ∧ (getFn (streamed [2]) fn).tdi ≠ .run) ∧
    inSession (streamed [2]) 0 none = none ∧
    (operating (tdiState .run def1 none) = true ∧ (getFn (tdiState .run def1 none) (fnId 0 1)).tdiStream = 2 ∧
      tdiHeld (tdiState .run def1 none) (fnId 0 1) = true ∧ tdiDef (tdiState .run def1 none) (fnId 0 1) = none) ∧
    (∀ fn, fn ≠ fnId 0 1 → (getFn (tdiState .run def1 none) fn).tdiStream ≠ 2 ∨ tdiHeld (tdiState .run def1 none) fn = false) ∧
    (∀ fn, (getFn (streamed [2]) fn).tdiStream ≠ 3 ∨ tdiHeld (streamed [2]) fn = false) := by
  refine ⟨by decide +kernel, ⟨_, rfl, by decide +kernel⟩, by decide +kernel, fun fn => ?_, by decide +kernel, by decide +kernel, fun fn h => ?_,
    fun fn => .inr ?_⟩
  · exact fns_all (P := fun f => f.tdi ≠ .locked ∧ f.tdi ≠ .run) (by decide +kernel) fn
  · refine .inr ?_
    unfold tdiHeld tdiState
    rw [getFn_setFn_ne (fn := 1) (g := fn) _ _ h]
    exact fns_all (P := fun f => (f.tdi == .locked || f.tdi == .run) = false) (by decide +kernel) fn
  · exact fns_all (P := fun f => (f.tdi == .locked || f.tdi == .run) = false) (by decide +kernel) fn

def tdiReq (ses : Option Nat) (nonce : BitVec 256) : TdiReq := { port := 0, session := ses, vf := 1, nonce := nonce }
def confRun (st : PState) : Def := { confDef st with scrubbed := true }

theorem witness_TdispRequests :
    (∀ t ∈ [Tdi.unlocked, .locked, .run],
      operating (tdiState t (confRun .resident) (some (0, 1))) = true ∧
      portExists (tdiState t (confRun .resident) (some (0, 1))) 0 = true ∧
      inSession (tdiState t (confRun .resident) (some (0, 1))) 0 (some 1) = some 1 ∧
      tdiDef (tdiState t (confRun .resident) (some (0, 1))) (tdiFn (tdiReq (some 1) 9)) = some (5, confRun .resident) ∧
      coveringStream (tdiState t (confRun .resident) (some (0, 1))) 0 1 = some 2 ∧
      (getFn (tdiState t (confRun .resident) (some (0, 1))) 1).tdi = t ∧
      (getFn (tdiState t (confRun .resident) (some (0, 1))) 1).tdiSession = some (0, 1) ∧
      (getFn (tdiState t (confRun .resident) (some (0, 1))) 1).tdiNonce = (tdiReq (some 1) 9).nonce) ∧
    (isTdi up 1 = false ∧ coveringStream (spdmAt 3 [1] [] true) 0 1 = none ∧
      (getFn (tdiState .run (confRun .resident) none) 1).tdiSession ≠ some (0, 1) ∧
      tdiDef (tdiState .run def1 (some (0, 1))) 1 = none ∧
      (tdiReq (some 1) 8).nonce ≠ (getFn (tdiState .locked def1 none) 1).tdiNonce) ∧
    (tdiDef (tdiState .run (confRun .running) (some (0, 1))) 1 = some (5, confRun .running) ∧
      inSlot (tdiState .run (confRun .running) (some (0, 1))) 3 = some (5, confRun .running) ∧
      (confRun .running).rings = [] ∧ (confRun .running).bind = none ∧
      tdiHeld (tdiState .run (confRun .running) (some (0, 1))) 1 = true) := by decide +kernel

/-! ### The belfry -/

def helloReq (major : Nat) : Req := req 0x0001 0xFFFF ([BitVec.ofNat 8 major, 1, 0, 0] ++ leBytes 4 7 ++ zeros8)
def orphaned : State := { up with belfry := { up.belfry with state := .orphaned } }
def telReq (kind port : Nat) : Req :=
  req 0x0500 (if kind = 0 ∨ kind = 3 then 5 else 0xFFFF) ([BitVec.ofNat 8 kind, BitVec.ofNat 8 port] ++ List.replicate 6 0)
def lifeReq : Req := req 0x0501 0xFFFF []
def logAt (worn writing : Bool) (seq inSector : Nat) : State :=
  { up with
    flash := { up.flash with worn := worn, inSector := inSector }
    life := { up.life with writing := writing, cpSeq := seq } }

theorem witness_BelfryMessages :
    (∀ s ∈ [up, orphaned], ∀ m ∈ [3, 2], accepted 0x0001 (kHello .pf) .pf (helloReq m) s = true ∧
      fld (helloReq m).payload 0 1 = m ∧ (getBox s .pf).heldNotices = []) ∧
    (alive up = true ∧ (getBox up .pf).session = some session0 ∧ (getBox held .pf).session = none ∧ up.boot.stage = .ready) ∧
    whole 0x0002 .pf (req 0x0002 0xFFFF []) up = true ∧
    (∀ d ∈ [def1, confDef .running, inState .defined none], ∀ k ∈ [0, 3],
      accepted 0x0500 (kTelemetry (telReq k 0)) .pf (telReq k 0) (one d) = true ∧ getDef (one d) (telReq k 0).defId = some d ∧
      telKind (telReq k 0) = k) ∧
    (∀ p ∈ [7, 8], accepted 0x0500 (kTelemetry (telReq 1 p)) .pf (telReq 1 p) up = true ∧
      fld (telReq 1 p).payload 1 1 = p ∧ telKind (telReq 1 p) = 1) ∧
    (accepted 0x0500 (kTelemetry (telReq 2 0)) .pf (telReq 2 0) up = true ∧ telKind (telReq 2 0) = 2) ∧
    (∀ s ∈ [logAt true false 0 5, logAt false true 0 5, logAt false false 3 5, logAt false false 0 5],
      accepted 0x0501 kLifetime .pf lifeReq s = true) ∧
    ((logAt false false 3 5).clk ≤ (logAt false false 3 5).life.cpClk + 20000000000 ∧
      1 ≤ (logAt false false 0 5).flash.inSector ∧ (logAt false false 0 5).flash.inSector < 1024) := by
  refine ⟨fun s h m hm => ⟨accepted_req ?_, ?_⟩, by decide +kernel, ?_, fun d h k hk => ⟨accepted_req ?_, ?_⟩,
    fun p h => ⟨accepted_req ?_, ?_⟩, ⟨accepted_req (by decide +kernel), by decide +kernel⟩, fun s h => accepted_req ?_,
    by decide +kernel⟩
  · revert s h m hm; decide +kernel
  · revert s h m hm; decide +kernel
  · have h := reqCheckOk_req 0x0002 0xFFFF []
    unfold whole
    rw [h]
    decide +kernel
  · revert d h k hk; decide +kernel
  · revert d h k hk; decide +kernel
  · revert p h; decide +kernel
  · revert p h; decide +kernel
  · revert s h; decide +kernel

def recReq (op off len : Nat) (data : List Byte) : Req :=
  req 0x0502 0xFFFF ([BitVec.ofNat 8 op, 0, 0, 0] ++ leBytes 4 off ++ leBytes 4 len ++ [0, 0, 0, 0] ++ data)
def receiving (phase : Nat) (data : List Byte) (len : Nat) : State :=
  { up with belfry := { up.belfry with xfer := some { len := len, data := data, phase := phase, box := .pf } } }

theorem witness_RecoverImages :
    (∀ len ∈ [4095, 4096, 33554432, 33554433],
      accepted 0x0502 (kRecover (recReq 0 0 len [])) .pf (recReq 0 0 len []) up = true ∧ recOp (recReq 0 0 len []) = 0 ∧
      fld (recReq 0 0 len []).payload 8 4 = len) ∧
    (∀ ph ∈ [2, 3], accepted 0x0502 (kRecover (recReq 0 0 4096 [])) .pf (recReq 0 0 4096 []) (receiving ph [] 4096) = true) ∧
    (∀ off ∈ [0, 4], accepted 0x0502 (kRecover (recReq 1 off 4 [1, 2, 3, 4])) .pf (recReq 1 off 4 [1, 2, 3, 4])
        (receiving 1 [] 4096) = true ∧ recOp (recReq 1 off 4 [1, 2, 3, 4]) = 1 ∧
      fld (recReq 1 off 4 [1, 2, 3, 4]).payload 4 4 = off ∧ fld (recReq 1 off 4 [1, 2, 3, 4]).payload 8 4 = 4) ∧
    (∀ n ∈ [4, 8], accepted 0x0502 (kRecover (recReq 2 0 0 [])) .pf (recReq 2 0 0 []) (receiving 1 [1, 2, 3, 4] n) = true ∧
      recOp (recReq 2 0 0 []) = 2) ∧
    (accepted 0x0502 (kRecover (recReq 3 0 0 [])) .pf (recReq 3 0 0 []) (receiving 5 [] 4096) = true ∧
      recOp (recReq 3 0 0 []) = 3) ∧
    (∀ ph ∈ [2, 3, 4], operating (receiving ph [] 4096) = true ∧ (receiving ph [] 4096).life.due = false) := by
  refine ⟨fun n h => ⟨accepted_req ?_, ?_⟩, fun n h => accepted_req ?_, fun n h => ⟨accepted_req ?_, ?_⟩,
    fun n h => ⟨accepted_req ?_, ?_⟩, ⟨accepted_req (by decide +kernel), by decide +kernel⟩, by decide +kernel⟩
  all_goals (revert n h; decide +kernel)

def injReq (code slot count delay : Nat) : Req :=
  req 0x05FF 0xFFFF (leBytes 2 code ++ [BitVec.ofNat 8 slot, BitVec.ofNat 8 count] ++ leBytes 4 delay ++ zeros8)
def unlocked1 (u : Bool) (d : Def) (i : Option Inject) : State :=
  { one d with keep := { up.keep with unlocked := u }, belfry := { up.belfry with inject := i } }
def inject1 (n : Nat) : Inject := { code := 0x0700, slot := none, count := n, delayUs := 0, detail := 5 }
def nonced : State :=
  { up with keep := { up.keep with unlockNonce := some 3 }, pins := { up.pins with testMode := true } }

theorem witness_InjectAndUnlock :
    (alive locked1 = true ∧ locked1.keep.confLock = true ∧ up.keep.confLock = false) ∧
    (alive nonced = true ∧ nonced.keep.unlockNonce = some 3 ∧ nonced.pins.testMode = true ∧ nonced.keep.confLock = false ∧
      nonced.keep.loadSeen = false ∧ up.keep.unlockNonce = none) ∧
    (∀ u : Bool, accepted 0x05FF (plainMsg 16 noReserved true false false) .pf (injReq 0x0700 0xFF 1 0) (unlocked1 u def1 none) =
      true) ∧
    (∀ r ∈ [(0x0700, 64, 1, 0), (0x0700, 0xFF, 0, 0), (0x0700, 0xFF, 1, 10000001), (0x0101, 0xFF, 1, 0), (0x0800, 0xFF, 1, 0),
        (0x0800, 3, 1, 10000000)],
      accepted 0x05FF (plainMsg 16 noReserved true false false) .pf (injReq r.1 r.2.1 r.2.2.1 r.2.2.2)
        (unlocked1 true def1 none) = true) ∧
    (injectable up 0x0700 = true ∧ injectable up 0x0101 = false ∧ injectable up 0x0800 = true ∧
      slotCodes.contains 0x0700 = false ∧ slotCodes.contains 0x0800 = true ∧
      (inSlot (unlocked1 true def1 none) 3).isSome = true) ∧
    accepted 0x05FF (plainMsg 16 noReserved true false false) .pf (injReq 0x0700 0xFF 1 0)
      (unlocked1 true def1 (some (inject1 1))) = true ∧
    (∀ n ∈ [1, 2], operating (unlocked1 true def1 (some (inject1 n))) = true ∧ (inject1 n).slot = none ∧
      (inject1 n).code = 0x0700) ∧ Clear 7 (unlocked1 true def1 (some (inject1 1))) := by
  refine ⟨by decide +kernel, by decide +kernel, fun u => accepted_req ?_, fun r h => accepted_req ?_, by decide +kernel,
    accepted_req (by decide +kernel), by decide +kernel, rfl, nofun⟩
  · revert u; decide +kernel
  · revert r h; decide +kernel

def restarted (l : List Nat) (st : BelfryState) (expired : Bool) : State :=
  { up with belfry := { up.belfry with
    state := st, restartAt := l, pfExpired := expired, before := .attached } }
/-- The partition's function with a session and a lapse action. -/
def lapseRoom (q : Bool) : State :=
  setFn (one def1) 1 (fun f => { f with mbox := { f.mbox with session := some { session0 with lapseQuiesce := q } } })

theorem witness_BelfryHealth :
    (∀ q : Bool, operating (lapseRoom q) = true ∧ vfOf 1 ≠ 0 ∧
      (getFn (lapseRoom q) 1).mbox.session = some { session0 with lapseQuiesce := q } ∧
      boundTo (lapseRoom q) 1 = some (5, def1) ∧ firmwareRuns (lapseRoom q) = true) ∧
    (boundTo up 1 = none ∧ (getBox up .pf).session.isSome = true ∧ up.belfry.state = .attached ∧
      (getBox { up with fns := [] } .pf).session = none ∧ operating { up with fns := [] } = true) ∧
    (firmwareRuns (restarted [] .halted false) = false ∧ (restarted [] .halted false).belfry.state ≠ .restarting ∧
      (recentRestarts (restarted [1000000000000, 999999999000] .attached false)).length < 3 ∧
      3 ≤ (recentRestarts (restarted [1000000000000, 999999999000, 999999998000] .attached false)).length ∧
      (restarted [] .attached false).belfry.backlog = []) ∧
    (∀ e : Bool, operating (restarted [] .restarting e) = true ∧ (restarted [] .restarting e).belfry.lapsed = []) ∧
    Clear 2 up := ⟨by decide +kernel, by decide +kernel, by decide +kernel, by decide +kernel, clear_up 2⟩

theorem witness_ResetsAndLinks :
    (operating up = true ∧ tdiHeld up 1 = false ∧ boundTo up 1 = none) ∧
    (∀ st ∈ [PState.running, .resident, .quiesced, .faulted], boundTo (one (inState st (some 3))) 1 =
        some (5, inState st (some 3)) ∧ tdiHeld (one (inState st (some 3))) 1 = false ∧
      operating (one (inState st (some 3))) = true) ∧
    (∀ fn, tdiHeld up fn = false) ∧ up.pins.host1En = true ∧ ({ up with pins := Pins.reset } : State).pins.host1En = false ∧
    (portExists up 1 = true ∧ portExists up 2 = false ∧ alive stopped = true ∧ operating stopped = false ∧
      boundOnPort up 1 = [] ∧ portExists up 0 = true) ∧ Clear 11 up ∧
    ((one def1).defs = [(5, def1)] ∧ def1.slot = some 3 ∧ def1.grant.bindPort = 0 ∧ def1.state = .running) :=
  ⟨by decide +kernel, by decide +kernel,
    fun fn => fns_all (s := up) (P := fun f => (f.tdi == .locked || f.tdi == .run) = false) (by decide +kernel) fn,
    by decide +kernel, by decide +kernel, by decide +kernel, clear_up 11, by decide +kernel⟩

theorem witness_I3cAndLog :
    (alive up = true ∧ up.belfry.i3cAddr = none ∧
      ({ up with belfry := { up.belfry with i3cAddr := some 9 } } : State).belfry.i3cAddr.isSome = true) ∧
    (alive (logAt false false 0 1) = true ∧ (logAt false false 0 1).boot.held = false ∧ (logAt true false 0 1).flash.worn = true ∧
      (logAt false true 0 1).life.writing = true ∧ 1 ≤ (logAt false false 0 1).flash.inSector ∧
      (logAt false false 0 1023).flash.inSector < 1024) := by decide +kernel

/-! ### The whole block -/

theorem witness_DefaultTable :
    (up.pins.powered = true ∧ up.pins.resetN = true) ∧ dark.pins.powered = false := by decide +kernel

theorem witness_OperatingOnly :
    operating held = false ∧ operatingOnly .patrolStart = true ∧ dark.pins.powered = false ∧ Instr.patrolStart ≠ .powerUp := by
  decide +kernel

theorem witness_LatchesHold :
    Latched stopped ∧ stopped.pending.head? ≠ some .powerRemoval ∧ step stopped = .next (idleClock stopped) ∧
    Latched { held with flt := { Flt.reset with tampered := true } } := by
  refine ⟨?_, by decide +kernel, rfl, ?_⟩
  all_goals (unfold Latched; decide +kernel)

theorem witness_SafeStateFreezes :
    stopped.pins.powered = true ∧ stopped.flt.safe = true ∧ exec .patrolStart stopped = .next stopped ∧
    edgeNow .resetNAssert stopped = false ∧ edgeNow .tamperNAssert stopped = false :=
  ⟨by decide +kernel, by decide +kernel, rfl, by decide +kernel⟩

theorem witness_MemoryCanonical :
    Memory.wf [(1, 2), (9, 1)] = true ∧ MemoryOk up ∧ getDef (one def1) 5 = some def1 := by
  refine ⟨by decide, ⟨fun fn => rfl, rfl, fun id d h => by cases h⟩, by decide +kernel⟩

/-! ### Clauses that only some states show -/

/-- The same with the entropy source good or failing. -/
def entropyAt (e : Bool) (s : State) : State := { s with keep := { s.keep with entropyOk := e } }

theorem witness_PinsFollow_acts :
    throttleActs up = true ∧ throttleActs stopped = false ∧
    throttleActs { up with pending := [.tamperNAssert] } = false := by decide +kernel

/-- A table that became live in the window that has just ended. -/
def switchedUp : State := { up with car := { up.car with switchedIn := some up.car.window } }

theorem witness_CarillonSchedule_switched :
    operating switchedUp = true ∧ windowDue switchedUp = true ∧ switchedUp.car.switchedIn = some switchedUp.car.window ∧
    switchedUp.car.switchedIn ≠ some (now switchedUp / 1048576) := by decide +kernel

/-- PART_DEFINE in an empty block, with the entropy source good and failing. -/
theorem witness_DefineMessage_entropy :
    (∀ e : Bool, accepted 0x0100 kPartDefine .pf (defineReq 0 1 1) (entropyAt e up) = true ∧
      (entropyAt e up).keep.entropyOk = e ∧ getDef (entropyAt e up) 5 = none ∧ (entropyAt e up).defs = [] ∧
      (entropyAt e up).vault.scrubChunks = [] ∧ (entropyAt e up).keep.defSerial ≠ 4294967295 ∧ grantOk grant1 = true ∧
      sumGrants (entropyAt e up) (·.memGib) + grant1.memGib ≤ poolChunks (entropyAt e up) ∧
      (firstFree (chunkFree (entropyAt e up)) (poolChunks (entropyAt e up)) 0 grant1.memGib).length = grant1.memGib ∧
      grant1.memGib ≤ poolChunks (entropyAt e up) ∧ objectsOk (entropyAt e up) none (some grant1) = true) ∧
    grant1 = parseGrant (defineReq 0 1 1).payload :=
  ⟨fun e => ⟨accepted_req (by revert e; decide +kernel), by revert e; decide +kernel⟩, by decide +kernel⟩

theorem witness_LoadAndUnload_bound :
    (accepted 0x0101 kPartLoad .pf (loadReq 63) (entropyAt true away) = true ∧
      (entropyAt true away).keep.entropyOk = true ∧ loadSlot (entropyAt true away) 63 = some 63 ∧
      tablesGive (entropyAt true away) grant1 63 = true) ∧
    (∀ st ∈ [PState.resident, .quiesced, .faulted], ∀ b ∈ [none, some binding],
      accepted 0x0102 kPartUnload .pf (req 0x0102 5 []) (one { inState st (some 3) with bind := b }) = true ∧
      getDef (one { inState st (some 3) with bind := b }) 5 = some { inState st (some 3) with bind := b } ∧
      (getFn (one { inState st (some 3) with bind := b }) (boundFn def1)).busy = false) :=
  ⟨⟨accepted_req (by decide +kernel), by decide +kernel⟩, fun st h b hb =>
    ⟨accepted_req (by revert st h b hb; decide +kernel), by revert st h b hb; decide +kernel⟩⟩

theorem witness_Quiescing_still : ∀ p ∈ (stopping false false).cpls, p.2.waiting = [] := by decide +kernel

/-- Whether the job that a waiting JOB_END belongs to has started stands beside the ring's own flag. -/
theorem witness_ResumeAndReset_jobs :
    (∀ p ∈ [(0, cring 0)], p.2.prior.getD p.2.jobStarted = false) ∧
    (∀ r ∈ [{ cring 0 with prior := some true }, { cring 0 with jobStarted := true }],
      r.prior.getD r.jobStarted = true) := by decide +kernel

theorem witness_ScrubAndDestroy_fault :
    (accepted 0x0107 kPartScrub .pf (req 0x0107 5 []) (entropyAt true (one (inState .quiesced (some 3)))) = true ∧
      (inState .quiesced (some 3)).bind = none ∧ (entropyAt true (one def1)).keep.entropyOk = true) ∧
    (∃ d, d = { inState .scrubbing (some 3) with scrubFault := true } ∧ getDef (one d) 5 = some d ∧ d.slot ≠ none ∧
      d.state = .scrubbing) :=
  ⟨⟨accepted_req (by decide +kernel), by decide +kernel⟩, _, rfl, by decide +kernel⟩

theorem witness_RingObjects_drained :
    objDrained (room openObj) openObj 0 = true ∧ objDrained (room posted1) posted1 0 = false ∧
    objDrained { room openObj with fetches := [(0, { fetch1 false 0 with ring := 0 })] } openObj 0 = false := by decide +kernel

theorem witness_PageTablesAndFences_bounds :
    (CtlRuns (room openObj) (ctl 0xFFFFFFFF0000 1) 1 5 openObj ∧
      (0xFFFFFFFF0000#64).toNat + (1#64).toNat * 65536 ≤ 2 ^ 48 ∧ (0xFFFFFFFF0000#64).toNat % 65536 = 0) ∧
    (CtlRuns (room openObj) (ctl 0xFFFFFFFF0000 2) 1 5 openObj ∧
      2 ^ 48 < (0xFFFFFFFF0000#64).toNat + (2#64).toNat * 65536) ∧
    (∀ p ∈ working.rings, ∀ x, p.2.cur = some x ∨ p.2.nxt = some x → isXform x = false) := by
  refine ⟨⟨ctlRuns _ (by decide), by decide⟩, ⟨ctlRuns _ (by decide), by decide⟩, fun p hp x hx => ?_⟩
  cases List.mem_singleton.mp hp
  rcases hx with h | h <;> cases h
  decide +kernel

theorem witness_BurstReleased_left :
    (msg1 0x10 0).firstPsn + (msg1 0x10 0).released + 1 + 1024 ≤ 2 ^ 48 := by decide

/-- The page of the tile's entry has arrived, marked poisoned. -/
def brought : State := { fetching true 0 with fetches := [(0, { fetch1 true 0 with poisoned := true })] }

theorem witness_TileIssued_brought :
    OneCommand brought 3 0 5 (execD (attCmd1 (chain1 1) .waiting 0)) (execRing (attCmd1 (chain1 1) .waiting 0))
      (attCmd1 (chain1 1) .waiting 0) ∧
    ((attCmd1 (chain1 1) .waiting 0).tile 0 = some (attTile .waiting 0) ∧
      broughtIn brought 3 (attCmd1 (chain1 1) .waiting 0) (attTile .waiting 0) = [0] ∧
      markedBad brought 3 (attCmd1 (chain1 1) .waiting 0) (attTile .waiting 0) 0 = true ∧
      markedBad (fetching true 0) 3 (attCmd1 (chain1 1) .waiting 0) (attTile .waiting 0) 0 = false) := by
  have h : OneCommand (execRoom (attCmd1 (chain1 1) .waiting 0)) 3 0 5 (execD (attCmd1 (chain1 1) .waiting 0))
      (execRing (attCmd1 (chain1 1) .waiting 0)) (attCmd1 (chain1 1) .waiting 0) := oneCommand_of (by decide +kernel)
  exact ⟨h, by decide +kernel⟩

/-- Every entry of the present table is `EMPTY`, so that the host ports carry nothing. -/
def emptyNow (s : State) : State :=
  { s with car := { s.car with live := { s.car.live with empties := List.range 1024 } } }

theorem witness_CompletionsHeld :
    (routineTile 0 .issued none).bad = [] ∧ (routineTile 0 .issued none).noFold = false ∧
    (operating (emptyNow (room cplD)) = true ∧ inSlot (emptyNow (room cplD)) 3 = some (5, cplD) ∧
      hostMay (emptyNow (room cplD)) 3 (portOf (boundFn cplD)) 32 = false) ∧
    ({ cplD with state := .scrubbing } : Def).state = .scrubbing := by decide +kernel

theorem witness_WatchFetches_issued :
    OneCommand (execRoom (attCmd1 (chain1 1) .issued 0)) 3 0 5 (execD (attCmd1 (chain1 1) .issued 0))
      (execRing (attCmd1 (chain1 1) .issued 0)) (attCmd1 (chain1 1) .issued 0) ∧
    tileOfEntry (attCmd1 (chain1 1) .issued 0) 0 0 = some (attTile .issued 0) ∧
    watched (execRoom (attCmd1 (chain1 1) .issued 0)) (execD (attCmd1 (chain1 1) .issued 0)) 3 0
      (execRing (attCmd1 (chain1 1) .issued 0)) 0 0 0 = true :=
  ⟨oneCommand_of (by decide +kernel), by decide +kernel, by decide +kernel⟩

/-- The context of the run's lantern has a parity error, and has none. -/
theorem witness_LanternRoutines_parity :
    (∃ s : State, Runs s { slot := 3, ring := 0, tile := 0 } litRun ∧
      s.crcBad.contains (crcLaneU litRun.t.dome litRun.t.lane) = true ∧ litRun.d.state = .running) ∧
    (execRoom (runCmd .issued (some lit))).crcBad.contains (crcLaneU litRun.t.dome litRun.t.lane) = false :=
  ⟨⟨{ execRoom (runCmd .issued (some lit)) with crcBad := [crcLaneU 0 8] },
    ⟨by decide +kernel, running_of (r := execRing (runCmd .issued (some lit))) (by decide +kernel), by decide +kernel⟩,
    by decide +kernel⟩, by decide +kernel⟩

/-- Definition 5 has initialised memory. -/
def plainD : Def := { def1 with uninit := [] }

theorem witness_RekeyAndPatrol_open :
    (operating up = true ∧ populated up 0x200 64 = true ∧ CarriedNow up (waitOf up .read (memReq 0x43 0x200 [noErrs])) ∧
      CleanLines [noErrs] ∧ up.vault.ports.length = 8) ∧
    (operating (one plainD) = true ∧ inSlot (one plainD) 3 = some (5, plainD) ∧ getDef (one plainD) 5 = some plainD ∧
      plainD.slot = some 3 ∧ plainD.rotation = none ∧ plainD.dirty = none ∧ plainD.poison = [] ∧
      (one plainD).fabric.waiting = [] ∧ (one plainD).fabric.slotNo ≠ now (one plainD) / 128 ∧
      ownerNow (one plainD) 0 = ownerOpen ∧ 0x200 + 64 ≤ memUsable plainD.grant ∧
      debugTarget (one plainD) (blockAddr plainD 0x200) 64 = some (5, 0x200)) ∧
    (∀ b ∈ [0, 2], (rotating b).rotation.isSome = true ∧ (2 : Nat) ≤ b + 7 ∧ b ≤ 2 ∧ (2 : Nat) < 3) :=
  ⟨⟨by decide +kernel, by decide +kernel, by unfold CarriedNow; decide +kernel, by unfold CleanLines; decide +kernel,
    by decide +kernel⟩, by decide +kernel, by decide +kernel⟩

theorem witness_PowerLoop_static :
    (∃ s : State, alive s = true ∧ s.flt.safe = false ∧ s.boot.stage ≠ .stopped ∧ s.power.wearExceeded = true ∧
      s.defs = [(5, def1)] ∧ def1.slot = some 3 ∧ 0 < staticShare s def1.grant) :=
  ⟨{ one def1 with power := { up.power with wearExceeded := true } }, by decide +kernel⟩

/-- A thermal limit of 400 MHz, below the bin's. -/
def cooling (t : Nat) : State := powered { up.power with temps := [t], thermal := 400 }

theorem witness_HeatAndModule_rise :
    (alive (cooling 97) = true ∧ (cooling 97).flt.safe = false ∧ (cooling 97).boot.stage ≠ .stopped ∧
      (cooling 97).power.thermalHot = false ∧ hottest (cooling 97).power.temps ≤ 97) ∧
    (cooling 97).power.thermal < Config.binTop ∧ 97 < hottest (cooling 98).power.temps ∧
    (alive { stopped with power := { up.power with wearExceeded := true } } = true ∧ stopped.flt.safe = true) := by
  refine ⟨by decide +kernel, ?_, by decide +kernel, by decide +kernel⟩
  unfold Config.binTop
  split <;> decide +kernel

theorem witness_TdispRequests_other :
    (getFn (tdiState .locked (confRun .resident) (some (0, 7))) (tdiFn (tdiReq (some 1) 9))).tdiSession = some (0, 7) ∧
    ((0, 7) : Nat × Nat) ≠ (0, 1) ∧ inSession (tdiState .locked (confRun .resident) (some (0, 7))) 0 (some 1) = some 1 := by
  decide +kernel

/-- A transfer of another mailbox, and one of the same. -/
def receivingOn (box : Box) (phase : Nat) : State :=
  { up with belfry := { up.belfry with xfer := some { len := 4096, data := [], phase := phase, box := box } } }

theorem witness_RecoverImages_begin :
    (∀ box ∈ [Box.pf, .i3c], ∀ ph ∈ [1, 2, 3, 4, 5],
      accepted 0x0502 (kRecover (recReq 0 0 4096 [])) .pf (recReq 0 0 4096 []) (receivingOn box ph) = true ∧
      (receivingOn box ph).life.due = false) ∧ Box.i3c ≠ .pf := by
  refine ⟨fun box hb ph h => ⟨accepted_req ?_, ?_⟩, by decide⟩
  · revert box hb ph h; decide +kernel
  · revert box hb ph h; decide +kernel

/-! ### The front of the queue -/

theorem witness_StepRunsFront : up.pending = [] := rfl

/-! ### Worked values of the manual -/

/-- "123456789", whose check values R353 lists. -/
def digits : List Byte := [0x31, 0x32, 0x33, 0x34, 0x35, 0x36, 0x37, 0x38, 0x39]

/-- R353. -/
theorem test_crc32c_check : ((CrcCtx.init 0 false 0).feed digits).value = 0xE3069283 := by decide +kernel
theorem test_crc32_check : ((CrcCtx.init 1 false 0).feed digits).value = 0xCBF43926 := by decide +kernel
theorem test_crc16_check : ((CrcCtx.init 2 false 0).feed digits).value = 0x29B1 := by decide +kernel
theorem test_crc64_check : ((CrcCtx.init 3 false 0).feed digits).value = 0x6C40DF5F0B497347 := by decide +kernel

/-- Chapter 13's second example: a folded seed of zero and 24 zero bytes. -/
theorem test_crc32c_folded : ((CrcCtx.init 0 true 0).feed (List.replicate 24 0)).value = 0x8A9136AA := by decide +kernel

/-- Chapter 5's fence example (R159). -/
theorem test_fence_wraps : reaches 0xFFFFFFFFFFFFFFFE 3 = false ∧ reaches 3 3 = true := by decide

/-- Chapter 3's deadline example: 3 ms ahead, and passed one unit later than the deadline (R81). -/
theorem test_deadline : deadlinePassed 0x0004C3B4 (0x0001E748 * 16) = false ∧
    deadlinePassed 0x0004C3B4 (0x0004C3B5 * 16) = true := by decide

/-- Chapter 21's reads of DBA.STATUS (R531). -/
theorem test_dba_status :
    (let d (vf : Nat) (conf : Bool) (sl : Nat) : Def :=
      { def1 with slot := some sl, grant := { def1.grant with bindPort := 0, bindVf := vf, confidential := conf } }
    let s := { up with defs := [(0x41, d 3 false 2), (0x132, d 12 true 5)] }
    dbaReg s 0 2 = 0x0000004100030003 ∧ dbaReg s 0 5 = 0x00000132000C0005 ∧ dbaReg s 0 7 = 0 ∧ dbaReg s 1 2 = 0) := by
  decide +kernel

/-- Chapter 9's decode example: the drum and the clocks of a tile of 16 pages (R251). -/
theorem test_attend_tile :
    (let a := { parseAttend (List.replicate 128 0) with dim := 128, rows := 8, qFmt := 3 }
    let g := { grant1 with domeMask := 0xFFFF, drumWays := List.replicate 16 64, persistKib := 0 }
    attPages a 0x03 g = some 16 ∧ attClocks a 0x03 (16 * pageCap 0x03 128) + 640 = 2688 ∧ 8 * attDrum a 16 = 8478720) := by
  decide +kernel

/-- Chapter 9's tree: with ANCESTRY 0b1_1011, tentative tokens 0, 1, 3 and 4 are seen, 2 and 5 are not (R247). -/
theorem test_ancestry :
    ((List.range 6).map (fun i => visible true 0 { anc := 0x1B, qpos := 303 }
      { fmt := 3, page := 0, tok := 0, pos := 300, tent := some i })) = [true, true, false, true, true, false] := by decide
theorem test_causal : visible true 0 { anc := 0, qpos := 298 } { fmt := 3, page := 0, tok := 0, pos := 299, tent := none } =
    false := by decide

/-- R203's bounds: FP8 E4M3 saturates at 448, and its one NaN is kept with its sign. -/
theorem test_e4m3_saturates : fE4m3.code (.fin false 1000 0) = 0x7E ∧ fE4m3.code (.inf true) = 0xFE ∧
    fE4m3.code (.nan false) = 0x7F ∧ fE4m3.code (.nan true) = 0xFF := by decide +kernel
/-- FP32 addition rounds to nearest, ties to even: 2^24 + 1 = 2^24. -/
theorem test_f32_ties : fAdd 0x4B800000 0x3F800000 = 0x4B800000 ∧ fAdd 0x4B800001 0x3F800000 = 0x4B800002 := by
  decide +kernel

/-- R146: DETAIL is the first offending byte, here the reserved top bit of WAIT_FENCE and of SIGNAL_FENCE. -/
theorem test_first_offending_byte :
    entryFault up (fenced 0 false) true (entry 2 [] 0x80000000 0 0 0) = some 11 ∧
    entryFault up (fenced 0 false) true (entry 2 [] (2 + 2 ^ 18) 0x80000000 0 0) = some 15 := by decide +kernel

/-- R53's masks of an egress gate: an owner's bit, all ones for OPEN and none for EMPTY. -/
theorem test_gate_masks : gateMask 5 = 0x20 ∧ gateMask 0x80 = BitVec.allOnes 64 ∧ gateMask 0xFF = 0 := by decide

/-! ### Ill-formed commands: one for each check -/

theorem ill_fn : Instr.wf (.ringAbortDrained 130) = false := by decide
theorem ill_vf : Instr.wf (.vfFlr 65) = false := by decide
theorem ill_slot : Instr.wf (.powerBudgetExhausted 64) = false := by decide
theorem ill_handle : Instr.wf (.nop 0 4096) = false := by decide
theorem ill_definition : Instr.wf (.scrubComplete 4096) = false := by decide
theorem ill_input : Instr.wf (.inputChatter 13) = false := by decide
theorem ill_dome : Instr.wf (.tileIssue 16 0) = false ∧ Instr.wf (.tileIssue 0 16) = false := by decide
theorem ill_path : Instr.wf (.pathSuspendEnd 0 0 8) = false := by decide
theorem ill_port : Instr.wf (.hostLinkDown 2) = false ∧ Instr.wf (.hostLinkUp 2 true) = false := by decide
theorem ill_memory_port : Instr.wf (.selfRefreshEntry 8) = false := by decide
theorem ill_temps : Instr.wf (.hbmTempPoll (List.replicate 9 40)) = false := by decide
theorem ill_sensors : Instr.wf (.thermalSensorRead (List.replicate 23 40)) = false := by decide
theorem ill_poll : Instr.wf (.pmbusPoll (List.replicate 5 (none, none))) = false ∧
    Instr.wf (.pmbAlert (List.replicate 5 none)) = false := by decide
theorem ill_mac : Instr.wf (.macStatsPoll []) = false := by decide
theorem ill_generation : Instr.wf (.loadGenAbandon 0 (2 ^ 32)) = false ∧ Instr.wf (.hostDmaError 0 (2 ^ 32) 0) = false := by
  decide
theorem ill_token : Instr.wf (.unlockToken (List.replicate 95 0)) = false := by decide +kernel
theorem ill_stream : Instr.wf (.ideStreamIntegrityFailure 0 256) = false := by decide
theorem ill_table_entry : Instr.wf (.tableEcc true 1024) = false := by decide
theorem ill_engine : Instr.wf (.engineFault 0 8 ⟨0, 0, 0⟩) = false ∧ Instr.wf (.engineFault 16 0 ⟨0, 0, 0⟩) = false := by decide
theorem ill_instance : Instr.wf (.qexit ⟨64, 0, 0⟩ 0) = false ∧ Instr.wf (.qexit ⟨0, 4096, 0⟩ 0) = false := by decide
theorem ill_unit : Instr.wf (.faultRecord 256 []) = false := by decide
theorem ill_cause : Instr.wf (.safeStateEntry (cause 65536 none 0)) = false ∧
    Instr.wf (.safeStateEntry (cause 0x0601 (some 64) 0)) = false := by decide
theorem ill_start_up :
    Instr.wf (.startUpComplete { stackGib := [], pinRate := 80, selfTestFailed := 0 }) = false ∧
    Instr.wf (.startUpComplete { stackGib := List.replicate 8 (some 24), pinRate := 63, selfTestFailed := 0 }) = false := by
  decide

/-- A header field that does not fit, and a payload that the mailbox cannot hold. -/
theorem ill_request :
    (let r : Req := { major := 3, minor := 0, seq := 0, defId := 5, flags := 0, status := 0, reserved := 0, payloadLen := 0
                      check := 0, payload := [] }
    Instr.wf (.hello .pf { r with major := 256 }) = false ∧ Instr.wf (.hello .pf { r with minor := 256 }) = false ∧
    Instr.wf (.hello .pf { r with seq := 2 ^ 32 }) = false ∧ Instr.wf (.hello .pf { r with defId := 65536 }) = false ∧
    Instr.wf (.hello .pf { r with flags := 65536 }) = false ∧ Instr.wf (.hello .pf { r with status := 65536 }) = false ∧
    Instr.wf (.hello .pf { r with reserved := 2 ^ 80 }) = false ∧
    Instr.wf (.hello .pf { r with payloadLen := 2 ^ 32 }) = false ∧
    Instr.wf (.hello (.part 1) { r with payload := List.replicate 993 0 }) = false ∧
    Instr.wf (.hello .i3c { r with payload := List.replicate 993 0 }) = false) := by decide +kernel
theorem ill_mailbox : Instr.wf (.heartbeat (.part 65)
    { major := 3, minor := 0, seq := 0, defId := 5, flags := 0, status := 0, reserved := 0, payloadLen := 0, check := 0
      payload := [] }) = false := by decide

theorem ill_write : Instr.wf (.registerWrite ⟨130, 0, [], false⟩) = false ∧
    Instr.wf (.registerWrite ⟨0, 2 ^ 27, [], false⟩) = false ∧
    Instr.wf (.registerWrite ⟨0, 0, List.replicate 513 0, false⟩) = false := by decide +kernel
theorem ill_read : Instr.wf (.rcFieldRead ⟨130, 0, 8, false⟩) = false ∧ Instr.wf (.rcFieldRead ⟨0, 2 ^ 27, 8, false⟩) = false ∧
    Instr.wf (.rcFieldRead ⟨0, 0, 65, false⟩) = false := by decide
/-- A PF has no control registers of its own, and a VF has no slot windows. -/
theorem ill_control : Instr.wf (.ptSet ⟨0, none, 0, 0, 0, 0, false⟩) = false ∧
    Instr.wf (.ptSet ⟨1, some 3, 0, 0, 0, 0, false⟩) = false ∧ Instr.wf (.ptSet ⟨0, some 64, 0, 0, 0, 0, false⟩) = false := by
  decide
theorem ill_frame :
    (let f : Frame := { port := 0, rxErr := false, rxTrunc := false, ipExtra := false, srcIp := 0, ecn := 0, udpPort := 0
                        udpLen := 0, hdr := [], body := [], tag := [], check := 0 }
    Instr.wf (.ack { f with port := 8 }) = false ∧ Instr.wf (.ack { f with udpPort := 65536 }) = false ∧
    Instr.wf (.ack { f with udpLen := 65536 }) = false ∧ Instr.wf (.ack { f with hdr := List.replicate 49 0 }) = false ∧
    Instr.wf (.ack { f with tag := List.replicate 17 0 }) = false) := by decide +kernel
theorem ill_body (f : Frame) : Instr.wf (.ack { f with body := List.replicate 9089 0 }) = false := by
  have h : decide ((List.replicate 9089 (0 : Byte)).length ≤ 9088) = false := by rw [List.length_replicate]; decide
  unfold Instr.wf Frame.wf
  simp only [h, Bool.and_false, Bool.false_and]
theorem ill_access :
    Instr.wf (.memoryRead ⟨256, 0, 0, 0, 32, false, []⟩) = false ∧
    Instr.wf (.memoryRead ⟨0, 4, 0, 0, 32, false, []⟩) = false ∧
    Instr.wf (.memoryRead ⟨0, 0, 2 ^ 32, 0, 32, false, []⟩) = false ∧
    Instr.wf (.memoryRead ⟨0, 0, 0, 2 ^ 48, 32, false, []⟩) = false ∧
    Instr.wf (.memoryRead ⟨0, 0, 0, 0, 2 ^ 32, false, []⟩) = false ∧
    Instr.wf (.memoryWrite ⟨0, 0, 0, 0, 2, false, []⟩ [1]) = false := by
  decide
/-- A line that a stack returns has 256 bytes. -/
theorem ill_stored (w : BitVec 64) : Instr.wf (.memoryRead ⟨0, 0, 0, 0, 32, false, [⟨0, [], .other [] w⟩]⟩) = false ∧
    Instr.wf (.rekeyPageDone 0 0 [⟨0, [], .other [] w⟩]) = false := by
  constructor <;> rfl
/-- A line has four sectors. -/
theorem ill_sectors : Instr.wf (.memoryRead ⟨0, 0, 0, 0, 32, false, [⟨0, [0, 0, 0, 0, 1], .same⟩]⟩) = false := by decide
theorem ill_doe : Instr.wf (.getVersion ⟨130, none, []⟩) = false := by decide
theorem ill_tdisp : Instr.wf (.getTdispVersion ⟨2, none, 1, 0⟩) = false ∧ Instr.wf (.getTdispVersion ⟨0, none, 0, 0⟩) = false ∧
    Instr.wf (.getTdispVersion ⟨0, none, 65, 0⟩) = false := by decide
theorem ill_ide : Instr.wf (.query ⟨2, none, 0, 0, 0, false, 0, 0, [], true⟩) = false ∧
    Instr.wf (.query ⟨0, none, 256, 0, 0, false, 0, 0, [], true⟩) = false ∧
    Instr.wf (.query ⟨0, none, 0, 2, 0, false, 0, 0, [], true⟩) = false := by decide

/-- Commands a host, a peer and the block itself can send. -/
theorem well_formed : (∀ c ∈ [Instr.powerUp, .vfFlr 1, .vfFlr 129, .nop 63 4095, .tileIssue 15 15, .hostLinkDown 1,
    .ptSet ⟨1, none, 0, 0, 0, 0, false⟩, .ptSet ⟨65, some 63, 0, 0, 0, 0, false⟩, .registerWrite ⟨0, 2 ^ 27 - 1, [1], false⟩,
    .memoryWrite ⟨255, 3, 0, 0, 1, false, []⟩ [7], .getTdispVersion ⟨1, none, 64, 0⟩, .safeStateEntry (cause 0x0601 none 0),
    .startUpComplete { stackGib := List.replicate 8 (some 24), pinRate := 100, selfTestFailed := 0 }], c.wf = true) := by
  decide
theorem well_formed_request (op d : Nat) (h : d < 65536) : Instr.wf (.hello .pf (req op d [])) = true := by
  simp [Instr.wf, boxReq, Box.wf, Req.wf, Box.limit, req, h]

/-! ### Known answers of the cipher (FIPS 197 4.2, 5.1.1) and encodings of the lantern core (log 70) -/

theorem test_sbox : sbox 0x53 = 0xED ∧ sbox 0 = 0x63 ∧ invSbox 0xED = 0x53 ∧ gfMul 0x57 0x83 8 = 0xC1 := by decide +kernel

/-- The third instance of a routine. -/
def core3 : Lantern := Lantern.start 0 3 4 [] []
def runs1 (w : BitVec 32) (f : Lantern → Bool) : Bool :=
  match core3.run w 4 with
  | .next l => f l && l.pc == core3.pc + 4
  | _ => false
theorem test_core_integer : runs1 0x00700293 (fun l => l.rx 5 == 7) = true ∧ runs1 0x02A502B3 (fun l => l.rx 5 == 9) = true := by
  decide +kernel
theorem test_core_float : runs1 0xD0057053 (fun l => l.rf 0 == 0xFFFFFFFF40400000) = true ∧
    expand 0x0505 = some 0x00150513 := by decide +kernel

end
end

section
/-! What reads and writes of memory do: memories in canonical form are told apart by their bytes, and every write keeps the
canonical form of all memories and changes only the bytes it names. -/

namespace Sys2Proof.Machine

open Sys2Proof.Claims

/-! ### Memories that read alike -/

/-- Maps with rising keys are equal when every lookup agrees. -/
theorem nmap_ext {β : Type} {m n : NMap β} (hm : mrising none m = true) (hn : mrising none n = true)
    (h : ∀ a, mfind m a = mfind n a) : m = n := by
  induction m generalizing n with
  | nil =>
    cases n with
    | nil => rfl
    | cons q n => simpa [mfind] using h q.1
  | cons p m ih =>
    obtain ⟨k, v⟩ := p
    obtain ⟨-, hm'⟩ := mrising_cons.mp hm
    cases n with
    | nil => simpa [mfind] using h k
    | cons q n =>
      obtain ⟨l, w⟩ := q
      obtain ⟨-, hn'⟩ := mrising_cons.mp hn
      have hkl : k = l := by
        rcases Nat.lt_trichotomy k l with hlt | heq | hgt
        · have hk := h k
          simp [mfind, Nat.ne_of_gt hlt, mfind_none_of_above hn' (Nat.le_of_lt hlt)] at hk
        · exact heq
        · have hl := h l
          simp [mfind, Nat.ne_of_gt hgt, mfind_none_of_above hm' (Nat.le_of_lt hgt)] at hl
      subst hkl
      have hvw : v = w := by simpa [mfind] using h k
      have htail : m = n := ih (mrising_none hm') (mrising_none hn') fun a => by
        by_cases ha : k = a
        · subst ha
          rw [mfind_none_of_above hm' (Nat.le_refl k), mfind_none_of_above hn' (Nat.le_refl k)]
        · simpa [mfind, ha] using h a
      rw [hvw, htail]

/-- Where no entry is zero, no lookup gives zero. -/
theorem mfind_ne_some_zero {m : Cells} (h : m.all (fun c => c.2 != 0) = true) (a : Nat) : mfind m a ≠ some 0 := by
  induction m with
  | nil => simp
  | cons p m ih =>
    obtain ⟨k, v⟩ := p
    simp only [List.all_cons, Bool.and_eq_true, bne_iff_ne, ne_eq] at h
    by_cases hk : k = a
    · simpa [mfind, hk] using h.1
    · simpa [mfind, hk] using ih h.2

/-- Where no entry is zero, the lookups that succeed are the bytes that read other than zero. -/
theorem mfind_eq_some_iff {m : Cells} (h : m.all (fun c => c.2 != 0) = true) (a : Nat) (b : Byte) :
    mfind m a = some b ↔ readByte m a = b ∧ b ≠ 0 := by
  have hne := mfind_ne_some_zero h a
  unfold readByte
  cases hm : mfind m a with
  | none => simpa using fun h0 => h0.symm
  | some v =>
    rw [hm] at hne
    refine ⟨fun hv => ?_, fun hv => congrArg some hv.1⟩
    obtain rfl := Option.some_inj.mp hv
    exact ⟨rfl, fun h0 => hne (congrArg some h0)⟩

/-- Memories in canonical form that read alike are equal. -/
theorem memory_ext {m n : Cells} (hm : Memory.wf m = true) (hn : Memory.wf n = true)
    (h : ∀ a, readByte m a = readByte n a) : m = n := by
  simp only [Memory.wf, Bool.and_eq_true] at hm hn
  refine nmap_ext hm.1 hn.1 fun a => Option.ext fun b => ?_
  rw [mfind_eq_some_iff hm.2, mfind_eq_some_iff hn.2, h a]

/-! ### The canonical form of all memories of a state -/

/-- `MemoryOk` reads the host's memory, the block reserve and the definitions alone. -/
theorem memoryOk_of_eq {s t : State} (h : MemoryOk s) (hh : t.host = s.host) (hv : t.vault = s.vault)
    (hd : t.defs = s.defs) : MemoryOk t := by
  obtain ⟨hhost, hres, hdefs⟩ := h
  refine ⟨fun fn => ?_, hv ▸ hres, fun id d hg => hdefs id d ?_⟩
  · simpa only [hostMem, hh] using hhost fn
  · simpa only [getDef, hd] using hg

/-- An update of one definition keeps the canonical form when it keeps that definition's. -/
theorem memoryOk_setDef {s : State} {id : Nat} {f : Def → Def} (h : MemoryOk s)
    (hf : ∀ d, Memory.wf d.mem = true → Memory.wf d.persist = true →
      Memory.wf (f d).mem = true ∧ Memory.wf (f d).persist = true) : MemoryOk (setDef s id f) := by
  obtain ⟨hhost, hres, hdefs⟩ := h
  refine ⟨hhost, hres, fun i d hg => ?_⟩
  by_cases hi : i = id
  · subst hi
    rw [getDef_setDef_self, Option.map_eq_some_iff] at hg
    obtain ⟨d₀, hd₀, rfl⟩ := hg
    exact hf d₀ (hdefs i d₀ hd₀).1 (hdefs i d₀ hd₀).2
  · rw [getDef_setDef_ne s f hi] at hg
    exact hdefs i d hg

theorem memoryOk_hostWrite {s : State} (fn a : Nat) (bs : List Byte) (h : MemoryOk s) : MemoryOk (hostWrite s fn a bs) := by
  obtain ⟨hhost, hres, hdefs⟩ := h
  exact ⟨fun g => wf_hostWrite fn a bs g hhost, hres, hdefs⟩

/-- A charge for a host transfer changes the slots alone. -/
theorem chargeBound_frame (d : Def) (n : Nat) (wr : Bool) (s : State) :
    chargeBound d n wr s = { s with slots := (chargeBound d n wr s).slots } := by
  unfold chargeBound
  split <;> rfl

/-- Without a dirty log, marking a page changes nothing; with one, it writes one byte of host memory and the log's own copy,
charged to the slot (R130). -/
theorem markDirty_cases (id off : Nat) (s : State) :
    markDirty id off s = s ∨
    ∃ d l fn a bs sl bits, getDef s id = some d ∧ d.dirty = some l ∧
      markDirty id off s = setDef { hostWrite s fn a bs with slots := sl } id
        (fun d => { d with dirty := some { l with bits := bits } }) := by
  unfold markDirty
  split
  · exact .inl rfl
  next d hd =>
    dsimp only
    split
    · exact .inl rfl
    next l hl =>
      rw [chargeBound_frame d 1 true, chargeBound_frame d 1 false]
      exact .inr ⟨d, l, _, _, _, _, _, hd, hl, rfl⟩

theorem memoryOk_markDirty {s : State} (id off : Nat) (h : MemoryOk s) : MemoryOk (markDirty id off s) := by
  rcases markDirty_cases id off s with heq | ⟨d, l, fn, a, bs, sl, bits, -, -, heq⟩
  · rwa [heq]
  · rw [heq]
    exact memoryOk_setDef (memoryOk_of_eq (memoryOk_hostWrite fn a bs h) rfl rfl rfl) fun d hm hp => ⟨hm, hp⟩

/-- A write of partition memory keeps every memory's canonical form. -/
theorem memoryOk_memWrite {s : State} (id off : Nat) (bs : List Byte) (h : MemoryOk s) : MemoryOk (memWrite id off bs s) :=
  List.foldlRecOn _ _ (memoryOk_setDef h fun _ hm hp => ⟨wf_writeBytes off bs hm, hp⟩)
    fun _ ht p _ => memoryOk_markDirty id p ht

/-- Noting which bytes of an attended page change touches no memory. -/
theorem memoryOk_noteWrite {s : State} (id va : Nat) (bs : List Byte) (h : MemoryOk s) : MemoryOk (noteWrite id va bs s) := by
  unfold noteWrite
  split
  · exact h
  · split
    · dsimp only
      split
      · exact h
      · exact memoryOk_setDef h fun _ hm hp => ⟨hm, hp⟩
    · exact h

theorem memoryOk_storePieces {s : State} (id : Nat) (l : List (Nat × Nat)) (bs : List Byte) (h : MemoryOk s) :
    MemoryOk (storePieces id l bs s) := by
  induction l generalizing bs s with
  | nil => exact h
  | cons p l ih =>
    obtain ⟨va, n⟩ := p
    unfold storePieces
    split
    · exact h
    · have hnote := memoryOk_noteWrite id va (bs.take n) h
      refine ih _ ?_
      split
      · exact memoryOk_memWrite id _ _ hnote
      · exact memoryOk_hostWrite _ _ _ hnote
      · exact hnote

/-- A write to the partition's address space keeps every memory's canonical form. -/
theorem memoryOk_writeVa {s : State} (id va : Nat) (bs : List Byte) (h : MemoryOk s) : MemoryOk (writeVa id va bs s) :=
  memoryOk_storePieces id _ bs h

/-! ### What a write of partition memory changes -/

/-- From `s` to `t`, a definition changes in its dirty log alone; without one, the host's memory stays. -/
def DirtyOnly (id : Nat) (d : Def) (s t : State) : Prop :=
  OthersKept id s t ∧ ∃ x, getDef t id = some { d with dirty := x } ∧ (d.dirty = none → x = none ∧ t.host = s.host)

/-- Marking a page goes on from one state that differs in the dirty log alone to another. -/
theorem dirtyOnly_markDirty {id : Nat} {d : Def} {s t : State} (off : Nat) (h : DirtyOnly id d s t) :
    DirtyOnly id d s (markDirty id off t) := by
  rcases markDirty_cases id off t with heq | ⟨e, l, fn, a, bs, sl, bits, he, hl, heq⟩
  · rwa [heq]
  · obtain ⟨hkept, x, hx, hnone⟩ := h
    rw [heq]
    refine ⟨fun i hi => (getDef_setDef_ne _ _ hi).trans (hkept i hi), some { l with bits := bits }, ?_, fun hd => ?_⟩
    · have hx' : getDef { hostWrite t fn a bs with slots := sl } id = some { d with dirty := x } := hx
      rw [getDef_setDef_self, hx']
      rfl
    · obtain rfl : e = { d with dirty := x } := Option.some_inj.mp (he.symm.trans hx)
      simp [(hnone hd).1] at hl

/-- A write of partition memory changes the definition as `Def.write` says, and its dirty log. -/
theorem dirtyOnly_memWrite {id off : Nat} {bs : List Byte} {d : Def} {s : State} (h : getDef s id = some d) :
    DirtyOnly id (d.write off bs) s (memWrite id off bs s) := by
  refine List.foldlRecOn _ _ ⟨fun i hi => getDef_setDef_ne s _ hi, d.dirty, ?_, fun hd => ⟨hd, rfl⟩⟩
    fun _ ht p _ => dirtyOnly_markDirty p ht
  rw [getDef_setDef_self, h]
  rfl

/-- Settles O60, from the rules of one write: the canonical form tells memories apart by their bytes, and a write changes the
definition's bytes and its dirty log alone. -/
theorem memoryCanonical : Obligations.MemoryCanonical := by
  refine ⟨fun _ _ => memory_ext, fun id off bs _ => memoryOk_memWrite id off bs,
    fun id va bs _ => memoryOk_writeVa id va bs, fun id off bs d s h hd => ?_⟩
  obtain ⟨hkept, x, hx, hhost⟩ := dirtyOnly_memWrite (off := off) (bs := bs) hd
  obtain ⟨-, -, hdefs⟩ := h
  exact ⟨_, hx, hkept, readBytes_writeBytes off bs (hdefs id d hd).1, fun a => readByte_writeBytes_out d.mem off a bs,
    fun hnone => (hhost hnone).2⟩

end Sys2Proof.Machine
end

section
/-! What a host write of BAR0 comes to: the place an offset leads to, the bytes of the value, and the register's own write. -/

namespace Sys2Proof.Machine

/-! ### Bytes of a value (R7) -/

@[simp] theorem length_leBytes (n v : Nat) : (leBytes n v).length = n := by
  induction n generalizing v with
  | zero => rfl
  | succ n ih => simp [leBytes, ih]

/-- The bytes of a number that fits spell that number. -/
theorem leNat_leBytes {n v : Nat} (h : v < 256 ^ n) : leNat (leBytes n v) = v := by
  induction n generalizing v with
  | zero => simp_all [leBytes, leNat]
  | succ n ih =>
    have hdiv : v / 256 < 256 ^ n := by rw [Nat.pow_succ] at h; omega
    simp only [leBytes, leNat, ih hdiv, BitVec.toNat_ofNat]
    omega

theorem leNat_leBytes_word {v : Nat} (h : v < 2 ^ 64) : leNat (leBytes 8 v) = v := leNat_leBytes (by omega)

/-! ### Where an offset of the first PF lies (R464, R520) -/

/-- Below the doorbell area, outside the fault blocks and the mailbox, the PF's own registers lie. -/
theorem placeOf_pf {o : Nat} (ho : o < 0x100000) (hb : ∀ p ∈ blockBases, ¬(p.2 ≤ o ∧ o < p.2 + 0x200))
    (hm : ¬(0x10000 ≤ o ∧ o < 0x15000)) : placeOf 0 o = .pf o := by
  have hnone : blockBases.find? (fun p => p.2 ≤ o && o < p.2 + 0x200) = none := by
    simpa [List.find?_eq_none] using hb
  have harea : ¬0x100000 ≤ o := by omega
  have hbox : 0x10000 ≤ o → 0x15000 ≤ o := by omega
  simpa [placeOf, pfPlace, portOf, hnone, harea, ho] using hbox

theorem placeOf_ident {o : Nat} (ho : o < 0x10000) : placeOf 0 o = .pf o := by
  have hall : ∀ p ∈ blockBases, 0x10000 ≤ p.2 := by decide
  exact placeOf_pf (by omega) (fun p hp => by have := hall p hp; omega) (by omega)

/-- The power area is the PF's own up to its fault block. -/
theorem placeOf_power {o : Nat} (hlo : 0x80000 ≤ o) (hhi : o < 0x8F000) : placeOf 0 o = .pf o := by
  have hall : ∀ p ∈ blockBases, p.2 + 0x200 ≤ 0x80000 ∨ 0x8F000 ≤ p.2 := by decide
  exact placeOf_pf (by omega) (fun p hp => by have := hall p hp; omega) (by omega)

theorem placeOf_blockBase {u base : Nat} (h : (u, base) ∈ blockBases) : placeOf 0 base = .block u 0 := by
  have hall : ∀ p ∈ blockBases, placeOf 0 p.2 = .block p.1 0 := by
    simp only [blockBases, List.forall_mem_cons]
    exact ⟨rfl, rfl, rfl, rfl, rfl, rfl, rfl, rfl, rfl, rfl, rfl, rfl, rfl, List.forall_mem_nil _⟩
  exact hall _ h

theorem blockBase_aligned {u base : Nat} (h : (u, base) ∈ blockBases) : base % 8 = 0 := by
  have hall : ∀ p ∈ blockBases, p.2 % 8 = 0 := by decide
  exact hall _ h

/-! ### A host write of the first PF (R521) -/

variable {s : State} {w : Bool} {off : Nat}

theorem hostReaches_pf0 : hostReaches s 0 w = true := by simp [hostReaches, portOf]

/-- Eight aligned bytes at a register of the PF's map, while the block operates. -/
theorem barWrite_pf {v : Nat} (hop : operating s = true) (hp : placeOf 0 off = .pf off) (ho : off % 8 = 0)
    (hv : v < 2 ^ 64) : barWrite ⟨0, off, leBytes 8 v, w⟩ s = pfWrite off v s := by
  simp [barWrite, hostReaches_pf0, hp, writable, hop, ho, isArray, regWrite, leNat_leBytes_word hv]

/-- Eight aligned bytes at a register of a fault block, in any state. -/
theorem barWrite_block {u o v : Nat} (hp : placeOf 0 off = .block u o) (ho : off % 8 = 0) (h30 : o < 0x30)
    (hv : v < 2 ^ 64) : barWrite ⟨0, off, leBytes 8 v, w⟩ s = setBlock s u (fun b => b.put 0xFFFF o v) := by
  have harr : ¬0x100 ≤ o := by omega
  simp [barWrite, hostReaches_pf0, hp, writable, alwaysWritable, ho, isArray, regWrite, h30, harr, leNat_leBytes_word hv]

/-- Eight aligned bytes at a register of the PF's mailbox, in any state. -/
theorem barWrite_box {o v : Nat} (hp : placeOf 0 off = .box .pf o) (ho : off % 8 = 0) (h38 : o < 0x38)
    (hv : v < 2 ^ 64) : barWrite ⟨0, off, leBytes 8 v, w⟩ s = boxWrite .pf o v s := by
  have hbuf : ¬0x1000 ≤ o := by omega
  have hreg : ¬0x38 ≤ o := by omega
  simp [barWrite, hostReaches_pf0, hp, writable, alwaysWritable, ho, reqBase, hbuf, hreg, leNat_leBytes_word hv]

/-- Another shape of write at a register of the PF's map is discarded. -/
theorem barWrite_pf_unaligned {data : List Byte} (hp : placeOf 0 off = .pf off) (h : data.length ≠ 8 ∨ off % 8 ≠ 0) :
    barWrite ⟨0, off, data, w⟩ s = s := by
  have hal : (data.length == 8 && off % 8 == 0) = false := by
    rcases h with h | h <;> simp [h]
  simp [barWrite, hp, hal]

/-- IDENT takes no write. -/
theorem barWrite_ident {data : List Byte} (h : off < 0x10000) : barWrite ⟨0, off, data, w⟩ s = s := by
  have h0 : off / 0x10000 = 0 := by omega
  simp [barWrite, placeOf_ident h, regWrite, pfWrite, h0]

/-! ### The rows that bring a host write -/

theorem exec_registerWrite {hw : HostWrite} (h : alive s = true) : exec (.registerWrite hw) s = .next (barWrite hw s) :=
  congrArg Host.Outcome.next (whenAlive_of h)

/-- A row that names one register brings the write to that register. -/
theorem writeTo_of {at_ : Place → Bool} {p : Place} {data : List Byte} (h : alive s = true) (hp : placeOf 0 off = p)
    (ha : at_ p = true) : writeTo at_ ⟨0, off, data, w⟩ s = .next (barWrite ⟨0, off, data, w⟩ s) := by
  simp [writeTo, whenAlive_of h, hp, ha]

theorem exec_pwrCtrlWrite {data : List Byte} (h : alive s = true) :
    exec (.pwrCtrlWrite ⟨0, 0x80008, data, w⟩) s = .next (barWrite ⟨0, 0x80008, data, w⟩ s) :=
  writeTo_of (p := .pf 0x80008) h rfl rfl

theorem exec_answerValidClear {data : List Byte} (h : alive s = true) :
    exec (.answerValidClear ⟨0, 0x10008, data, w⟩) s = .next (barWrite ⟨0, 0x10008, data, w⟩ s) :=
  writeTo_of (p := .box .pf 0x08) h rfl rfl

theorem exec_noticeHeadWrite {data : List Byte} (h : alive s = true) :
    exec (.noticeHeadWrite ⟨0, 0x10018, data, w⟩) s = .next (barWrite ⟨0, 0x10018, data, w⟩ s) :=
  writeTo_of (p := .box .pf 0x18) h rfl rfl

/-! ### The registers -/

/-- A mode field holds its old value or one of those it may take (R387). -/
theorem modeField_cases {n : Nat} (old : BitVec n) (v : Nat) (allowed : List Nat) :
    modeField old v allowed = old ∨ ∃ a ∈ allowed, modeField old v allowed = BitVec.ofNat n a := by
  unfold modeField
  split
  next h => exact .inr ⟨v, List.contains_iff_mem.mp h, rfl⟩
  · exact .inl rfl

/-- A mode field of two values holds its old value or one of the two. -/
theorem modeField_pair (old : BitVec 2) (v a b : Nat) :
    modeField old v [a, b] = old ∨ modeField old v [a, b] = BitVec.ofNat 2 a ∨ modeField old v [a, b] = BitVec.ofNat 2 b := by
  simpa using modeField_cases old v [a, b]

/-- Until it is locked, a write of VLT.SEVERITY leaves in each field its old value or one that R387 permits. -/
theorem vltWrite_severity {v : Nat} (h : s.vault.lock = false) :
    ∃ t, vltWrite 0x800 v s = t ∧ t = { s with vault := { s.vault with
        keyCheck := t.vault.keyCheck, tagFail := t.vault.tagFail, eccUnc := t.vault.eccUnc, lock := v.testBit 63 } } ∧
      (t.vault.keyCheck = s.vault.keyCheck ∨ t.vault.keyCheck = 0 ∨ t.vault.keyCheck = 2) ∧
      (t.vault.tagFail = s.vault.tagFail ∨ t.vault.tagFail = 1 ∨ t.vault.tagFail = 2) ∧
      (t.vault.eccUnc = s.vault.eccUnc ∨ t.vault.eccUnc = 1 ∨ t.vault.eccUnc = 2) := by
  refine ⟨_, rfl, ?_⟩
  simp only [vltWrite, h]
  exact ⟨rfl, modeField_pair _ _ 0 2, modeField_pair _ _ 1 2, modeField_pair _ _ 1 2⟩

/-- The dome clock that `setClock` leaves exceeds none of its limits (R448). -/
theorem setClock_le (s : State) :
    (setClock s).power.clock ≤ s.power.freqCap ∧ (setClock s).power.clock ≤ s.power.ftarget ∧
      (setClock s).power.clock ≤ s.power.thermal := by
  simp only [setClock]
  omega

/-- A write of PWR.CTRL sets the cap and PEAK_DISABLE, and the clock follows at once (R447, R460). -/
theorem pwrCtrl_eq (v : Nat) (s : State) :
    ∃ t, pwrCtrl v s = t ∧ t = { s with power := { s.power with
        freqCap := min Config.binTop (max 400 (v / 2 ^ 32 % 2 ^ 16 / 25 * 25)), peakDisable := v.testBit 0
        envelope := s.power.envelope || v.testBit 0, clock := t.power.clock } } ∧
      t.power.clock ≤ t.power.freqCap ∧ t.power.clock ≤ s.power.ftarget ∧ t.power.clock ≤ s.power.thermal :=
  ⟨_, rfl, rfl, setClock_le _⟩

/-! ### Notices (R437) -/

/-- The second write of a key replaces the first. -/
@[simp] theorem mput_mput {β : Type} (m : NMap β) (a : Nat) (b c : β) : mput (mput m a b) a c = mput m a c := by
  induction m with
  | nil => simp [mput]
  | cons p m ih =>
    obtain ⟨k, v⟩ := p
    rcases Nat.lt_trichotomy a k with h | rfl | h
    · simp [mput, h]
    · simp [mput]
    · simp [mput, Nat.lt_asymm h, Nat.ne_of_gt h, ih]

/-- Two updates of one mailbox are one. -/
theorem setBox_setBox (s : State) (b : Box) (f g : Mbox → Mbox) :
    setBox (setBox s b f) b g = setBox s b (fun m => g (f m)) := by
  cases b <;> simp [setBox, setFn, getFn]

/-- With no notice held, the ring takes none. -/
theorem drainNotices_nil {s : State} {b : Box} (fuel : Nat) (h : (getBox s b).heldNotices = []) :
    drainNotices fuel b s = s := by
  cases fuel with
  | zero => rfl
  | succ fuel => simp [drainNotices, h]

/-- A mailbox whose one held notice enters the ring. -/
def ringTakes (n : List Byte) (m : Mbox) : Mbox :=
  { m with heldNotices := [], ring := mput m.ring (m.noticeTail.toNat % 16) n, noticeTail := m.noticeTail + 1 }

/-- With a session and room in the ring, the one notice held enters it, and at most an interrupt goes out. -/
theorem drainNotices_one {s : State} {m : Mbox} {n : List Byte} (fuel : Nat) (hm : getBox s .pf = m)
    (h : m.heldNotices = [n]) (hs : m.session.isSome = true) (hr : (m.noticeTail - m.noticeHead).toNat < 16) :
    ∃ l, drainNotices (fuel + 1) .pf s = { setBox s .pf (ringTakes n) with outs := l } := by
  subst hm
  obtain ⟨l, hl⟩ := raise_frame (setBox s .pf (ringTakes n)) 0 (getBox s .pf).vecEn (getBox s .pf).vec
  have hone : drainNotices (fuel + 1) .pf s = drainNotices fuel .pf { setBox s .pf (ringTakes n) with outs := l } := by
    rw [← hl]
    simp only [drainNotices, h, hs, hr, decide_true, Bool.and_self, if_true]
    rfl
  refine ⟨l, hone.trans (drainNotices_nil fuel ?_)⟩
  exact congrArg Mbox.heldNotices (getBox_setBox_self s .pf (ringTakes n))

/-- The mailbox after its notice head is written. -/
theorem getBox_headWritten (s : State) (b : Box) (v : BitVec 32) :
    getBox (setBox s b (fun m => { m with noticeHead := v })) b = { getBox s b with noticeHead := v } :=
  getBox_setBox_self s b _

/-! ### The statement -/

/-- Settles O9, register by register: the row brings the write to its place, and the place's own write is the effect. -/
theorem registerWrites : Obligations.RegisterWrites := by
  refine ⟨?budgetHit, ?locked, ?severity, ?faultSrc, ?ident, ?unaligned, ?pwrCtrl, ?clears, ?keeps, ?headOnly, ?drains⟩
  case budgetHit =>
    intro w v s hop hv
    rw [exec_registerWrite (operating_iff.mp hop).1, barWrite_pf hop (placeOf_power (by decide) (by decide)) rfl hv]
    rfl
  case locked =>
    intro w v s hop hv hl
    rw [exec_registerWrite (operating_iff.mp hop).1, barWrite_pf hop rfl rfl hv]
    simp [pfWrite, vltWrite, hl]
  case severity =>
    intro w v s hop hv hl
    obtain ⟨t, ht, hframe, hfields⟩ := vltWrite_severity (v := v) hl
    refine ⟨t, ?_, hframe, hfields⟩
    rw [exec_registerWrite (operating_iff.mp hop).1, barWrite_pf hop rfl rfl hv, ← ht]
    rfl
  case faultSrc =>
    intro w u base v s ha hb hv
    rw [exec_registerWrite ha, barWrite_block (placeOf_blockBase hb) (blockBase_aligned hb) (by decide) hv]
    rfl
  case ident =>
    intro w off data s ha ho
    rw [exec_registerWrite ha, barWrite_ident ho]
  case unaligned =>
    intro w off data s ha hlo hhi hshape
    rw [exec_registerWrite ha, barWrite_pf_unaligned (placeOf_power hlo hhi) hshape]
  case pwrCtrl =>
    intro w v s hop hv
    obtain ⟨t, ht, hframe, hclock⟩ := pwrCtrl_eq v s
    refine ⟨t, ?_, hframe, hclock⟩
    rw [exec_pwrCtrlWrite (operating_iff.mp hop).1, barWrite_pf hop rfl rfl hv, ← ht]
    rfl
  case clears =>
    intro w v s ha hv hbit
    rw [exec_answerValidClear ha, barWrite_box (o := 8) rfl rfl (by decide) hv]
    simp [boxWrite, bit, hbit]
  case keeps =>
    intro w v s ha hv hbit
    rw [exec_answerValidClear ha, barWrite_box (o := 8) rfl rfl (by decide) hv]
    simp [boxWrite, bit, hbit]
  case headOnly =>
    intro w v s ha hv hheld
    rw [exec_noticeHeadWrite ha, barWrite_box (o := 0x18) rfl rfl (by decide) hv]
    exact congrArg _ (drainNotices_nil 257 (by rw [getBox_headWritten]; exact hheld))
  case drains =>
    intro w v n s ha hv hheld hses hroom
    obtain ⟨l, hl⟩ := drainNotices_one 256 (getBox_headWritten s .pf (BitVec.ofNat 32 v)) hheld hses hroom
    rw [exec_noticeHeadWrite ha, barWrite_box (o := 0x18) rfl rfl (by decide) hv]
    refine ⟨_, congrArg _ hl, ?_⟩
    rw [setBox_setBox]
    rfl

end Sys2Proof.Machine
end

section
/-! What a host read of the first PF's BAR0 returns, latches and clears. -/

namespace Sys2Proof.Machine

/-! ### A part of a value's bytes (R7) -/

/-- The lowest bytes of a value, read alone. -/
theorem take_leBytes {m n : Nat} (h : m ≤ n) (v : Nat) : (leBytes n v).take m = leBytes m v := by
  induction m generalizing n v with
  | zero => rfl
  | succ m ih =>
    cases n with
    | zero => omega
    | succ n => simp [leBytes, ih (Nat.le_of_succ_le_succ h)]

/-- The upper four bytes of eight are those of the upper word. -/
theorem upperWord_leBytes (v : Nat) : ((leBytes 8 v).drop 4).take 4 = leBytes 4 (v / 2 ^ 32) := by
  simp [leBytes, Nat.div_div_eq_div_mul]

/-! ### One element of a list -/

theorem setNth_eq_modify {β : Type} (l : List β) (i : Nat) (f : β → β) : setNth l i f = l.modify i f := by
  induction l generalizing i with
  | nil => simp [setNth]
  | cons x l ih => cases i <;> simp [setNth, ih]

theorem getElem?_setNth_self {β : Type} {l : List β} {i : Nat} {x : β} (f : β → β) (h : l[i]? = some x) :
    (setNth l i f)[i]? = some (f x) := by
  simp [setNth_eq_modify, h]

theorem getElem?_setNth_ne {β : Type} (l : List β) {i j : Nat} (f : β → β) (h : j ≠ i) : (setNth l i f)[j]? = l[j]? := by
  simp [setNth_eq_modify, Ne.symm h]

/-! ### Which registers a read reaches (R480, R494, R521) -/

variable {s : State} {w : Bool} {off size : Nat}

/-- What is readable both before READY and in the safe state is always readable. -/
theorem readable_of_always {p : Place} (hs : safeReadable p = true) (he : earlyReadable p = true) : readable s p = true := by
  unfold readable
  split <;> simp [hs, he]

/-- While the block operates, every place is readable. -/
theorem readable_of_operating (p : Place) (h : operating s = true) : readable s p = true := by
  obtain ⟨-, hsafe, hready⟩ := operating_iff.mp h
  simp [readable, shutDown, heldStop, hsafe, hready]

/-- A permitted read of a register answers the bytes it covers, and what the read latches or clears follows. -/
theorem barRead_register {p : Place} (hp : placeOf 0 off = p) (hr : readable s p = true) (ha : isArray p = false)
    (hok : readOk false off size = true) :
    barRead ⟨0, off, size, w⟩ s = emit (afterRead 0 w p size s)
      (.readData 0 (((leBytes 8 (regSeen s ⟨0, off, size, w⟩ p)).drop (off % 8)).take size)) := by
  simp [barRead, hostReaches_pf0, hp, hr, ha, hok]

/-- A read that R521 does not permit returns zeros and has no side effect. -/
theorem barRead_notOk {p : Place} (hp : placeOf 0 off = p) (hok : readOk (isArray p) off size = false) :
    barRead ⟨0, off, size, w⟩ s = emit s (.readData 0 (List.replicate size 0)) := by
  simp [barRead, hp, hok]

theorem exec_rcFieldRead {r : HostRead} (h : alive s = true) : exec (.rcFieldRead r) s = .next (barRead r s) :=
  congrArg Host.Outcome.next (whenAlive_of h)

theorem exec_bellNowRead (h : alive s = true) (ho : off / 8 * 8 = 0x40000) :
    exec (.bellNowRead ⟨0, off, size, w⟩) s = .next (barRead ⟨0, off, size, w⟩ s) := by
  refine congrArg Host.Outcome.next ((whenAlive_of h).trans ?_)
  simp [ho]

/-! ### BELL.NOW (R78) -/

/-- What a read of the low half latches: the high half of the nanoseconds and the upper 16 bits of the fraction. -/
theorem latchBell_eq (s : State) : latchBell s = { s with bell := { s.bell with
    latchHi := s.bell.ns.extractLsb' 32 32, latchFrac := s.bell.fine.extractLsb' 24 16 } } := by
  simp only [latchBell, BitVec.extractLsb', Nat.shiftRight_eq_div_pow]

/-- A read of the low half, alone or with the high half, returns the bell of now and latches it. -/
theorem barRead_bellLow (h : size = 4 ∨ size = 8) :
    barRead ⟨0, 0x40000, size, w⟩ s = emit (latchBell s) (.readData 0 (leBytes size s.bell.ns.toNat)) := by
  rw [barRead_register (p := .pf 0x40000) rfl (readable_of_always rfl rfl) rfl (by rcases h with rfl | rfl <;> rfl)]
  refine congrArg (fun l => emit (latchBell s) (.readData 0 l)) ?_
  exact take_leBytes (by omega) _

/-- A read of the high half alone returns the latch and latches nothing. -/
theorem barRead_bellHigh :
    barRead ⟨0, 0x40004, 4, w⟩ s = emit s (.readData 0 (leBytes 4 s.bell.latchHi.toNat)) := by
  rw [barRead_register (p := .pf 0x40004) rfl (readable_of_always rfl rfl) rfl rfl]
  refine congrArg (fun l => emit s (.readData 0 l)) ((upperWord_leBytes _).trans ?_)
  exact congrArg (leBytes 4) (Nat.mul_div_cancel s.bell.latchHi.toNat (by decide))

/-! ### Overflow counts, discards and FLT.SAFE (R417, R465, R482) -/

theorem placeOf_blockOvf {u base : Nat} (h : (u, base) ∈ blockBases) : placeOf 0 (base + 0x28) = .block u 0x28 := by
  have hall : ∀ p ∈ blockBases, placeOf 0 (p.2 + 0x28) = .block p.1 0x28 := by
    simp only [blockBases, List.forall_mem_cons]
    exact ⟨rfl, rfl, rfl, rfl, rfl, rfl, rfl, rfl, rfl, rfl, rfl, rfl, rfl, List.forall_mem_nil _⟩
  exact hall _ h

/-- A read of a fault block's overflow count returns it and clears it. -/
theorem barRead_blockOvf {u base : Nat} (h : (u, base) ∈ blockBases) :
    barRead ⟨0, base + 0x28, 8, w⟩ s = emit (setBlock s u (fun b => { b with ovf := 0 }))
      (.readData 0 (leBytes 8 (getBlock s u).ovf.toNat)) := by
  have hal : (base + 0x28) % 8 = 0 := by have := blockBase_aligned h; omega
  rw [barRead_register (placeOf_blockOvf h) (readable_of_always rfl rfl) rfl (by simp [readOk, hal]), hal]
  simp [afterRead, regSeen, regAt, blockReg, take_leBytes]

/-- A read of the mailbox's discard count returns it and clears it. -/
theorem barRead_boxDiscards :
    barRead ⟨0, 0x10030, 8, w⟩ s = emit (setBox s .pf (fun m => { m with discards := 0 }))
      (.readData 0 (leBytes 8 (getBox s .pf).discards.toNat)) := by
  rw [barRead_register (p := .box .pf 0x30) rfl (readable_of_always rfl rfl) rfl rfl]
  rfl

/-- A read of FLT.SAFE only returns it. -/
theorem barRead_fltSafe :
    barRead ⟨0, 0x20000, 8, w⟩ s = emit s (.readData 0 (leBytes 8 (fltSafeReg s.flt))) := by
  rw [barRead_register (p := .pf 0x20000) rfl (readable_of_always rfl rfl) rfl rfl]
  rfl

/-! ### The counters of a memory port (R388) -/

/-- The vault area is the PF's own up to its fault block. -/
theorem placeOf_vault {o : Nat} (hlo : 0xA0000 ≤ o) (hhi : o < 0xAF000) : placeOf 0 o = .pf o := by
  have hall : ∀ p ∈ blockBases, p.2 + 0x200 ≤ 0xA0000 ∨ 0xAF000 ≤ p.2 := by decide
  exact placeOf_pf (by omega) (fun p hp => by have := hall p hp; omega) (by omega)

/-- A permitted read in a port's register clears what it covers of that port's counters, and nothing else. -/
theorem barRead_vaultPort {n k : Nat} (hop : operating s = true) (hn : n < 8) (hk : k < 8)
    (hoff : off = 0xA0000 + 0x40 * n + k) (hok : readOk false off size = true) :
    barRead ⟨0, off, size, w⟩ s =
      emit { s with vault := { s.vault with ports := setNth s.vault.ports n (clearPort k size) } }
        (.readData 0 (((leBytes 8 (vltReg s (0x40 * n))).drop k).take size)) := by
  have hreg : off / 8 * 8 = 0xA0000 + 0x40 * n := by omega
  have hbyte : off % 8 = k := by omega
  have harea : (0xA0000 + 0x40 * n) / 0x10000 = 0xA := by omega
  have hplace : (0xA0000 + 0x40 * n) % 0x10000 = 0x40 * n := by omega
  have hnth : 0x40 * n / 0x40 = n := by omega
  have hbell : ¬0xA0000 + 0x40 * n = 0x40000 := by omega
  have hin : 0x40 * n < 0x200 := by omega
  have hstart : (0xA0000 + 0x40 * n) % 0x40 = 0 := by omega
  have hhigh : off ≠ 0x40004 := by omega
  rw [barRead_register (placeOf_vault (by omega) (by omega)) (readable_of_operating _ hop) rfl hok]
  simp [afterRead, afterPf, regSeen, regAt, pfReg, hreg, hbyte, harea, hplace, hnth, hbell, hin, hstart, hhigh]

/-- A port's register shows its corrected errors in the upper word. -/
theorem vltReg_upperWord {n : Nat} {p : VltPort} (hn : n < 8) (hp : s.vault.ports[n]? = some p) :
    vltReg s (0x40 * n) / 2 ^ 32 = p.eccCorrected.toNat := by
  have hin : 0x40 * n < 0x200 := by omega
  have hport : 0x40 * n % 0x1000 / 0x40 = n := by omega
  have hpatrol : bitAt p.patrol 1 ≤ 2 := by cases p.patrol <;> decide
  have hthere : bitAt (decide (n < ports s)) 0 ≤ 1 := by cases decide (n < ports s) <;> decide
  have hpoison := p.poisonNew.isLt
  have htag := p.tagFail.isLt
  simp only [vltReg, hport, hin, nth, List.getD_eq_getElem?_getD, hp, Option.getD_some, Nat.mul_mod_right, decide_true,
    beq_self_eq_true, Bool.and_self, if_true]
  omega

/-- A read of a whole port register clears its three counters. -/
theorem clearPort_whole (p : VltPort) : clearPort 0 8 p = { p with eccCorrected := 0, poisonNew := 0, tagFail := 0 } := rfl

/-- A read of the upper word clears the corrected errors alone. -/
theorem clearPort_upper (p : VltPort) : clearPort 4 4 p = { p with eccCorrected := 0 } := rfl

/-! ### The statement -/

/-- Settles O8, register by register: the row brings the read to its place, which answers and clears. -/
theorem registerReads : Obligations.RegisterReads := by
  refine ⟨?bellWhole, ?bellLow, ?bellHigh, ?overflow, ?portWhole, ?portUpper, ?discards, ?fltSafe, ?unaligned⟩
  case bellWhole =>
    intro w s ha
    refine ⟨_, (exec_bellNowRead ha rfl).trans (congrArg _ (barRead_bellLow (.inr rfl))), ?_⟩
    rw [latchBell_eq]
    exact ⟨rfl, rfl, rfl⟩
  case bellLow =>
    intro w s ha
    refine ⟨_, (exec_bellNowRead ha rfl).trans (congrArg _ (barRead_bellLow (.inl rfl))), ?_⟩
    rw [latchBell_eq]
    exact ⟨rfl, rfl, rfl⟩
  case bellHigh =>
    intro w s ha
    rw [exec_bellNowRead ha rfl, barRead_bellHigh]
    rfl
  case overflow =>
    intro w u base s ha hb
    exact ⟨_, (exec_rcFieldRead ha).trans (congrArg _ (barRead_blockOvf hb)), rfl, rfl⟩
  case portWhole =>
    intro w n p s hop hn hp
    have hok : readOk false (0xA0000 + 0x40 * n) 8 = true := by simp [readOk]; omega
    refine ⟨_, (exec_rcFieldRead (operating_iff.mp hop).1).trans
      (congrArg _ (barRead_vaultPort (k := 0) hop hn (by decide) rfl hok)), rfl, ?_, fun m hm => getElem?_setNth_ne _ _ hm⟩
    rw [← clearPort_whole]
    exact getElem?_setNth_self _ hp
  case portUpper =>
    intro w n p s hop hn hp
    have hok : readOk false (0xA0004 + 0x40 * n) 4 = true := by simp [readOk]; omega
    refine ⟨_, (exec_rcFieldRead (operating_iff.mp hop).1).trans
      (congrArg _ (barRead_vaultPort (k := 4) hop hn (by decide) (by omega) hok)), ?_, ?_,
      fun m hm => getElem?_setNth_ne _ _ hm⟩
    · rw [upperWord_leBytes, vltReg_upperWord hn hp]
      rfl
    · rw [← clearPort_upper]
      exact getElem?_setNth_self _ hp
  case discards =>
    intro w s ha
    exact ⟨_, (exec_rcFieldRead ha).trans (congrArg _ barRead_boxDiscards), rfl, rfl⟩
  case fltSafe =>
    intro w s ha
    rw [exec_rcFieldRead ha, barRead_fltSafe]
    rfl
  case unaligned =>
    intro w off s ha ho hal
    rw [exec_rcFieldRead ha, barRead_notOk (placeOf_ident ho) (by simp [isArray, readOk, hal])]
    rfl

end Sys2Proof.Machine
end

section
/-! The carillon table that a reset leaves. -/

namespace Sys2Proof.Machine

open Sys2Proof.Claims

/-- In the default table every owner byte is `OPEN` (R88). -/
theorem ownerAt_dflt (i res : Nat) : ownerAt Table.dflt i res = ownerOpen := rfl

/-- In the default table no entry forbids lending (R88). -/
theorem noLend_dflt (i : Nat) : noLend Table.dflt i = (false, false) := rfl

/-- Neither power-up nor an assertion of RESET_N leaves anything of an earlier table (R88). -/
theorem car_outliving (s : State) : (outliving s).car.live = Table.dflt := rfl

theorem car_blockReset (s : State) : (blockReset s).car.live = Table.dflt := rfl

theorem exec_resetNAssert {s : State} (h : alive s = true) : exec .resetNAssert s = .next (blockReset s) :=
  congrArg Host.Outcome.next (if_pos h)

theorem exec_powerUp {s : State} (h : s.pins.powered = false) : exec .powerUp s = .next (outliving s) :=
  congrArg Host.Outcome.next (if_neg (by simp [h]))

/-- Settles O56: each of the three leaves the default table live, whose generation, owners and flags are R88's. -/
theorem defaultTable : Obligations.DefaultTable := by
  intro t ht
  have hlive : t.car.live = Table.dflt := by
    rcases ht with rfl | ⟨s, hp, hr, hexec⟩ | ⟨s, hp, hexec⟩
    · rfl
    · rw [exec_resetNAssert (alive_iff.mpr ⟨hp, hr⟩)] at hexec
      cases hexec
      exact car_blockReset s
    · rw [exec_powerUp hp] at hexec
      cases hexec
      exact car_outliving s
  rw [hlive]
  exact ⟨rfl, ownerAt_dflt, noLend_dflt⟩

end Sys2Proof.Machine
end

section
/-! A command on the ring number that the model keeps for served fragments is never issued. -/

namespace Sys2Proof.Machine

open Sys2Proof.Claims

/-! ### The counterexample

The served fragments count as one further ring behind those granted (R258), and `tileIssue` tells the two apart by the ring's
number alone. The statement leaves the number of the command's ring free. Here a partition that is granted two rings has
its command on ring 2, which is the number of the served fragments' ring. RING_CREATE would refuse that ring; the hypotheses
of the statement do not. -/

/-- A split tile of a GEMM that waits for an engine, and its command, which has begun. -/
def waitingTile : Tile := Tile.fresh 0 (.gemmSplit 0 0 0 1 1) 0 100
def waitingCmd : Cmd := { Cmd.admitHead 0 (0x30 :: List.replicate 63 0) [] with began := true, tiles := [waitingTile] }

def ringBehindGranted : CmdRing :=
  { CmdRing.fresh 1 6 0x20000 0 0 1 with head := 1, tail := 1, jobOpen := true, jobStarted := true, cur := some waitingCmd }

/-- A running partition that is granted dome 0 and two command rings, numbers 0 and 1. -/
def twoRingsGranted : Def :=
  { newDef { parseGrant [] with domeMask := 1, cmdRings := 2 } 1 [0] [] with
    slot := some 3, state := .running, rings := [(2, ringBehindGranted)] }

/-- A block that operates with that one partition. -/
def ringBehind : State := { State.reset with
  pins := { Pins.reset with resetN := true }, boot := { Boot.reset with stage := .ready }, defs := [(5, twoRingsGranted)] }

theorem oneCommand_ringBehind : OneCommand ringBehind 3 2 5 twoRingsGranted ringBehindGranted waitingCmd :=
  ⟨rfl, rfl, rfl, rfl, rfl, rfl, rfl, rfl, rfl, rfl, rfl, rfl, rfl, rfl, rfl, fun _ h => nomatch h⟩

/-- Engine 0 of dome 0 is free, the partition may use it, and the command's tile is the next one for it. -/
theorem nextTile_ringBehind :
    laneBusy ringBehind 0 0 = false ∧ 0 < share12 ringBehind 3 0 ∧ ownerNow ringBehind 11 ≠ ownerEmpty ∧
      nextTile ringBehind twoRingsGranted 0 false ringBehindGranted = some (waitingCmd, waitingTile) := by
  decide +kernel

/-- TILE_ISSUE takes the command's tile for a served fragment's, of which there is none: the tile goes on waiting. -/
theorem tileAt_tileIssue_ringBehind : tileAt (tileIssue 0 0 ringBehind) 5 2 0 = some waitingTile := by
  decide +kernel

/-- Refutes O35: its first clause lets the command's ring have the number of the served fragments' ring (O36 excludes that by
`ring ≠ servedRing d`), and then the tile is not issued. -/
theorem not_tileIssued : ¬ Obligations.TileIssued := by
  rintro ⟨hissues, -⟩
  obtain ⟨hbusy, hshare, howner, hnext⟩ := nextTile_ringBehind
  obtain ⟨-, -, hengine, -⟩ := hissues 0 0 3 2 5 twoRingsGranted ringBehindGranted waitingCmd waitingTile ringBehind
    oneCommand_ringBehind (fun _ h => nomatch h) (by decide) (by decide) rfl hbusy rfl rfl hshare howner (by decide) hnext
  obtain ⟨t, y, hexec, -, -, hat, hissued, -⟩ := hengine rfl
  have ht : t = tileIssue 0 0 ringBehind :=
    (Host.Outcome.next.inj hexec).symm.trans (whenOp_of oneCommand_ringBehind.1)
  rw [ht, show waitingTile.idx = 0 from rfl, tileAt_tileIssue_ringBehind] at hat
  cases hat
  cases hissued

end Sys2Proof.Machine
end
